-- ==== Sys2Proof/Word.lean ====
section
/-! DEFINITION. The machine's words: the bit vectors the manual's fields, registers and payloads are made of. -/

namespace Sys2Proof

/-- One byte of memory, of a scratchpad or of a payload. -/
abbrev Byte := BitVec 8

/-- A 64-bit word: every configuration word, register and constant (R54), and a whole lane of a 64-bit type. -/
abbrev Word := BitVec 64

/-- One payload slot of a token, or a lane or poison mask (R28, R38). -/
abbrev Half := BitVec 32

/-- A table kept as key and value pairs; a key that is not listed has the value its reader names. -/
abbrev Table (κ α : Type) := List (κ × α)

end Sys2Proof
end

