-- ==== Sys2Proof/Machine/Bits.lean ====
section
/-! DEFINITION. Bit fields, sign extension and byte order: how the manual cuts a word into fields (R3, R10) and lays
values out as bytes (R5). -/

namespace Sys2Proof

/-- The value whose fields, lowest first, are the (width, value) pairs of the list. -/
def pack : List (Nat × Nat) → Nat
  | [] => 0
  | (w, v) :: rest => v % 2 ^ w + 2 ^ w * pack rest

/-- The fields of a value, lowest first, for the widths of the list. -/
def unpack : List Nat → Nat → List Nat
  | [], _ => []
  | w :: rest, n => n % 2 ^ w :: unpack rest (n / 2 ^ w)

/-- The field of `len` bits whose lowest bit is `lo` (R3). -/
def bits (n lo len : Nat) : Nat := n / 2 ^ lo % 2 ^ len

/-- Bit `i` of a value. -/
def bit (n i : Nat) : Bool := n / 2 ^ i % 2 == 1

/-- The value with the field of `len` bits at `lo` replaced. -/
def setBits (n lo len v : Nat) : Nat :=
  n % 2 ^ lo + 2 ^ lo * (v % 2 ^ len) + 2 ^ (lo + len) * (n / 2 ^ (lo + len))

/-- sx(x, n) of R10: the low `w` bits as a signed integer. -/
def sx (x w : Nat) : Int :=
  let y := x % 2 ^ w
  if w = 0 then 0 else if y < 2 ^ (w - 1) then (y : Int) else (y : Int) - 2 ^ w

/-- An integer wrapped to `w` bits in two's complement (R12). -/
def wrap (x : Int) (w : Nat) : Nat := (x % (2 ^ w : Int)).toNat

/-- The bytes of a value, least significant first (R5). -/
def toBytes : Nat → Nat → List Byte
  | 0, _ => []
  | k + 1, n => BitVec.ofNat 8 n :: toBytes k (n / 256)

/-- The value of bytes that stand least significant first (R5). -/
def ofBytes : List Byte → Nat
  | [] => 0
  | b :: bs => b.toNat + 256 * ofBytes bs

/-- The eight bytes of a word (R5). -/
def wordBytes (w : Word) : List Byte := toBytes 8 w.toNat

/-- The set bits of a mask below `n`, ascending. -/
def maskLanes (m n : Nat) : List Nat := (List.range n).filter (bit m)

/-- The mask whose set bits are those below `n` that the test accepts. -/
def maskOf (n : Nat) (f : Nat → Bool) : Nat :=
  (List.range n).foldr (fun l acc => if f l then acc + 2 ^ l else acc) 0

/-- The number of set bits below `n`. -/
def popcount (m n : Nat) : Nat := (maskLanes m n).length

/-- The entry of a table for a key, or the default the reader names. -/
def Table.get {κ α : Type} [DecidableEq κ] (t : Table κ α) (d : α) (k : κ) : α :=
  match t with
  | [] => d
  | (k', v) :: rest => if k' = k then v else Table.get rest d k

/-- The entry of a table for a key, if it is listed. -/
def Table.find {κ α : Type} [DecidableEq κ] (t : Table κ α) (k : κ) : Option α :=
  match t with
  | [] => none
  | (k', v) :: rest => if k' = k then some v else Table.find rest k

/-- The table with a key's entry replaced, or added at the end. -/
def Table.set {κ α : Type} [DecidableEq κ] (t : Table κ α) (k : κ) (v : α) : Table κ α :=
  match t with
  | [] => [(k, v)]
  | (k', v') :: rest => if k' = k then (k', v) :: rest else (k', v') :: Table.set rest k v

/-- The table without a key's entries. -/
def Table.erase {κ α : Type} [DecidableEq κ] (t : Table κ α) (k : κ) : Table κ α :=
  t.filter fun p => !decide (p.1 = k)

/-- Element `i` of a list, or the default. -/
def nth {α : Type} (l : List α) (i : Nat) (d : α) : α := l.getD i d

/-- The list with element `i` replaced; unchanged when there is none. -/
def setNth {α : Type} : List α → Nat → α → List α
  | [], _, _ => []
  | _ :: xs, 0, v => v :: xs
  | x :: xs, i + 1, v => x :: setNth xs i v

/-- The list without element `i`. -/
def dropNth {α : Type} : List α → Nat → List α
  | [], _ => []
  | _ :: xs, 0 => xs
  | x :: xs, i + 1 => x :: dropNth xs i

/-- Insert into a list sorted by `le`, before the first element that is not smaller. -/
def insertBy {α : Type} (le : α → α → Bool) (x : α) : List α → List α
  | [] => [x]
  | y :: ys => if le x y then x :: y :: ys else y :: insertBy le x ys

/-- A list sorted by `le`; equal elements keep their order. -/
def sortBy {α : Type} (le : α → α → Bool) (l : List α) : List α := l.foldr (insertBy le) []

/-- A Boolean as a bit. -/
def b2n (b : Bool) : Nat := if b then 1 else 0

end Sys2Proof
end

