-- ==== Sys2Proof/Syntax.lean ====
section
/-! DEFINITION. The syntax: operand forms as the manual names them, and one constructor of `Instr` per row of the
opcode table. -/

namespace Sys2Proof

/-- Element types, in the order of their TY codes (R8). -/
inductive Ty where
  | i8 | i16 | i32 | i64 | n8 | n16 | n32 | n64 | f16 | bf16 | f32 | f64 | e4m3 | e5m2 | e2m3 | e2m1
deriving DecidableEq, Repr

/-- Operand selectors A, B and C (R58). -/
inductive Sel where
  /-- T0 to T7: a temporary of the firing. -/
  | t (n : Fin 8)
  /-- P0 to P3: the token matched on a port. -/
  | p (n : Fin 4)
  /-- K0 to K7: a constant. -/
  | k (n : Fin 8)
  /-- M0 to M3: a mask register, one bit a lane. -/
  | m (n : Fin 4)
  | zero | one | lane | iter | frame | imm | immf
  /-- No operand. -/
  | none
deriving DecidableEq, Repr

/-- Destination selectors D (R60). -/
inductive Dst where
  | t (n : Fin 8)
  /-- O0 to O3: emit a token. -/
  | o (n : Fin 4)
  | m (n : Fin 4)
  /-- Discard the result. -/
  | none
deriving DecidableEq, Repr

/-- Predicate sources (R61): the token mask, or a mask register, inverted when `inv`. -/
inductive Pred where
  | token
  | mask (n : Fin 4) (inv : Bool)
deriving DecidableEq, Repr

/-- Rounding modes (R62). -/
inductive Rnd where
  | rne | rtz | rdn | rup | rna | sr | dyn
deriving DecidableEq, Repr

/-- The fields of a Node Instruction Word other than its opcode (R56). `opt` is MOD, whose layout the instruction's
entry names (R64); `imm` is IMM16. -/
structure Niw where
  ty : Ty
  d : Dst
  a : Sel
  b : Sel
  c : Sel
  pred : Pred
  rm : Rnd
  sat : Bool
  fz : Bool
  opt : BitVec 7
  imm : BitVec 16
deriving DecidableEq, Repr

/-- A coordinate: the destination die and, within it, DEST = (X, Y) (R14, R15, R37). -/
structure Coord where
  die : BitVec 4
  x : BitVec 6
  y : BitVec 5
deriving DecidableEq, Repr

/-- A queue entry without its CMD code: words 0 and 1 by field (R122), and words 2 to 7 (R123). -/
structure Cmd where
  cen : Bool
  cnfy : BitVec 8
  lid : Half
  cval : Word
  w2 : Word
  w3 : Word
  w4 : Word
  w5 : Word
  w6 : Word
  w7 : Word
deriving DecidableEq, Repr

/-- The fields of a packet header (R410). -/
structure Pkt where
  kind : BitVec 4
  trim : Bool
  trims : BitVec 3
  tc : BitVec 2
  ddev : BitVec 18
  sdev : BitVec 18
  sport : BitVec 6
  chan : BitVec 6
  ord : Bool
  msn : BitVec 24
  dsn : BitVec 24
  pidx : BitVec 7
  npkm1 : BitVec 7
  win : BitVec 8
  rkey : BitVec 16
  off : BitVec 40
  tsite : BitVec 24
  len : BitVec 13
  aop : BitVec 4
  aty : BitVec 4
  xtag : BitVec 16
deriving DecidableEq, Repr

/-- The operands of an event: where it happens, two numbers that pick what it happens to (a context, a slot, a list
position), a value, and bytes. An event has no encoding in the manual; this record is the model's. -/
structure Ev where
  pos : Coord
  i : Half
  j : Half
  v : Word
  data : List Byte
deriving DecidableEq, Repr

/-- What a step that is no instruction word carries beside its kind: a strobe's ARG (R34), a packet's header (R410),
an event's operands. -/
inductive Arg where
  | none
  | strobe (a : BitVec 48)
  | pkt (h : Pkt)
  | ev (e : Ev)
deriving DecidableEq, Repr

/-- One constructor per row of the opcode table: the node instructions (R80), the control commands (R72), the strobes
(R34), the packets (R411), the queue commands (R123) and the events the rules describe. A strobe, a packet and an
event are named by their kind; what they carry is an `Arg`. -/
inductive Instr where
  /-- NOP (R195). Occupies one pass and has no effect. -/
  | nop (n : Niw)
  /-- ADD (R187). Adds two integer operands per active lane, wrapping or saturating. -/
  | add (n : Niw)
  /-- SUB (R187). Subtracts integer operands per active lane, wrapping or saturating. -/
  | sub (n : Niw)
  /-- ADDC (R188). Adds with carry in and carry out through a mask register. -/
  | addc (n : Niw)
  /-- SUBB (R188). Subtracts with borrow in and borrow out through a mask register. -/
  | subb (n : Niw)
  /-- MUL (R187). Multiplies integer operands per lane, wrapping or saturating. -/
  | mul (n : Niw)
  /-- MULH (R187). Writes the high half of the integer product. -/
  | mulh (n : Niw)
  /-- MAD (R187). Computes a times b plus c on integers. -/
  | mad (n : Niw)
  /-- SAD (R187). Adds the absolute difference of a and b to c. -/
  | sad (n : Niw)
  /-- DOT4 (R189). Accumulates a four-way byte dot product into a 32-bit value. -/
  | dot4 (n : Niw)
  /-- MIN (R187). Writes the integer minimum of two operands. -/
  | min (n : Niw)
  /-- MAX (R187). Writes the integer maximum of two operands. -/
  | max (n : Niw)
  /-- ABS (R187). Writes the absolute value of a signed integer. -/
  | abs (n : Niw)
  /-- NEG (R187). Writes the negation of an integer. -/
  | neg (n : Niw)
  /-- CLAMP (R187). Clamps an integer between two bounds. -/
  | clamp (n : Niw)
  /-- AND (R190). Bitwise AND of two patterns. -/
  | and (n : Niw)
  /-- OR (R190). Bitwise OR of two patterns. -/
  | or (n : Niw)
  /-- XOR (R190). Bitwise XOR of two patterns. -/
  | xor (n : Niw)
  /-- ANDN (R190). Bitwise AND of A with the complement of B. -/
  | andn (n : Niw)
  /-- NOT (R190). Bitwise complement of A. -/
  | not (n : Niw)
  /-- SHL (R190). Shifts left by a count. -/
  | shl (n : Niw)
  /-- SHR (R190). Shifts right logically by a count. -/
  | shr (n : Niw)
  /-- SAR (R190). Shifts right arithmetically by a count. -/
  | sar (n : Niw)
  /-- ROT (R190). Rotates left by a count modulo the width. -/
  | rot (n : Niw)
  /-- FUNNEL (R190). Funnel-shifts the concatenation of A and B. -/
  | funnel (n : Niw)
  /-- CLZ (R191). Counts leading zero bits. -/
  | clz (n : Niw)
  /-- CTZ (R191). Counts trailing zero bits. -/
  | ctz (n : Niw)
  /-- POPC (R191). Counts set bits. -/
  | popc (n : Niw)
  /-- BREV (R191). Reverses the bit order. -/
  | brev (n : Niw)
  /-- BFE (R192). Extracts a bit field with sign or zero extension. -/
  | bfe (n : Niw)
  /-- BFI (R192). Inserts a bit field from A into B. -/
  | bfi (n : Niw)
  /-- PERM (R193). Permutes bytes of two words by selector nibbles. -/
  | perm (n : Niw)
  /-- PACK (R193). Packs narrowed elements into one 32-bit slot. -/
  | pack (n : Niw)
  /-- UNPK (R193). Extracts one packed element and widens it. -/
  | unpk (n : Niw)
  /-- SEL (R194). Selects A or B per lane by a condition value. -/
  | sel (n : Niw)
  /-- CMP (R194). Writes 1 or 0 per lane from an integer comparison. -/
  | cmp (n : Niw)
  /-- CMPM (R194). Writes an integer comparison outcome into a mask register. -/
  | cmpm (n : Niw)
  /-- MOV (R195). Copies the bit pattern of A to D. -/
  | mov (n : Niw)
  /-- MOVI (R195). Writes a sign-extended 16-bit immediate. -/
  | movi (n : Niw)
  /-- MOVI_HI (R195). Writes the immediate as the high half over A's low half. -/
  | moviHi (n : Niw)
  /-- LEA (R195). Computes A plus B shifted left. -/
  | lea (n : Niw)
  /-- LEA2 (R195). Computes A plus two shifted operands. -/
  | lea2 (n : Niw)
  /-- SHFL (R196). Moves values between lanes by index, xor, up or down. -/
  | shfl (n : Niw)
  /-- BCAST (R196). Broadcasts one lane's value to every active lane. -/
  | bcast (n : Niw)
  /-- LRED (R197). Reduces active lanes with an integer operation. -/
  | lred (n : Niw)
  /-- LSCAN (R197). Computes an inclusive or exclusive integer scan over lanes. -/
  | lscan (n : Niw)
  /-- LPACK (R198). Compacts the active lanes to the low lanes. -/
  | lpack (n : Niw)
  /-- CNT (R198). Counts active lanes holding an equal value. -/
  | cnt (n : Niw)
  /-- MAND (R199). ANDs two mask registers. -/
  | mand (n : Niw)
  /-- MOR (R199). ORs two mask registers. -/
  | mor (n : Niw)
  /-- MXOR (R199). XORs two mask registers. -/
  | mxor (n : Niw)
  /-- MNOT (R199). Complements a mask register. -/
  | mnot (n : Niw)
  /-- MPOP (R199). Counts set bits of a mask register. -/
  | mpop (n : Niw)
  /-- MFIRST (R199). Finds the lowest set bit of a mask register. -/
  | mfirst (n : Niw)
  /-- MSET (R199). Sets a mask register from a 32-bit value. -/
  | mset (n : Niw)
  /-- TAGRD (R200). Writes a field of the firing's tag or masks. -/
  | tagrd (n : Niw)
  /-- HASH (R200). Hashes A xor B with a fixed mixing function. -/
  | hash (n : Niw)
  /-- FADD (R201). Adds floats with one rounding. -/
  | fadd (n : Niw)
  /-- FSUB (R201). Subtracts floats with one rounding. -/
  | fsub (n : Niw)
  /-- FMUL (R201). Multiplies floats with one rounding. -/
  | fmul (n : Niw)
  /-- FFMA (R201). Fused multiply-add of floats. -/
  | ffma (n : Niw)
  /-- FFMS (R201). Fused multiply-subtract of floats. -/
  | ffms (n : Niw)
  /-- FNMA (R201). Fused negated multiply-add of floats. -/
  | fnma (n : Niw)
  /-- FNMS (R201). Fused negated multiply-subtract of floats. -/
  | fnms (n : Niw)
  /-- FMIN (R202). Float minimum, NaN if either operand is NaN. -/
  | fmin (n : Niw)
  /-- FMAX (R202). Float maximum, NaN if either operand is NaN. -/
  | fmax (n : Niw)
  /-- FMINN (R202). Float minimum ignoring a single NaN. -/
  | fminn (n : Niw)
  /-- FMAXN (R202). Float maximum ignoring a single NaN. -/
  | fmaxn (n : Niw)
  /-- FMAXA (R202). Maximum of absolute values. -/
  | fmaxa (n : Niw)
  /-- FMED3 (R202). Median of three floats. -/
  | fmed3 (n : Niw)
  /-- FABS (R203). Clears the sign bit. -/
  | fabs (n : Niw)
  /-- FNEG (R203). Inverts the sign bit. -/
  | fneg (n : Niw)
  /-- FCOPYSIGN (R203). Gives A the sign bit of B. -/
  | fcopysign (n : Niw)
  /-- FCMP (R204). Writes 1 or 0 from a float comparison. -/
  | fcmp (n : Niw)
  /-- FCMPM (R204). Writes a float comparison into a mask register. -/
  | fcmpm (n : Niw)
  /-- FCLASS (R204). Classifies a float into one of ten classes. -/
  | fclass (n : Niw)
  /-- FRINT (R205). Rounds a float to an integral value. -/
  | frint (n : Niw)
  /-- FFRAC (R205). Returns the fractional part of a float. -/
  | ffrac (n : Niw)
  /-- FSCALE (R205). Multiplies a float by a power of two. -/
  | fscale (n : Niw)
  /-- FGETEXP (R205). Returns the unbiased exponent of a float. -/
  | fgetexp (n : Niw)
  /-- FGETMAN (R205). Returns the significand in [1, 2). -/
  | fgetman (n : Niw)
  /-- FDOT2 (R206). Paired dot product of 16-bit floats into F32. -/
  | fdot2 (n : Niw)
  /-- FLERP (R207). Linear interpolation with one rounding. -/
  | flerp (n : Niw)
  /-- FCVTS (R208). Converts between F16, BF16 and F32. -/
  | fcvts (n : Niw)
  /-- FRED (R209). Reduces active lanes in a fixed binary tree. -/
  | fred (n : Niw)
  /-- CVT (R259). Converts between float formats. -/
  | cvt (n : Niw)
  /-- CVTI (R260). Converts a float to an integer with clamping. -/
  | cvti (n : Niw)
  /-- CVTF (R259). Converts an integer to a float format. -/
  | cvtf (n : Niw)
  /-- QNT (R261). Quantises the run as one block and sends a scale token then a value token. -/
  | qnt (n : Niw)
  /-- DQNT (R262). Dequantises codes with their block scales. -/
  | dqnt (n : Niw)
  /-- AMAXB (R263). Writes the maximum absolute value over active lanes. -/
  | amaxb (n : Niw)
  /-- RNG (R264). Produces counter-based random bits or a float in [0, 1). -/
  | rng (n : Niw)
  /-- EXP2 (R265). Correctly rounded 2 to the a. -/
  | exp2 (n : Niw)
  /-- LOG2 (R265). Correctly rounded base-2 logarithm. -/
  | log2 (n : Niw)
  /-- EXP (R265). Correctly rounded natural exponential. -/
  | exp (n : Niw)
  /-- LN (R265). Correctly rounded natural logarithm. -/
  | ln (n : Niw)
  /-- RCP (R265). Correctly rounded reciprocal. -/
  | rcp (n : Niw)
  /-- RSQ (R265). Correctly rounded reciprocal square root. -/
  | rsq (n : Niw)
  /-- SQRT (R265). Correctly rounded square root. -/
  | sqrt (n : Niw)
  /-- DIV (R265). Correctly rounded float division. -/
  | div (n : Niw)
  /-- SINPI (R265). Correctly rounded sin of pi times a. -/
  | sinpi (n : Niw)
  /-- COSPI (R265). Correctly rounded cos of pi times a. -/
  | cospi (n : Niw)
  /-- TANH (R265). Correctly rounded hyperbolic tangent. -/
  | tanh (n : Niw)
  /-- SIGM (R265). Correctly rounded logistic sigmoid. -/
  | sigm (n : Niw)
  /-- ATANPI (R265). Correctly rounded arctangent divided by pi. -/
  | atanpi (n : Niw)
  /-- ERF (R265). Correctly rounded error function. -/
  | erf (n : Niw)
  /-- DFMA (R267). F64 fused multiply-add. -/
  | dfma (n : Niw)
  /-- DADD (R267). F64 addition. -/
  | dadd (n : Niw)
  /-- DMUL (R267). F64 multiplication. -/
  | dmul (n : Niw)
  /-- DDIV (R267). F64 division. -/
  | ddiv (n : Niw)
  /-- DSQRT (R267). F64 square root. -/
  | dsqrt (n : Niw)
  /-- IDIV (R268). Truncating integer division. -/
  | idiv (n : Niw)
  /-- IREM (R268). Integer remainder with the sign of the dividend. -/
  | irem (n : Niw)
  /-- ALLOC (R155). Takes one frame per active lane from the Mint, all or nothing. -/
  | alloc (n : Niw)
  /-- FREE (R156). Sets the named frames to retiring. -/
  | free (n : Niw)
  /-- EMIT (R157). Sends A to iteration b plus d of the same frame. -/
  | emit (n : Niw)
  /-- EMITT (R158). Sends each lane to a named frame and iteration. -/
  | emitt (n : Niw)
  /-- ITER (R159). Opens an iteration stream of a count in a named frame. -/
  | iter (n : Niw)
  /-- SPLIT (R160). Cuts the run into shorter tokens. -/
  | split (n : Niw)
  /-- MERGE (R162). Rejoins two port halves into one token. -/
  | merge (n : Niw)
  /-- STEER (R161). Routes lanes to two ports by a condition. -/
  | steer (n : Niw)
  /-- GATE (R163). Sends A's lanes once a token is present on B. -/
  | gate (n : Niw)
  /-- EOS (R164). Sends an end-of-stream marker. -/
  | eos (n : Niw)
  /-- JOINP (R166). Makes the frame a member of a party set. -/
  | joinp (n : Niw)
  /-- LEAVEP (R166). Removes the frame from a party set. -/
  | leavep (n : Niw)
  /-- BARR (R166). Arrives at the party set's barrier. -/
  | barr (n : Niw)
  /-- DEPTH (R169). Requests a new buffer share for an input port. -/
  | depth (n : Niw)
  /-- LD (R231). Loads one element per lane and replies with one token. -/
  | ld (n : Niw)
  /-- LDG (R231). Loads per lane and replies with one token per line group. -/
  | ldg (n : Niw)
  /-- LDL (R231). Loads through 64-bit pointer lanes. -/
  | ldl (n : Niw)
  /-- LDA (R231). Loads with acquire at a scope. -/
  | lda (n : Niw)
  /-- LDB (R231). Loads one value and broadcasts it to every lane. -/
  | ldb (n : Niw)
  /-- LDS (R233). Loads the next elements of an affine or linked stream. -/
  | lds (n : Niw)
  /-- LDSG (R233). Gathers elements of an indexed stream. -/
  | ldsg (n : Niw)
  /-- ST (R232). Stores lanes, one write per line. -/
  | st (n : Niw)
  /-- STG (R232). Stores each lane as its own write. -/
  | stg (n : Niw)
  /-- STM (R232). Stores active lanes densely from one base index. -/
  | stm (n : Niw)
  /-- STR (R232). Stores with release at a scope. -/
  | str (n : Niw)
  /-- STS (R233). Stores to the next positions of an affine stream. -/
  | sts (n : Niw)
  /-- STSS (R233). Scatters values into an indexed stream. -/
  | stss (n : Niw)
  /-- STZ (R232). Zeroes 64-byte granules per lane. -/
  | stz (n : Niw)
  /-- SOPEN (R234). Opens a stream at an offset. -/
  | sopen (n : Niw)
  /-- SSEEK (R234). Sets a stream's position. -/
  | sseek (n : Niw)
  /-- SCLOSE (R234). Closes a stream after draining its writes and sends its close receipt. -/
  | sclose (n : Niw)
  /-- SBAR (R235). Orders named access classes across the barrier. -/
  | sbar (n : Niw)
  /-- SFLUSH (R234). Sends a receipt once a stream's earlier writes are performed. -/
  | sflush (n : Niw)
  /-- FENCE (R235). Sends a receipt once the frame's earlier writes from this ME are performed. -/
  | fence (n : Niw)
  /-- PROBE (R236). Returns a translation and permission status word per lane without faulting. -/
  | probe (n : Niw)
  /-- PFETCH (R236). Brings lines into the memory-side cache. -/
  | pfetch (n : Niw)
  /-- SCNT (R234). Sends a stream's position. -/
  | scnt (n : Niw)
  /-- XWB (R236). Writes lines back to backing memory and sends a receipt at SYS. -/
  | xwb (n : Niw)
  /-- XINV (R236). Writes lines back and invalidates their memory-side copies. -/
  | xinv (n : Niw)
  /-- SMAP (R237). Sends window or spill-map state. -/
  | smap (n : Niw)
  /-- CPY (R288). Issues one-dimensional copy instances with optional conversion. -/
  | cpy (n : Niw)
  /-- CPY2 (R288). Issues two-dimensional copy instances. -/
  | cpy2 (n : Niw)
  /-- CPY3 (R288). Issues three-dimensional copy instances. -/
  | cpy3 (n : Niw)
  /-- CPYM (R289). Issues copies multicast to several scratchpads. -/
  | cpym (n : Niw)
  /-- CPYZ (R293). Issues jobs compressing dense slices into bitmap tiles. -/
  | cpyz (n : Niw)
  /-- CPYX (R294). Issues jobs expanding bitmap tiles into dense bytes. -/
  | cpyx (n : Niw)
  /-- CPYA (R297). Issues jobs appending tiles to the A FIFO. -/
  | cpya (n : Niw)
  /-- CPYB (R298). Issues jobs writing tiles into a B panel buffer. -/
  | cpyb (n : Niw)
  /-- CPYF (R290). Issues fill jobs with a repeating pattern. -/
  | cpyf (n : Niw)
  /-- CPYC (R291). Issues row-gather jobs through an index list. -/
  | cpyc (n : Niw)
  /-- CPYQ (R292). Issues jobs quantising blocks while copying. -/
  | cpyq (n : Niw)
  /-- FPDECL (R299). Issues footprint-fence instances that move no data. -/
  | fpdecl (n : Niw)
  /-- MNCFG (R323). Checks and writes a Matrix Node configuration slot. -/
  | mncfg (n : Niw)
  /-- MNCFG_CHECK (R323). Checks a configuration slot as it stands. -/
  | mncfgCheck (n : Niw)
  /-- MNLDB (R324). Holds a B buffer, checking its columns. -/
  | mnldb (n : Niw)
  /-- MNRUN (R325). Issues a run of row firings from the A FIFO. -/
  | mnrun (n : Niw)
  /-- MNRUN_P (R325). Issues a one-row run from a port token. -/
  | mnrunP (n : Niw)
  /-- MNZERO (R327). Clears accumulator row slots. -/
  | mnzero (n : Niw)
  /-- MNOUT (R329). Sends accumulator rows as tokens, optionally clearing them. -/
  | mnout (n : Niw)
  /-- MNPROG (R333). Sends the frame's retired row-firing count. -/
  | mnprog (n : Niw)
  /-- MNAOR (R333). Sends the supported and declared accumulation-order revisions. -/
  | mnaor (n : Niw)
  /-- MNSCL (R327). Rescales accumulator rows by a power of two. -/
  | mnscl (n : Niw)
  /-- MNSAVE (R332). Writes accumulator row slots to memory. -/
  | mnsave (n : Niw)
  /-- MNREST (R332). Reads accumulator row slots from memory. -/
  | mnrest (n : Niw)
  /-- MNCHK (R333). Checks a buffer's column headers and sends the result. -/
  | mnchk (n : Niw)
  /-- MNSTAT (R333). Sends a selected node status value. -/
  | mnstat (n : Niw)
  /-- MNSWAP (R324). Releases one B buffer and holds the other. -/
  | mnswap (n : Niw)
  /-- HADD (R361). Atomic integer add at the home slice. -/
  | hadd (n : Niw)
  /-- HFADD (R362). Atomic float add at the home slice. -/
  | hfadd (n : Niw)
  /-- HMIN (R361). Atomic integer minimum. -/
  | hmin (n : Niw)
  /-- HMAX (R361). Atomic integer maximum. -/
  | hmax (n : Niw)
  /-- HFMIN (R362). Atomic float minimum. -/
  | hfmin (n : Niw)
  /-- HFMAX (R362). Atomic float maximum. -/
  | hfmax (n : Niw)
  /-- HAND (R361). Atomic bitwise AND. -/
  | hand (n : Niw)
  /-- HOR (R361). Atomic bitwise OR. -/
  | hor (n : Niw)
  /-- HXOR (R361). Atomic bitwise XOR. -/
  | hxor (n : Niw)
  /-- HXCHG (R363). Atomic exchange. -/
  | hxchg (n : Niw)
  /-- HCAS (R363). Atomic compare-and-swap on bit patterns. -/
  | hcas (n : Niw)
  /-- HINC (R364). Takes distinct tickets for the active lanes in one atomic event. -/
  | hinc (n : Niw)
  /-- HRED (R366). Adds the sum of all lanes into one element with one rounding. -/
  | hred (n : Niw)
  /-- HSEQ (R367). Reads a line's last sequence tag. -/
  | hseq (n : Niw)
  /-- WLCFG (R395). Configures the region's worklist in every Till. -/
  | wlcfg (n : Niw)
  /-- WLPUSH (R396). Pushes one task per active lane. -/
  | wlpush (n : Niw)
  /-- WLPUSHB (R397). Pushes tasks read from a record array in memory. -/
  | wlpushb (n : Niw)
  /-- WLPOP (R383). A pop source forms a batch and emits its tokens and markers. -/
  | wlpop (n : Niw)
  /-- WLDONE (R399). Covers the run's iterations and retires completed tasks. -/
  | wldone (n : Niw)
  /-- WLDONE_SEED (R399). Clears the Clearing hold. -/
  | wldoneSeed (n : Niw)
  /-- WLMIN (R400). Sends a lower-bound value of the worklist. -/
  | wlmin (n : Niw)
  /-- WLSTAT (R400). Sends a worklist status value. -/
  | wlstat (n : Niw)
  /-- WLDRAIN (R401). Sends a receipt at termination. -/
  | wldrain (n : Niw)
  /-- LPUT (R432). Puts local bytes into a remote window, one message per lane. -/
  | lput (n : Niw)
  /-- LPUTN (R433). Puts the firing's values as one message that delivers an arrival token. -/
  | lputn (n : Niw)
  /-- LGET (R432). Gets bytes of a remote window into local memory. -/
  | lget (n : Niw)
  /-- LATOM (R434). Performs atomics on remote elements. -/
  | latom (n : Niw)
  /-- LFLUSH (R435). Sends a receipt once a channel's earlier messages are complete. -/
  | lflush (n : Niw)
  /-- LCHAN_OPEN (R431). Opens a channel from a descriptor and a base. -/
  | lchanOpen (n : Niw)
  /-- LCHAN_CLOSE (R431). Closes a channel after its messages complete. -/
  | lchanClose (n : Niw)
  /-- LSTAT (R437). Sends a link counter value. -/
  | lstat (n : Niw)
  /-- LCFG_BIND (R436). Binds a receive window to the context, port and frame. -/
  | lcfgBind (n : Niw)
  /-- LCFG_UNBIND (R436). Removes the context's binding of a window. -/
  | lcfgUnbind (n : Niw)
  /-- TRAP (R469). Traps when any lane is active. -/
  | trap (n : Niw)
  /-- TRAPIF (R469). Traps when a comparison holds in any active lane. -/
  | trapif (n : Niw)
  /-- FLAGS (R470). Reads the context's sticky flags. -/
  | flags (n : Niw)
  /-- FLAGC (R470). Clears selected sticky flags. -/
  | flagc (n : Niw)
  /-- POISON (R471). Copies A and poisons lanes where B is non-zero. -/
  | poison (n : Niw)
  /-- PCHK_MASK (R472). Writes lanes' poison into a mask register. -/
  | pchkMask (n : Niw)
  /-- PCHK_TRAP (R472). Traps when any active lane is poisoned. -/
  | pchkTrap (n : Niw)
  /-- PCHK_CNT (R472). Counts poisoned active lanes. -/
  | pchkCnt (n : Niw)
  /-- BEAT (R473). Arms the context's beat counter on a port. -/
  | beat (n : Niw)
  /-- BEAT_OFF (R473). Disarms the beat counter. -/
  | beatOff (n : Niw)
  /-- TAPM_ON (R474). Binds a tap slot to an output edge. -/
  | tapmOn (n : Niw)
  /-- TAPM_OFF (R474). Clears a tap slot. -/
  | tapmOff (n : Niw)
  /-- CFG (R106). Makes a block resident in the region. -/
  | seqCfg (blk : BitVec 6)
  /-- RUN (R107). Starts an iteration-space counter on a block in a new frame. -/
  | seqRun (blk : BitVec 6) (ic : BitVec 2) (count : Half)
  /-- SCHED (R108). Installs the scheduling set. -/
  | seqSched (blk : BitVec 6) (m1 : BitVec 5)
  /-- LOOP (R110). Counts a pass and jumps back or falls through. -/
  | seqLoop (ic : BitVec 2) (trips target : BitVec 16)
  /-- WAITS_BLK (R111). Waits until a block is neither resident nor loading. -/
  | waitsBlk (v : Half)
  /-- WAITS_IC (R111). Waits until a counter is inactive. -/
  | waitsIc (v : Half)
  /-- WAITS_TOK (R111). Waits for and consumes a count of Sequencer tokens. -/
  | waitsTok (v : Half)
  /-- NOTIFY (R113). Adds a value to a notify register after the region's earlier DEV writes. -/
  | seqNotify (nfy : BitVec 8) (v : Half)
  /-- SLOT (R114). Sets a specialisation slot value and patches resident nodes. -/
  | seqSlot (blk : BitVec 6) (k : BitVec 3) (v : Half)
  /-- LAUNCH (R101). Checks a code object and requests a region for a new launch. -/
  | cmdLaunch (c : Cmd)
  /-- WAIT (R123). Starts and completes when a notify register reaches a value. -/
  | cmdWait (c : Cmd)
  /-- SIGNAL (R123). Completes at once with its completion write. -/
  | cmdSignal (c : Cmd)
  /-- BARRIER (R123). Starts when every earlier command of the queue has completed. -/
  | cmdBarrier (c : Cmd)
  /-- SNAPSHOT (R460). Starts a cut to save a launch once its slice has run. -/
  | cmdSnapshot (c : Cmd)
  /-- RESTORE (R466). Checks a save area and restores the launch into a new region. -/
  | cmdRestore (c : Cmd)
  /-- RESUME (R449). Answers an open record with retry, skip or patch and readmits the frame. -/
  | cmdResume (c : Cmd)
  /-- DISCARD (R452). Answers a record by ending the frame's or engine's work poisoned. -/
  | cmdDiscard (c : Cmd)
  /-- ABORT (R453). Stops a launch and releases its region. -/
  | cmdAbort (c : Cmd)
  /-- DEPTH_APPLY (R169). A pending depth change takes effect once the edge has drained, and its receipt is sent. -/
  | evDepthApply
  /-- MNDIT_ON (R333). Sets the context's data-independent timing bit. -/
  | mnditOn
  /-- MNDIT_OFF (R333). Clears the context's data-independent timing bit. -/
  | mnditOff
  /-- WAITS_QUIET (R111). Waits until the region is quiescent. -/
  | waitsQuiet
  /-- HALT (R116). Ends the control stream and releases the region. -/
  | seqHalt
  /-- SCHED_DECISION (R109). The Sequencer chooses and loads a candidate block when contexts free. -/
  | evSchedDecision
  /-- SLOT_PATCH (R114). A node writes a slot patch between firings and acknowledges it. -/
  | evSlotPatch
  /-- CONFIG_PREFETCH (R119). The Sequencer prefetches configuration lines ahead of demand. -/
  | evConfigPrefetch
  /-- SEQ_TOKEN_ACCEPT (R111). The Sequencer takes a token on port P3 and adds 1 to TOKC. -/
  | evSeqTokenAccept
  /-- NODE_DRAINED (R118). A node of a block finds itself drained and sends a drained strobe. -/
  | evNodeDrained
  /-- START (R107). A counter source receives a start strobe and begins emitting runs. -/
  | skStart
  /-- FINISH (R107). The Sequencer receives a finish strobe and clears the counter's ACT when all arrive. -/
  | skFinish
  /-- DRAINED (R118). The Sequencer records a drained strobe and starts Close when all are held. -/
  | skDrained
  /-- REOPEN (R118). The Sequencer records a reopen strobe for a block. -/
  | skReopen
  /-- CLOSE (R118). A holder of words into a block stops sending and replies with its sent count. -/
  | skClose
  /-- OPEN (R118). A holder resumes sending on words into a block. -/
  | skOpen
  /-- COUNT (R118). The Sequencer collects a count reply and decides whether to free the block. -/
  | skCount
  /-- NOTICE (R461). A node receives a cut position notice for an input edge. -/
  | skNotice
  /-- CUT (R461). A node receives the cut strobe and stops sources and admissions. -/
  | skCut
  /-- PARK (R444). A cluster receives a park notice and withdraws the frame's tokens. -/
  | skPark
  /-- READMIT (R451). A cluster receives a readmit notice and readmits images and tokens. -/
  | skReadmit
  /-- RETIRE (R399). A pop source's Till receives a retire notice and the tasks leave service. -/
  | skRetire
  /-- TOKEN_ACCEPT (R134). A matching store accepts a token and matches it under its context's mode. -/
  | evTokenAccept
  /-- MARKER_ARRIVAL (R138). A marker arrives on a required port and waits for its partners. -/
  | evMarkerArrival
  /-- MARKER_PASS (R175). Waiting markers are consumed and one marker is emitted on each output port. -/
  | evMarkerPass
  /-- SCALE_TOKEN_ARRIVAL (R256). A scale token is held at its port or latched into the Matrix Node's A scale latch. -/
  | evScaleTokenArrival
  /-- VAULT_RETURN (R142). A Vault token returns to the store when an entry and a shared buffer are free. -/
  | evVaultReturn
  /-- SPILL_RETURN (R142). A spill-map token returns to the Vault when a slot frees. -/
  | evSpillReturn
  /-- OVERFLOW_DRAIN (R141). A piece leaves the overflow register for the first place that frees. -/
  | evOverflowDrain
  /-- FIRING_SLOT_ENTRY (R173). An admitted firing enters a free slot and gathers its tokens, returning their Chits. -/
  | evFiringSlotEntry
  /-- TOKEN_DEPART (R174). A token leaves the output queue when its edge has a credit. -/
  | evTokenDepart
  /-- TAP_RECORD_WRITE (R480). The die collector writes a trace record to its buffer and advances WP. -/
  | evTapRecordWrite
  /-- COUNTER_SOURCE_RUN (R136). A counter source admits its next run, and after the last sends markers and a finish strobe. -/
  | evCounterSourceRun
  /-- MINT_FRAME_REQUEST (R146). The Mint grants or refuses a frame request in order of receipt. -/
  | evMintFrameRequest
  /-- FRAME_RETURN (R147). A retiring frame with TCNT 0 and not parked returns to free and leaves its party sets. -/
  | evFrameReturn
  /-- A_FIFO_DISCARD (R296). Unclaimed A FIFO entries of a retiring frame are discarded. -/
  | evAFifoDiscard
  /-- LOAD_REPLY (R221). A load's data returns and its reply token is sent. -/
  | evLoadReply
  /-- WALK_COMPLETE (R218). A page-table walk completes and fills the waiting translation entry or faults. -/
  | evWalkComplete
  /-- WB_IDLE_DRAIN (R226). A write-buffer entry unwritten for 1,024 cycles drains. -/
  | evWbIdleDrain
  /-- HS_WRITE_EVENT (R347). A home slice bank performs a write event and tags it. -/
  | evHsWriteEvent
  /-- HS_READ_EVENT (R347). A home slice bank performs a read event. -/
  | evHsReadEvent
  /-- HS_ATOMIC_EVENT (R359). A home slice bank performs an atomic event on one line. -/
  | evHsAtomicEvent
  /-- LINE_FILL (R344). A missed line returns from backing memory and its waiting event is performed. -/
  | evLineFill
  /-- OPERATION_PERFORMED (R40). An operation is performed at its scope and its receipt is delivered. -/
  | evOperationPerformed
  /-- CP_INSTANCE_START (R278). An eligible Copy Engine instance takes a running slot. -/
  | evCpInstanceStart
  /-- CP_PIECE (R281). A Copy Engine piece is performed or faults. -/
  | evCpPiece
  /-- A_FIFO_APPEND (R295). A CPYA instance appends a tile once the FIFO has room and earlier instances are done. -/
  | evAFifoAppend
  /-- ROW_FIRING_ADMIT (R313). A row firing is admitted into the Matrix Node window. -/
  | evRowFiringAdmit
  /-- ROW_FIRING_RETIRE (R314). A row firing with no units left retires and adds into its row slot. -/
  | evRowFiringRetire
  /-- B_BUFFER_FREE (R308). A releasing B buffer becomes FREE once its earlier runs have retired. -/
  | evBBufferFree
  /-- DIE_WAVE (R377). A die wave starts and samples the region's Tills on one die. -/
  | evDieWave
  /-- DIE_WAVE_DELIVER (R377). A die wave's result is delivered to its Tills as LDIE. -/
  | evDieWaveDeliver
  /-- PACKAGE_WAVE (R377). A package wave starts and samples every Till, which sends pending acknowledgements. -/
  | evPackageWave
  /-- PACKAGE_WAVE_DELIVER (R391). A package wave is delivered as LPKG and Clearing tests its sums. -/
  | evPackageWaveDeliver
  /-- TRANSFER_ACCEPT (R387). A task leaves the transfer inbox into the Till or its ring. -/
  | evTransferAccept
  /-- TRANSFER_ACK (R378). A sender receives an acknowledgement and raises its PMIN. -/
  | evTransferAck
  /-- RING_REFILL (R375). The Till reads tasks from its ring head and places or re-spills them. -/
  | evRingRefill
  /-- STEAL_REQUEST (R388). A Till with no eligible task asks another Till for tasks. -/
  | evStealRequest
  /-- STEAL_HANDOVER (R388). A victim Till hands over tasks or answers empty. -/
  | evStealHandover
  /-- FLIT_RECEIVE (R409). A port receives a wire flit and checks its CRC. -/
  | evFlitReceive
  /-- LINK_REPLAY_REQUEST (R409). A link-control flit asks for a replay or returns credits. -/
  | evLinkReplayRequest
  /-- PACKET_TRIM (R414). A congested hop forwards a packet as a bare header on class 3. -/
  | evPacketTrim
  /-- PUT (R420). A window holder checks and writes an arriving PUT packet. -/
  | pkPut
  /-- PUTN (R427). A window holder writes an arriving PUTN packet and enters its arrival. -/
  | pkPutn
  /-- PUTN_ARRIVAL_ENTER (R427). An ordered PUTN's arrival is entered once lower delivery numbers are complete. -/
  | evPutnArrivalEnter
  /-- GETQ (R432). A window holder reads window bytes and returns GETR packets. -/
  | pkGetq
  /-- GETR (R421). A requester writes returned bytes locally. -/
  | pkGetr
  /-- ATOMQ (R434). A window holder performs a remote atomic and returns ATOMR. -/
  | pkAtomq
  /-- ATOMR (R434). A requester completes an atomic lane with the old value. -/
  | pkAtomr
  /-- ACK (R421). A sender completes a message and publishes receipts in channel order. -/
  | pkAck
  /-- NACK (R421). A sender completes a message as failed, poisons the receipt and posts a record. -/
  | pkNack
  /-- TRIMMED_HEADER (R422). A receiver of a trimmed header queues a paced re-request or declares the eighth trim lost. -/
  | pkTrimmedHeader
  /-- RREQ_SEND (R422). An eligible re-request is sent within the outstanding limit. -/
  | evRreqSend
  /-- RREQ (R423). A sender re-forms a trimmed packet and sends it again. -/
  | pkRreq
  /-- LINK_CLOSE (R420). A receiver frees the channel's receive record and answers CLOSEACK. -/
  | pkLinkClose
  /-- CLOSEACK (R431). The sender closes the channel and sends the LCHAN receipt. -/
  | pkCloseack
  /-- MESSAGE_LIFETIME_EXPIRY (R505). A message's timer runs out and it completes lost. -/
  | evMessageLifetimeExpiry
  /-- ARRIVAL_EMIT (R436). A queued window arrival is sent as a token to the bound context. -/
  | evArrivalEmit
  /-- FIRING_IMAGE_WRITE (R445). A parked firing's image is written to an Escrow cell when one is free. -/
  | evFiringImageWrite
  /-- WITHDRAWN_TOKEN_MOVE (R444). A withdrawn token left in its Chit moves when a place frees, returning its credit. -/
  | evWithdrawnTokenMove
  /-- FAULT_RING_WRITE (R495). A held fault record is written to the ring when space frees and TAIL advances. -/
  | evFaultRingWrite
  /-- WATCHDOG_EXPIRY (R459). The watchdog count reaches its threshold and the region is frozen by a cut. -/
  | evWatchdogExpiry
  /-- BEAT_EXPIRY (R473). A beat counter reaches 0, disarms and posts a BEAT record. -/
  | evBeatExpiry
  /-- CUT_COMPLETE (R463). When every node's cut is done, Escrow writes the save area or freezes the region. -/
  | evCutComplete
  /-- BUDGET_PERIOD (R497). A budget period boundary carries overshoot and ends stalls. -/
  | evBudgetPeriod
  /-- BUDGET_EXHAUSTED (R497). A metered use reaches its limit and the partition's sources stall. -/
  | evBudgetExhausted
  /-- QUEUE_WINDOW_WRITE (R121). A host write to a queue window enqueues an entry or is dropped and counted. -/
  | evQueueWindowWrite
  /-- REGION_GRANT (R492). The allocator grants a region and the launch computes its fold, checks capacity and starts the control stream. -/
  | evRegionGrant
  /-- COMPLETION_WRITE (R125). A command's completion write is published after earlier commands' of its queue. -/
  | evCompletionWrite
  /-- NFY_ARM (R127). A host write arms a notify register's message. -/
  | evNfyArm
  /-- HS_SPLIT_WRITE (R342). Splits slice SRAM into windows and cache, writing back and zeroing, or refuses. -/
  | evHsSplitWrite
  /-- PARTITION_RESET (R496). A write of RST resets one partition. -/
  | evPartitionReset
  /-- PARTITION_ENABLE (R496). A write of EN lets a partition leave reset and run. -/
  | evPartitionEnable
  /-- PART_INV (R494). Drops the partition's matching translations from the device. -/
  | evPartInv
  /-- FW_LOAD (R500). Verifies a firmware image, writes it to the slot and resets to BOOT. -/
  | evFwLoad
  /-- FW_RAISE (R499). Raises the fused minimum security version to the running one. -/
  | evFwRaise
  /-- FW_ATTEST (R501). Writes a signed attestation report for a nonce. -/
  | evFwAttest
  /-- ET_BUF_WRITE (R478). Sets a tap slot's buffer and zeroes its pointers and loss count. -/
  | evEtBufWrite
  /-- ET_GRANT_WRITE (R478). Grants or withdraws a tap slot, ending its binding on withdrawal. -/
  | evEtGrantWrite
  /-- REGISTER_WRITE (R488). Writes a register with no behaviour of its own, subject to its acceptance checks. -/
  | evRegisterWrite
  /-- HOST_MEM_ACCESS (R484). A host CXL.mem access is performed at the line's home slice. -/
  | evHostMemAccess
  /-- POWER_ON_RESET (R498). A power-on or conventional reset enters BOOT and verifies the firmware. -/
  | evPowerOnReset
  /-- INIT_COMPLETE (R498). Training and zeroing finish and the device becomes READY. -/
  | evInitComplete
  /-- THROTTLE_STEP (R503). Power or temperature moves the fabric clock one step. -/
  | evThrottleStep
  /-- THERMAL_TRIP (R503). At 110 degrees the fabric stops and the device halts. -/
  | evThermalTrip
  /-- PATROL_SCRUB (R502). The patrol scrub reads and corrects words on its period. -/
  | evPatrolScrub
  /-- HOLD_COMPLETE (R308). A B buffer hold finishes checking its columns and the buffer leaves CHECKING for HELD, or returns to FREE on a header failure. -/
  | evHoldComplete
  /-- SLICE_ELAPSED (R460). The target launch has run for EFF microseconds of its queue's slice, and Escrow starts the snapshot's cut. -/
  | evSliceElapsed
  /-- PORT_UP_CHANGE (R440). A Flitis port gains or loses training, changing LE_PSTATp.UP. -/
  | evPortUpChange
  /-- POWER_LOSS (R500). Power is removed, all device state is lost, and a firmware slot write in progress is left failing. -/
  | evPowerLoss
deriving DecidableEq, Repr

/-- An instruction with what it carries. -/
structure Fetched where
  instr : Instr
  arg : Arg := .none
deriving DecidableEq, Repr

end Sys2Proof
end

