-- ==== Sys2Proof/Machine/Rules.lean ====
section
/-! DEFINITION. What each entry of the manual lets the fields of its Node Instruction Word hold (the opcode tables of
R151, R186 to R209, R230, R258, R272, R320, R358, R394, R429 and R467), as data: `WellFormed` reads it. -/

namespace Sys2Proof

/-- The types TY 0 to 7. -/
def Ty.ints : List Ty := [.i8, .i16, .i32, .i64, .n8, .n16, .n32, .n64]
/-- F16, BF16 and F32 (R184). -/
def Ty.shorts : List Ty := [.f16, .bf16, .f32]
/-- The types TY 8 to 15. -/
def Ty.floats : List Ty := [.f16, .bf16, .f32, .f64, .e4m3, .e5m2, .e2m3, .e2m1]
/-- TY 0 to 11. -/
def Ty.upTo11 : List Ty := [.i8, .i16, .i32, .i64, .n8, .n16, .n32, .n64, .f16, .bf16, .f32, .f64]
/-- TY 0 to 14. -/
def Ty.upTo14 : List Ty := Ty.upTo11 ++ [.e4m3, .e5m2, .e2m3]
/-- Every TY code. -/
def Ty.all : List Ty := Ty.upTo14 ++ [.e2m1]

/-- Width in bits of a value of the type: E2M3 takes 6 bits and E2M1 takes 4 (R8, R240). -/
def Ty.width : Ty → Nat
  | .i8 | .n8 | .e4m3 | .e5m2 => 8
  | .i16 | .n16 | .f16 | .bf16 => 16
  | .i32 | .n32 | .f32 => 32
  | .i64 | .n64 | .f64 => 64
  | .e2m3 => 6
  | .e2m1 => 4

/-- Bits of a lane slot that an element occupies: an E2M3 element is a whole byte (R243). -/
def Ty.slot (ty : Ty) : Nat := if ty = .e2m3 then 8 else ty.width

/-- The integer types. -/
def Ty.isInt : Ty → Bool
  | .i8 | .i16 | .i32 | .i64 | .n8 | .n16 | .n32 | .n64 => true
  | _ => false

/-- The signed integer types. -/
def Ty.isSigned : Ty → Bool
  | .i8 | .i16 | .i32 | .i64 => true
  | _ => false

/-- A lane of the type takes two payload slots (R28). -/
def Ty.isWide : Ty → Bool
  | .i64 | .n64 | .f64 => true
  | _ => false

/-- The selector is P0 to P3. -/
def Sel.isPort : Sel → Bool
  | .p _ => true
  | _ => false

/-- The sets of operand selectors that the entries' tables name. -/
inductive SelSet where
  /-- The field is not read: NONE (R57). -/
  | no
  /-- Any operand; IMMF only under a float TY (R59, R186). -/
  | v
  /-- Any operand but IMMF. -/
  | vInt
  /-- Any operand but IMM and IMMF. -/
  | vReg
  | vOrNo
  | masks
  /-- K0 to K7, IMM, ZERO, ONE (the set u of R186). -/
  | uni
  /-- The NU sets of R258: no mask register. -/
  | vNoM
  | vNoMAny
  | vNoMInt
  | vNoMReg
  | vNoMIntOrNo
  | tpk
  | tpkIx
  | ports
  | ports3
  | kImm
  | consts
  /-- P, K, ZERO, ONE, LANE, ITER, FRAME (the set idx of R230). -/
  | idx
  | idxOrNo
  | idxNoPort
  | portsConsts
  /-- The set idx of R394. -/
  | wlIdx
  /-- K, P0 to P2, ZERO (WLPUSH's payload, R394). -/
  | wlPay
deriving DecidableEq, Repr

/-- Is the selector in the set, for an instruction whose TY is a float type or not? -/
def SelSet.has (flt : Bool) : SelSet → Sel → Bool
  | .no, s => decide (s = .none)
  | .v, s => decide (s ≠ .none) && (flt || decide (s ≠ .immf))
  | .vInt, s => decide (s ≠ .none ∧ s ≠ .immf)
  | .vReg, s => decide (s ≠ .none ∧ s ≠ .imm ∧ s ≠ .immf)
  | .vOrNo, s => flt || decide (s ≠ .immf)
  | .masks, s => match s with | .m _ => true | _ => false
  | .uni, s => match s with | .k _ | .imm | .zero | .one => true | _ => false
  | .vNoM, s => match s with | .m _ | .none => false | .immf => flt | _ => true
  | .vNoMAny, s => match s with | .m _ | .none => false | _ => true
  | .vNoMInt, s => match s with | .m _ | .none | .immf => false | _ => true
  | .vNoMReg, s => match s with | .m _ | .none | .imm | .immf => false | _ => true
  | .vNoMIntOrNo, s => match s with | .m _ | .immf => false | _ => true
  | .tpk, s => match s with | .t _ | .p _ | .k _ => true | _ => false
  | .tpkIx, s => match s with | .t _ | .p _ | .k _ | .iter | .lane => true | _ => false
  | .ports, s => match s with | .p _ => true | _ => false
  | .ports3, s => match s with | .p n => decide (n.val < 3) | _ => false
  | .kImm, s => match s with | .k _ | .imm => true | _ => false
  | .consts, s => match s with | .k _ => true | _ => false
  | .idx, s => match s with | .p _ | .k _ | .zero | .one | .lane | .iter | .frame => true | _ => false
  | .idxOrNo, s => match s with | .p _ | .k _ | .zero | .one | .lane | .iter | .frame | .none => true | _ => false
  | .idxNoPort, s => match s with | .k _ | .zero | .one | .lane | .iter | .frame => true | _ => false
  | .portsConsts, s => match s with | .p _ | .k _ => true | _ => false
  | .wlIdx, s => match s with
    | .p n => decide (n.val < 3) | .k _ | .zero | .one | .lane | .iter | .frame | .imm => true | _ => false
  | .wlPay, s => match s with | .p n => decide (n.val < 3) | .k _ | .zero => true | _ => false

/-- The sets of destination selectors. -/
inductive DstSet where
  | no
  /-- T0 to T7, O0 to O3, discard (the set d of R186). -/
  | val
  | valNoDiscard
  /-- M0 to M3 (the set dm of R186). -/
  | masks
  | outs
  | outsOrNo
deriving DecidableEq, Repr

/-- Is the destination in the set? -/
def DstSet.has : DstSet → Dst → Bool
  | .no, d => decide (d = .none)
  | .val, d => match d with | .m _ => false | _ => true
  | .valNoDiscard, d => match d with | .t _ | .o _ => true | _ => false
  | .masks, d => match d with | .m _ => true | _ => false
  | .outs, d => match d with | .o _ => true | _ => false
  | .outsOrNo, d => match d with | .o _ | .none => true | _ => false

/-- The RM codes an entry accepts: 0 only, 0 to 6, or 0 to 4 and 6. -/
inductive RmSet where
  | zero | all | noSr
deriving DecidableEq, Repr

/-- Is the mode in the set? -/
def RmSet.has : RmSet → Rnd → Bool
  | .zero, r => decide (r = .rne)
  | .all, _ => true
  | .noSr, r => decide (r ≠ .sr)

/-- What IMM16 holds: the value of IMM or IMMF, and 0 when neither is selected (R57, R59); or a field of the
instruction's own, and then no operand may select IMM or IMMF (R59). -/
inductive ImmRule where
  | sel
  | field (ok : BitVec 16 → Bool)

/-- The fields an entry accepts (R57). -/
structure Rule where
  tys : List Ty := [.i8]
  d : DstSet
  a : SelSet := .no
  b : SelSet := .no
  c : SelSet := .no
  pm0 : Bool := false
  rm : RmSet := .zero
  sat : Bool := false
  fz : Bool := false
  opt : BitVec 7 → Bool := fun o => o == 0#7
  imm : ImmRule := .sel
  /-- What the entry asks of several fields together. -/
  extra : Niw → Bool := fun _ => true

/-- C-form: MOD[6:4] is 0 and COND is at most `hi` (R64, R65). -/
def condOk (hi : Nat) (o : BitVec 7) : Bool := decide (o.toNat ≤ hi)
/-- An option field in the low bits, below a bound. -/
def below (n : Nat) (o : BitVec 7) : Bool := decide (o.toNat < n)
/-- The source TY code in MOD[3:0] (R258). -/
def srcIn (lo hi : Nat) (o : BitVec 7) : Bool := decide (lo ≤ o.toNat ∧ o.toNat ≤ hi)
/-- M-form: SCOPE and ORD in the sets, and RWX 4 to 7, or 0 where the entry lets it (R64). -/
def mForm (scopes ords : List (BitVec 2)) (zeroOk : Bool) (o : BitVec 7) : Bool :=
  scopes.contains (o.extractLsb' 5 2) && ords.contains (o.extractLsb' 3 2) &&
    (decide (4 ≤ (o.extractLsb' 0 3).toNat) || (zeroOk && o.extractLsb' 0 3 == 0#3))
/-- X-form with RWX in [2:0], 0 or 4 to 7, and MOD[6:3] in a set (R394, R429). -/
def xRwx (opts : List (BitVec 4)) (o : BitVec 7) : Bool :=
  opts.contains (o.extractLsb' 3 4) && (decide (4 ≤ (o.extractLsb' 0 3).toNat) || o.extractLsb' 0 3 == 0#3)
/-- LATOM's TY by its operation IMM16[6:3] (R434). -/
def latomTy (n : Niw) : Bool :=
  let op := (n.imm.extractLsb' 3 4).toNat
  if op ≤ 5 then [Ty.i32, .i64, .n32, .n64].contains n.ty
  else if op = 6 then [Ty.i32, .i64, .n32, .n64, .f32, .f64].contains n.ty
  else if op = 7 then [Ty.i32, .n32, .f32].contains n.ty
  else if op = 8 then [Ty.f32, .f64].contains n.ty
  else false

/-- The Node Instruction Word fields of an instruction, where it is carried in one. -/
def Instr.niw : Instr → Option Niw
  | .nop n => some n
  | .add n => some n
  | .sub n => some n
  | .addc n => some n
  | .subb n => some n
  | .mul n => some n
  | .mulh n => some n
  | .mad n => some n
  | .sad n => some n
  | .dot4 n => some n
  | .min n => some n
  | .max n => some n
  | .abs n => some n
  | .neg n => some n
  | .clamp n => some n
  | .and n => some n
  | .or n => some n
  | .xor n => some n
  | .andn n => some n
  | .not n => some n
  | .shl n => some n
  | .shr n => some n
  | .sar n => some n
  | .rot n => some n
  | .funnel n => some n
  | .clz n => some n
  | .ctz n => some n
  | .popc n => some n
  | .brev n => some n
  | .bfe n => some n
  | .bfi n => some n
  | .perm n => some n
  | .pack n => some n
  | .unpk n => some n
  | .sel n => some n
  | .cmp n => some n
  | .cmpm n => some n
  | .mov n => some n
  | .movi n => some n
  | .moviHi n => some n
  | .lea n => some n
  | .lea2 n => some n
  | .shfl n => some n
  | .bcast n => some n
  | .lred n => some n
  | .lscan n => some n
  | .lpack n => some n
  | .cnt n => some n
  | .mand n => some n
  | .mor n => some n
  | .mxor n => some n
  | .mnot n => some n
  | .mpop n => some n
  | .mfirst n => some n
  | .mset n => some n
  | .tagrd n => some n
  | .hash n => some n
  | .fadd n => some n
  | .fsub n => some n
  | .fmul n => some n
  | .ffma n => some n
  | .ffms n => some n
  | .fnma n => some n
  | .fnms n => some n
  | .fmin n => some n
  | .fmax n => some n
  | .fminn n => some n
  | .fmaxn n => some n
  | .fmaxa n => some n
  | .fmed3 n => some n
  | .fabs n => some n
  | .fneg n => some n
  | .fcopysign n => some n
  | .fcmp n => some n
  | .fcmpm n => some n
  | .fclass n => some n
  | .frint n => some n
  | .ffrac n => some n
  | .fscale n => some n
  | .fgetexp n => some n
  | .fgetman n => some n
  | .fdot2 n => some n
  | .flerp n => some n
  | .fcvts n => some n
  | .fred n => some n
  | .cvt n => some n
  | .cvti n => some n
  | .cvtf n => some n
  | .qnt n => some n
  | .dqnt n => some n
  | .amaxb n => some n
  | .rng n => some n
  | .exp2 n => some n
  | .log2 n => some n
  | .exp n => some n
  | .ln n => some n
  | .rcp n => some n
  | .rsq n => some n
  | .sqrt n => some n
  | .div n => some n
  | .sinpi n => some n
  | .cospi n => some n
  | .tanh n => some n
  | .sigm n => some n
  | .atanpi n => some n
  | .erf n => some n
  | .dfma n => some n
  | .dadd n => some n
  | .dmul n => some n
  | .ddiv n => some n
  | .dsqrt n => some n
  | .idiv n => some n
  | .irem n => some n
  | .alloc n => some n
  | .free n => some n
  | .emit n => some n
  | .emitt n => some n
  | .iter n => some n
  | .split n => some n
  | .merge n => some n
  | .steer n => some n
  | .gate n => some n
  | .eos n => some n
  | .joinp n => some n
  | .leavep n => some n
  | .barr n => some n
  | .depth n => some n
  | .ld n => some n
  | .ldg n => some n
  | .ldl n => some n
  | .lda n => some n
  | .ldb n => some n
  | .lds n => some n
  | .ldsg n => some n
  | .st n => some n
  | .stg n => some n
  | .stm n => some n
  | .str n => some n
  | .sts n => some n
  | .stss n => some n
  | .stz n => some n
  | .sopen n => some n
  | .sseek n => some n
  | .sclose n => some n
  | .sbar n => some n
  | .sflush n => some n
  | .fence n => some n
  | .probe n => some n
  | .pfetch n => some n
  | .scnt n => some n
  | .xwb n => some n
  | .xinv n => some n
  | .smap n => some n
  | .cpy n => some n
  | .cpy2 n => some n
  | .cpy3 n => some n
  | .cpym n => some n
  | .cpyz n => some n
  | .cpyx n => some n
  | .cpya n => some n
  | .cpyb n => some n
  | .cpyf n => some n
  | .cpyc n => some n
  | .cpyq n => some n
  | .fpdecl n => some n
  | .mncfg n => some n
  | .mncfgCheck n => some n
  | .mnldb n => some n
  | .mnrun n => some n
  | .mnrunP n => some n
  | .mnzero n => some n
  | .mnout n => some n
  | .mnprog n => some n
  | .mnaor n => some n
  | .mnscl n => some n
  | .mnsave n => some n
  | .mnrest n => some n
  | .mnchk n => some n
  | .mnstat n => some n
  | .mnswap n => some n
  | .hadd n => some n
  | .hfadd n => some n
  | .hmin n => some n
  | .hmax n => some n
  | .hfmin n => some n
  | .hfmax n => some n
  | .hand n => some n
  | .hor n => some n
  | .hxor n => some n
  | .hxchg n => some n
  | .hcas n => some n
  | .hinc n => some n
  | .hred n => some n
  | .hseq n => some n
  | .wlcfg n => some n
  | .wlpush n => some n
  | .wlpushb n => some n
  | .wlpop n => some n
  | .wldone n => some n
  | .wldoneSeed n => some n
  | .wlmin n => some n
  | .wlstat n => some n
  | .wldrain n => some n
  | .lput n => some n
  | .lputn n => some n
  | .lget n => some n
  | .latom n => some n
  | .lflush n => some n
  | .lchanOpen n => some n
  | .lchanClose n => some n
  | .lstat n => some n
  | .lcfgBind n => some n
  | .lcfgUnbind n => some n
  | .trap n => some n
  | .trapif n => some n
  | .flags n => some n
  | .flagc n => some n
  | .poison n => some n
  | .pchkMask n => some n
  | .pchkTrap n => some n
  | .pchkCnt n => some n
  | .beat n => some n
  | .beatOff n => some n
  | .tapmOn n => some n
  | .tapmOff n => some n
  | _ => none

/-- The rule of an instruction carried in a Node Instruction Word. -/
def Instr.rule : Instr → Option Rule
  | .nop _ => some { d := .no }
  | .add _ => some { tys := Ty.ints, d := .val, a := .v, b := .v, sat := true }
  | .sub _ => some { tys := Ty.ints, d := .val, a := .v, b := .v, sat := true }
  | .addc _ => some { tys := [.i32, .i64, .n32, .n64], d := .val, a := .v, b := .v, c := .masks }
  | .subb _ => some { tys := [.i32, .i64, .n32, .n64], d := .val, a := .v, b := .v, c := .masks }
  | .mul _ => some { tys := Ty.ints, d := .val, a := .v, b := .v, sat := true }
  | .mulh _ => some { tys := Ty.ints, d := .val, a := .v, b := .v }
  | .mad _ => some { tys := Ty.ints, d := .val, a := .v, b := .v, c := .v, sat := true }
  | .sad _ => some { tys := Ty.ints, d := .val, a := .v, b := .v, c := .v, sat := true }
  | .dot4 _ => some { tys := [.i8, .n8], d := .val, a := .vInt, b := .vInt, c := .vInt, sat := true }
  | .min _ => some { tys := Ty.ints, d := .val, a := .v, b := .v }
  | .max _ => some { tys := Ty.ints, d := .val, a := .v, b := .v }
  | .abs _ => some { tys := [.i8, .i16, .i32, .i64], d := .val, a := .v, sat := true }
  | .neg _ => some { tys := Ty.ints, d := .val, a := .v, sat := true }
  | .clamp _ => some { tys := Ty.ints, d := .val, a := .v, b := .v, c := .v }
  | .and _ => some { tys := Ty.ints, d := .val, a := .v, b := .v }
  | .or _ => some { tys := Ty.ints, d := .val, a := .v, b := .v }
  | .xor _ => some { tys := Ty.ints, d := .val, a := .v, b := .v }
  | .andn _ => some { tys := Ty.ints, d := .val, a := .v, b := .v }
  | .not _ => some { tys := Ty.ints, d := .val, a := .v }
  | .shl _ => some { tys := Ty.ints, d := .val, a := .v, b := .v }
  | .shr _ => some { tys := Ty.ints, d := .val, a := .v, b := .v }
  | .sar _ => some { tys := Ty.ints, d := .val, a := .v, b := .v }
  | .rot _ => some { tys := Ty.ints, d := .val, a := .v, b := .v }
  | .funnel _ => some { tys := Ty.ints, d := .val, a := .v, b := .v, c := .v }
  | .clz _ => some { tys := Ty.ints, d := .val, a := .v }
  | .ctz _ => some { tys := Ty.ints, d := .val, a := .v }
  | .popc _ => some { tys := Ty.ints, d := .val, a := .v }
  | .brev _ => some { tys := Ty.ints, d := .val, a := .v }
  | .bfe _ => some { tys := Ty.ints, d := .val, a := .v, b := .v, c := .v }
  | .bfi _ => some { tys := Ty.ints, d := .val, a := .vReg, b := .vReg, imm := .field (fun _ => true), extra := fun n => decide (1 ≤ (n.imm.extractLsb' 8 8).toNat) && decide ((n.imm.extractLsb' 0 8).toNat + (n.imm.extractLsb' 8 8).toNat ≤ n.ty.width) }
  | .perm _ => some { tys := [.n32], d := .val, a := .vInt, b := .vInt, c := .vInt }
  | .pack _ => some { tys := [.i8, .i16, .n8, .n16, .f16, .bf16], d := .val, a := .v, b := .v, c := .vOrNo, extra := fun n => (decide (n.c = .none) == decide (n.ty.width = 16)) && (!n.sat || n.ty.isInt), sat := true }
  | .unpk _ => some { tys := [.i8, .i16, .n8, .n16, .f16, .bf16], d := .val, a := .vReg, imm := .field (fun i => decide (i.toNat < 4)), extra := fun n => decide (n.imm.toNat < 32 / n.ty.width) }
  | .sel _ => some { tys := Ty.upTo11, d := .val, a := .v, b := .v, c := .v }
  | .cmp _ => some { tys := Ty.ints, d := .val, a := .v, b := .v, opt := condOk 5 }
  | .cmpm _ => some { tys := Ty.ints, d := .masks, a := .v, b := .v, opt := condOk 5 }
  | .mov _ => some { tys := Ty.all, d := .val, a := .v, extra := fun n => decide (n.a ≠ .immf) || decide (n.ty ∈ Ty.shorts) }
  | .movi _ => some { tys := [.i32, .n32], d := .val, imm := .field (fun _ => true) }
  | .moviHi _ => some { tys := [.i32, .n32], d := .val, a := .vReg, opt := fun o => o == 1#7, imm := .field (fun _ => true) }
  | .lea _ => some { tys := [.i32, .i64, .n32, .n64], d := .val, a := .vReg, b := .vReg, imm := .field (fun i => decide (i.toNat < 16)) }
  | .lea2 _ => some { tys := [.i32, .i64, .n32, .n64], d := .val, a := .vReg, b := .vReg, c := .vReg, imm := .field (fun i => decide (i.toNat < 256)) }
  | .shfl _ => some { tys := Ty.upTo11, d := .val, a := .v, b := .v, opt := below 4 }
  | .bcast _ => some { tys := Ty.upTo11, d := .val, a := .vReg, imm := .field (fun i => decide (i.toNat < 32)) }
  | .lred _ => some { tys := Ty.ints, d := .val, a := .v, opt := below 6, extra := fun n => !n.sat || n.opt == 0#7, sat := true }
  | .lscan _ => some { tys := Ty.ints, d := .val, a := .v, opt := fun o => decide (o.toNat < 16 ∧ o.toNat % 8 < 6), extra := fun n => !n.sat || n.opt.extractLsb' 0 3 == 0#3, sat := true }
  | .lpack _ => some { tys := Ty.upTo11, d := .val, a := .v }
  | .cnt _ => some { tys := Ty.ints, d := .val, a := .v, opt := below 2 }
  | .mand _ => some { d := .masks, a := .masks, b := .masks }
  | .mor _ => some { d := .masks, a := .masks, b := .masks }
  | .mxor _ => some { d := .masks, a := .masks, b := .masks }
  | .mnot _ => some { d := .masks, a := .masks }
  | .mpop _ => some { d := .val, a := .masks }
  | .mfirst _ => some { d := .val, a := .masks }
  | .mset _ => some { tys := [.n32], d := .masks, a := .uni }
  | .tagrd _ => some { tys := [.n32], d := .val, opt := below 8 }
  | .hash _ => some { tys := [.n32], d := .val, a := .v, b := .v }
  | .fadd _ => some { tys := Ty.shorts, d := .val, a := .v, b := .v, rm := .all, sat := true, fz := true }
  | .fsub _ => some { tys := Ty.shorts, d := .val, a := .v, b := .v, rm := .all, sat := true, fz := true }
  | .fmul _ => some { tys := Ty.shorts, d := .val, a := .v, b := .v, rm := .all, sat := true, fz := true }
  | .ffma _ => some { tys := Ty.shorts, d := .val, a := .v, b := .v, c := .v, rm := .all, sat := true, fz := true }
  | .ffms _ => some { tys := Ty.shorts, d := .val, a := .v, b := .v, c := .v, rm := .all, sat := true, fz := true }
  | .fnma _ => some { tys := Ty.shorts, d := .val, a := .v, b := .v, c := .v, rm := .all, sat := true, fz := true }
  | .fnms _ => some { tys := Ty.shorts, d := .val, a := .v, b := .v, c := .v, rm := .all, sat := true, fz := true }
  | .fmin _ => some { tys := Ty.shorts, d := .val, a := .v, b := .v, fz := true }
  | .fmax _ => some { tys := Ty.shorts, d := .val, a := .v, b := .v, fz := true }
  | .fminn _ => some { tys := Ty.shorts, d := .val, a := .v, b := .v, fz := true }
  | .fmaxn _ => some { tys := Ty.shorts, d := .val, a := .v, b := .v, fz := true }
  | .fmaxa _ => some { tys := Ty.shorts, d := .val, a := .v, b := .v, fz := true }
  | .fmed3 _ => some { tys := Ty.shorts, d := .val, a := .v, b := .v, c := .v, fz := true }
  | .fabs _ => some { tys := Ty.shorts, d := .val, a := .v }
  | .fneg _ => some { tys := Ty.shorts, d := .val, a := .v }
  | .fcopysign _ => some { tys := Ty.shorts, d := .val, a := .v, b := .v }
  | .fcmp _ => some { tys := Ty.shorts, d := .val, a := .v, b := .v, opt := condOk 7, fz := true }
  | .fcmpm _ => some { tys := Ty.shorts, d := .masks, a := .v, b := .v, opt := condOk 7, fz := true }
  | .fclass _ => some { tys := Ty.shorts, d := .val, a := .v }
  | .frint _ => some { tys := Ty.shorts, d := .val, a := .v, rm := .all, fz := true }
  | .ffrac _ => some { tys := Ty.shorts, d := .val, a := .v, fz := true }
  | .fscale _ => some { tys := Ty.shorts, d := .val, a := .v, b := .vInt, rm := .all, sat := true, fz := true }
  | .fgetexp _ => some { tys := Ty.shorts, d := .val, a := .v, fz := true }
  | .fgetman _ => some { tys := Ty.shorts, d := .val, a := .v, fz := true }
  | .fdot2 _ => some { tys := [.f16, .bf16], d := .val, a := .vReg, b := .vReg, c := .vReg, rm := .all, sat := true, fz := true }
  | .flerp _ => some { tys := Ty.shorts, d := .val, a := .v, b := .v, c := .v, rm := .all, sat := true, fz := true }
  | .fcvts _ => some { tys := Ty.shorts, d := .val, a := .v, rm := .all, opt := fun o => decide (8 ≤ o.toNat ∧ o.toNat ≤ 10), sat := true, fz := true }
  | .fred _ => some { tys := Ty.shorts, d := .val, a := .v, rm := .noSr, opt := below 6, extra := fun n => n.opt == 0#7 || (decide (n.rm = .rne) && !n.sat && !n.fz), sat := true, fz := true }
  | .cvt _ => some { tys := Ty.floats, d := .val, a := .vNoMAny, rm := .all, opt := srcIn 8 15, pm0 := true, sat := true, fz := true }
  | .cvti _ => some { tys := Ty.ints, d := .val, a := .vNoMAny, rm := .all, opt := srcIn 8 15, pm0 := true, fz := true }
  | .cvtf _ => some { tys := Ty.floats, d := .val, a := .vNoMInt, rm := .all, opt := srcIn 0 7, pm0 := true, sat := true, fz := true }
  | .qnt _ => some { tys := [.e4m3, .e5m2, .e2m3, .e2m1], d := .outs, a := .vNoMReg, rm := .all, opt := fun o => decide (o.toNat < 32 ∧ 8 ≤ o.toNat % 16 ∧ o.toNat % 16 ≤ 10), pm0 := true, fz := true }
  | .dqnt _ => some { tys := Ty.shorts, d := .val, a := .vNoMReg, b := .vNoMIntOrNo, rm := .all, opt := srcIn 12 15, extra := fun n => decide (n.b ≠ .none) || n.a.isPort, pm0 := true, sat := true, fz := true }
  | .amaxb _ => some { tys := Ty.shorts, d := .val, a := .vNoM, opt := fun o => o == 0#7 || o == 16#7, pm0 := true, fz := true }
  | .rng _ => some { tys := [.n32, .f32], d := .val, a := .vNoMInt, b := .vNoMInt, pm0 := true }
  | .exp2 _ => some { tys := Ty.shorts, d := .val, a := .vNoM, rm := .all, pm0 := true, sat := true, fz := true }
  | .log2 _ => some { tys := Ty.shorts, d := .val, a := .vNoM, rm := .all, pm0 := true, sat := true, fz := true }
  | .exp _ => some { tys := Ty.shorts, d := .val, a := .vNoM, rm := .all, pm0 := true, sat := true, fz := true }
  | .ln _ => some { tys := Ty.shorts, d := .val, a := .vNoM, rm := .all, pm0 := true, sat := true, fz := true }
  | .rcp _ => some { tys := Ty.shorts, d := .val, a := .vNoM, rm := .all, pm0 := true, sat := true, fz := true }
  | .rsq _ => some { tys := Ty.shorts, d := .val, a := .vNoM, rm := .all, pm0 := true, sat := true, fz := true }
  | .sqrt _ => some { tys := Ty.shorts, d := .val, a := .vNoM, rm := .all, pm0 := true, sat := true, fz := true }
  | .div _ => some { tys := Ty.shorts, d := .val, a := .vNoM, b := .vNoM, rm := .all, pm0 := true, sat := true, fz := true }
  | .sinpi _ => some { tys := Ty.shorts, d := .val, a := .vNoM, rm := .all, pm0 := true, sat := true, fz := true }
  | .cospi _ => some { tys := Ty.shorts, d := .val, a := .vNoM, rm := .all, pm0 := true, sat := true, fz := true }
  | .tanh _ => some { tys := Ty.shorts, d := .val, a := .vNoM, rm := .all, pm0 := true, sat := true, fz := true }
  | .sigm _ => some { tys := Ty.shorts, d := .val, a := .vNoM, rm := .all, pm0 := true, sat := true, fz := true }
  | .atanpi _ => some { tys := Ty.shorts, d := .val, a := .vNoM, rm := .all, pm0 := true, sat := true, fz := true }
  | .erf _ => some { tys := Ty.shorts, d := .val, a := .vNoM, rm := .all, pm0 := true, sat := true, fz := true }
  | .dfma _ => some { tys := [.f64], d := .val, a := .vNoM, b := .vNoM, c := .vNoM, rm := .all, pm0 := true, sat := true, fz := true }
  | .dadd _ => some { tys := [.f64], d := .val, a := .vNoM, b := .vNoM, rm := .all, pm0 := true, sat := true, fz := true }
  | .dmul _ => some { tys := [.f64], d := .val, a := .vNoM, b := .vNoM, rm := .all, pm0 := true, sat := true, fz := true }
  | .ddiv _ => some { tys := [.f64], d := .val, a := .vNoM, b := .vNoM, rm := .all, pm0 := true, sat := true, fz := true }
  | .dsqrt _ => some { tys := [.f64], d := .val, a := .vNoM, rm := .all, pm0 := true, sat := true, fz := true }
  | .idiv _ => some { tys := [.i32, .i64, .n32, .n64], d := .val, a := .vNoMInt, b := .vNoMInt, pm0 := true, sat := true }
  | .irem _ => some { tys := [.i32, .i64, .n32, .n64], d := .val, a := .vNoMInt, b := .vNoMInt, pm0 := true }
  | .alloc _ => some { tys := [.n32], d := .valNoDiscard, imm := .field (fun i => decide (i.toNat < 64)) }
  | .free _ => some { tys := [.n32], d := .no, a := .v }
  | .emit _ => some { tys := Ty.all, d := .outs, a := .vReg, imm := .field (fun _ => true) }
  | .emitt _ => some { tys := Ty.all, d := .outs, a := .vReg, b := .tpk, c := .tpkIx }
  | .iter _ => some { tys := [.n32], d := .outs, a := .tpk, b := .tpk, imm := .field (fun i => decide (1 ≤ i.toNat ∧ i.toNat ≤ 32)) }
  | .split _ => some { tys := Ty.all, d := .outs, a := .vReg, imm := .field (fun i => decide (1 ≤ i.toNat ∧ i.toNat ≤ 32)), extra := fun n => decide (n.imm.toNat ≤ 16 ∨ n.ty.width ≠ 64) }
  | .merge _ => some { tys := Ty.all, d := .outs, a := .ports, b := .ports, extra := fun n => decide (n.a ≠ n.b), pm0 := true }
  | .steer _ => some { tys := Ty.all, d := .outs, a := .v, b := .v, extra := fun n => decide (n.d = .o 0 ∨ n.d = .o 2) }
  | .gate _ => some { tys := Ty.all, d := .outs, a := .ports, b := .ports, extra := fun n => decide (n.a ≠ n.b), pm0 := true }
  | .eos _ => some { d := .outs, imm := .field (fun i => decide (i.toNat < 8192)) }
  | .joinp _ => some { tys := [.n32], d := .no, a := .kImm, opt := mForm [0, 1, 2, 3] [0] true, pm0 := true }
  | .leavep _ => some { tys := [.n32], d := .no, a := .kImm, opt := mForm [0] [0] true, pm0 := true }
  | .barr _ => some { tys := [.n32], d := .no, a := .kImm, opt := mForm [0] [0] true, pm0 := true }
  | .depth _ => some { d := .no, a := .ports, opt := mForm [0] [0] true, imm := .field (fun i => decide (1 ≤ i.toNat ∧ i.toNat ≤ 63)), pm0 := true }
  | .ld _ => some { tys := Ty.upTo14, d := .no, a := .consts, b := .idx, opt := mForm [0, 1, 2, 3] [0] false, imm := .field (fun _ => true), pm0 := true }
  | .ldg _ => some { tys := Ty.upTo14, d := .no, a := .consts, b := .idx, opt := mForm [0, 1, 2, 3] [0] false, imm := .field (fun _ => true), pm0 := true }
  | .ldl _ => some { tys := Ty.upTo14, d := .no, a := .consts, b := .portsConsts, opt := mForm [0, 1, 2, 3] [0] false, imm := .field (fun _ => true), pm0 := true }
  | .lda _ => some { tys := Ty.upTo14, d := .no, a := .consts, b := .idx, opt := mForm [0, 1, 2, 3] [1] false, imm := .field (fun _ => true), pm0 := true }
  | .ldb _ => some { tys := Ty.upTo14, d := .no, a := .consts, opt := mForm [0, 1, 2, 3] [0] false, imm := .field (fun _ => true), pm0 := true }
  | .lds _ => some { tys := Ty.upTo14, d := .no, opt := mForm [0] [0] false, imm := .field (fun i => decide (i.toNat < 4)), pm0 := true }
  | .ldsg _ => some { tys := Ty.upTo14, d := .no, a := .idx, opt := mForm [0] [0] false, imm := .field (fun i => decide (i.toNat < 4)), pm0 := true }
  | .st _ => some { tys := Ty.upTo14, d := .no, a := .consts, b := .idx, c := .idx, opt := mForm [0, 1, 2, 3] [0] true, imm := .field (fun _ => true), pm0 := true }
  | .stg _ => some { tys := Ty.upTo14, d := .no, a := .consts, b := .idx, c := .idx, opt := mForm [0, 1, 2, 3] [0] true, imm := .field (fun _ => true), pm0 := true }
  | .stm _ => some { tys := Ty.upTo14, d := .no, a := .consts, b := .idx, c := .idx, opt := mForm [0, 1, 2, 3] [0] true, imm := .field (fun _ => true), pm0 := true }
  | .str _ => some { tys := Ty.upTo14, d := .no, a := .consts, b := .idx, c := .idx, opt := mForm [0, 1, 2, 3] [2] true, imm := .field (fun _ => true), pm0 := true }
  | .sts _ => some { tys := Ty.upTo14, d := .no, a := .idx, opt := mForm [0] [0] true, imm := .field (fun i => decide (i.toNat < 4)), pm0 := true }
  | .stss _ => some { tys := Ty.upTo14, d := .no, a := .idx, b := .idx, opt := mForm [0] [0] true, imm := .field (fun i => decide (i.toNat < 4)), pm0 := true }
  | .stz _ => some { d := .no, a := .consts, b := .idx, opt := mForm [0, 1, 2, 3] [0] true, imm := .field (fun i => decide (i.toNat < 64)), pm0 := true }
  | .sopen _ => some { d := .no, a := .idx, imm := .field (fun i => decide (i.toNat < 4)), pm0 := true }
  | .sseek _ => some { d := .no, a := .idx, imm := .field (fun i => decide (i.toNat < 4)), pm0 := true }
  | .sclose _ => some { d := .no, imm := .field (fun i => decide (i.toNat < 4)), pm0 := true }
  | .sbar _ => some { d := .no, opt := mForm [0, 1, 2, 3] [0] true, imm := .field (fun i => decide (1 ≤ i.toNat ∧ i.toNat < 32)), pm0 := true }
  | .sflush _ => some { d := .no, opt := mForm [0] [0] false, imm := .field (fun i => decide (i.toNat < 4)), pm0 := true }
  | .fence _ => some { d := .no, opt := mForm [0, 1, 2, 3] [0] false, pm0 := true }
  | .probe _ => some { tys := Ty.upTo14, d := .outs, a := .consts, b := .idx, imm := .field (fun _ => true), pm0 := true }
  | .pfetch _ => some { tys := Ty.upTo14, d := .no, a := .consts, b := .idx, imm := .field (fun _ => true), pm0 := true }
  | .scnt _ => some { tys := [.n32], d := .outs, imm := .field (fun i => decide (i.toNat < 4)), pm0 := true }
  | .xwb _ => some { tys := Ty.upTo14, d := .no, a := .consts, b := .idx, opt := mForm [3] [0] false, imm := .field (fun _ => true), pm0 := true }
  | .xinv _ => some { tys := Ty.upTo14, d := .no, a := .consts, b := .idx, opt := mForm [3] [0] false, imm := .field (fun _ => true), pm0 := true }
  | .smap _ => some { tys := [.n32], d := .outs, opt := below 4, pm0 := true }
  | .cpy _ => some { d := .no, a := .idx, b := .idx, c := .idxOrNo, imm := .field (fun i => decide (i.toNat < 4096 ∧ i.toNat % 16 < 8)), pm0 := true }
  | .cpy2 _ => some { d := .no, a := .idx, b := .idx, c := .idxOrNo, imm := .field (fun i => decide (i.toNat < 4096 ∧ i.toNat % 16 < 8)), pm0 := true }
  | .cpy3 _ => some { d := .no, a := .idx, b := .idx, c := .idxOrNo, imm := .field (fun i => decide (i.toNat < 4096 ∧ i.toNat % 16 < 8)), pm0 := true }
  | .cpym _ => some { d := .no, a := .idx, b := .idx, c := .idxOrNo, imm := .field (fun i => decide (i.toNat < 4096 ∧ i.toNat % 16 < 8)), pm0 := true }
  | .cpyz _ => some { d := .no, a := .idx, b := .idx, c := .idxOrNo, imm := .field (fun i => decide (i.toNat < 4096 ∧ i.toNat % 16 < 8)), pm0 := true }
  | .cpyx _ => some { d := .no, a := .idx, b := .idx, c := .idxOrNo, imm := .field (fun i => decide (i.toNat < 4096 ∧ i.toNat % 16 < 8)), pm0 := true }
  | .cpya _ => some { d := .no, a := .idx, b := .idx, c := .idxOrNo, imm := .field (fun i => decide (i.toNat < 4096 ∧ i.toNat % 16 < 8)), pm0 := true }
  | .cpyb _ => some { d := .no, a := .idx, b := .idx, c := .idxOrNo, imm := .field (fun i => decide (i.toNat < 4096 ∧ i.toNat % 16 < 8)), pm0 := true }
  | .cpyf _ => some { d := .no, a := .idx, b := .idx, c := .idxOrNo, imm := .field (fun i => decide (i.toNat < 4096 ∧ i.toNat % 16 < 8)), pm0 := true }
  | .cpyc _ => some { d := .no, a := .idx, b := .idx, c := .idxOrNo, imm := .field (fun i => decide (i.toNat < 4096 ∧ i.toNat % 16 < 8)), pm0 := true }
  | .cpyq _ => some { d := .no, a := .idx, b := .idx, c := .idxOrNo, imm := .field (fun i => decide (i.toNat < 4096 ∧ i.toNat % 16 < 8)), pm0 := true }
  | .fpdecl _ => some { d := .no, a := .idx, b := .idx, c := .idxOrNo, imm := .field (fun i => decide (i.toNat < 4096 ∧ i.toNat % 16 < 8)), pm0 := true }
  | .mncfg _ => some { tys := [.n64], d := .no, a := .portsConsts, b := .portsConsts, imm := .field (fun i => decide (i.toNat < 8)), pm0 := true }
  | .mncfgCheck _ => some { tys := [.n64], d := .no, imm := .field (fun i => decide (i.toNat < 8)), pm0 := true }
  | .mnldb _ => some { d := .no, imm := .field (fun i => decide (i.toNat < 8)), pm0 := true }
  | .mnrun _ => some { d := .no, a := .idx, b := .idx, opt := fun o => o == 0#7 || o == 2#7, imm := .field (fun i => decide (i.toNat < 8)), pm0 := true }
  | .mnrunP _ => some { d := .no, a := .idxNoPort, c := .ports, opt := fun o => o == 1#7 || o == 3#7, imm := .field (fun i => decide (i.toNat < 8)), pm0 := true }
  | .mnzero _ => some { d := .no, a := .idx, b := .idx, imm := .field (fun i => decide (i.toNat < 8)), pm0 := true }
  | .mnout _ => some { d := .no, a := .idx, b := .idx, opt := below 2, imm := .field (fun i => decide (i.toNat < 8)), pm0 := true }
  | .mnprog _ => some { d := .outs, pm0 := true }
  | .mnaor _ => some { d := .outs, pm0 := true }
  | .mnscl _ => some { d := .no, a := .idx, b := .idx, c := .idx, imm := .field (fun i => decide (i.toNat < 8)), pm0 := true }
  | .mnsave _ => some { d := .no, a := .consts, b := .idx, c := .idx, opt := mForm [0, 1, 2, 3] [0] true, imm := .field (fun i => i == 0#16), pm0 := true }
  | .mnrest _ => some { d := .no, a := .consts, b := .idx, c := .idx, opt := mForm [0, 1, 2, 3] [0] true, imm := .field (fun i => i == 0#16), pm0 := true }
  | .mnchk _ => some { d := .outs, imm := .field (fun i => decide (i.toNat < 8)), pm0 := true }
  | .mnstat _ => some { d := .outs, opt := below 4, pm0 := true }
  | .mnswap _ => some { d := .no, imm := .field (fun i => decide (i.toNat < 8)), pm0 := true }
  | .hadd _ => some { tys := Ty.ints, d := .outsOrNo, a := .consts, b := .idx, c := .idx, opt := mForm [1, 2, 3] [0, 1, 2, 3] true, imm := .field (fun _ => true), pm0 := true, sat := true }
  | .hfadd _ => some { tys := [.f16, .bf16, .f32, .f64], d := .outsOrNo, a := .consts, b := .idx, c := .idx, rm := .noSr, opt := mForm [1, 2, 3] [0, 1, 2, 3] true, imm := .field (fun _ => true), pm0 := true, sat := true, fz := true }
  | .hmin _ => some { tys := Ty.ints, d := .outsOrNo, a := .consts, b := .idx, c := .idx, opt := mForm [1, 2, 3] [0, 1, 2, 3] true, imm := .field (fun _ => true), pm0 := true }
  | .hmax _ => some { tys := Ty.ints, d := .outsOrNo, a := .consts, b := .idx, c := .idx, opt := mForm [1, 2, 3] [0, 1, 2, 3] true, imm := .field (fun _ => true), pm0 := true }
  | .hfmin _ => some { tys := [.f16, .bf16, .f32, .f64], d := .outsOrNo, a := .consts, b := .idx, c := .idx, opt := mForm [1, 2, 3] [0, 1, 2, 3] true, imm := .field (fun _ => true), pm0 := true, fz := true }
  | .hfmax _ => some { tys := [.f16, .bf16, .f32, .f64], d := .outsOrNo, a := .consts, b := .idx, c := .idx, opt := mForm [1, 2, 3] [0, 1, 2, 3] true, imm := .field (fun _ => true), pm0 := true, fz := true }
  | .hand _ => some { tys := Ty.ints, d := .outsOrNo, a := .consts, b := .idx, c := .idx, opt := mForm [1, 2, 3] [0, 1, 2, 3] true, imm := .field (fun _ => true), pm0 := true }
  | .hor _ => some { tys := Ty.ints, d := .outsOrNo, a := .consts, b := .idx, c := .idx, opt := mForm [1, 2, 3] [0, 1, 2, 3] true, imm := .field (fun _ => true), pm0 := true }
  | .hxor _ => some { tys := Ty.ints, d := .outsOrNo, a := .consts, b := .idx, c := .idx, opt := mForm [1, 2, 3] [0, 1, 2, 3] true, imm := .field (fun _ => true), pm0 := true }
  | .hxchg _ => some { tys := Ty.upTo11, d := .outsOrNo, a := .consts, b := .idx, c := .idx, opt := mForm [1, 2, 3] [0, 1, 2, 3] true, imm := .field (fun _ => true), pm0 := true }
  | .hcas _ => some { tys := Ty.upTo11, d := .outsOrNo, a := .consts, b := .idx, c := .ports3, opt := mForm [1, 2, 3] [0, 1, 2, 3] true, imm := .field (fun _ => true), pm0 := true }
  | .hinc _ => some { tys := [.n32, .n64], d := .outsOrNo, a := .consts, b := .idx, c := .idx, opt := mForm [1, 2, 3] [0, 1, 2, 3] true, imm := .field (fun _ => true), pm0 := true, sat := true }
  | .hred _ => some { tys := Ty.upTo11, d := .outsOrNo, a := .consts, b := .idx, c := .idx, rm := .noSr, opt := mForm [1, 2, 3] [0, 1, 2, 3] true, imm := .field (fun _ => true), extra := fun n => !n.ty.isInt || (decide (n.rm = .rne) && !n.fz), pm0 := true, sat := true, fz := true }
  | .hseq _ => some { tys := [.n32], d := .outs, a := .consts, b := .idx, opt := mForm [1, 2, 3] [0, 1] true, imm := .field (fun _ => true), pm0 := true }
  | .wlcfg _ => some { d := .no, a := .consts, b := .consts, opt := xRwx [0], pm0 := true }
  | .wlpush _ => some { tys := [.n32], d := .no, a := .wlIdx, b := .wlIdx, c := .wlPay, opt := xRwx [0, 1, 2], pm0 := true }
  | .wlpushb _ => some { tys := [.n32], d := .no, a := .consts, b := .wlIdx, c := .wlIdx, opt := xRwx [0, 1, 2], pm0 := true }
  | .wlpop _ => some { tys := [.n32], d := .no, imm := .field (fun i => decide (i.toNat < 4096 ∧ 1 ≤ i.toNat / 32 % 32 ∧ i.toNat / 32 % 32 ≤ i.toNat % 32 + 1)), pm0 := true }
  | .wldone _ => some { d := .no, pm0 := true }
  | .wldoneSeed _ => some { d := .no, opt := fun o => o == 8#7, pm0 := true }
  | .wlmin _ => some { tys := [.n32], d := .outs, opt := fun o => o.toNat % 8 == 0 && decide (o.toNat < 32), pm0 := true }
  | .wlstat _ => some { tys := [.n32], d := .outs, opt := fun o => o.toNat % 8 == 0 && decide (o.toNat < 40), pm0 := true }
  | .wldrain _ => some { d := .no, opt := fun o => decide (4 ≤ o.toNat ∧ o.toNat < 8), pm0 := true }
  | .lput _ => some { d := .no, a := .consts, b := .idx, c := .idx, opt := mForm [3] [0, 2] true, imm := .field (fun _ => true), pm0 := true }
  | .lputn _ => some { tys := Ty.upTo14, d := .no, a := .portsConsts, b := .idx, opt := mForm [3] [0, 2] true, imm := .field (fun i => decide (i.toNat < 16)), pm0 := true }
  | .lget _ => some { d := .no, a := .consts, b := .idx, c := .idx, opt := mForm [3] [0, 1] true, imm := .field (fun _ => true), pm0 := true }
  | .latom _ => some { tys := Ty.upTo11, d := .outsOrNo, a := .idx, b := .idx, opt := mForm [3] [0, 1, 2, 3] true, imm := .field (fun i => decide (i.toNat < 128)), extra := latomTy, pm0 := true }
  | .lflush _ => some { d := .no, opt := fun o => decide (4 ≤ o.toNat ∧ o.toNat < 8), imm := .field (fun i => decide (i.toNat < 8)), pm0 := true }
  | .lchanOpen _ => some { d := .no, a := .consts, b := .consts, opt := xRwx [0], imm := .field (fun i => decide (i.toNat < 8)), pm0 := true }
  | .lchanClose _ => some { d := .no, opt := xRwx [0], imm := .field (fun i => decide (8 ≤ i.toNat ∧ i.toNat < 16)), pm0 := true }
  | .lstat _ => some { tys := [.n32], d := .outs, opt := fun o => o.toNat % 8 == 0 && decide (o.toNat < 64), imm := .field (fun i => decide (i.toNat < 8)), pm0 := true }
  | .lcfgBind _ => some { d := .no, opt := xRwx [0], imm := .field (fun i => decide (i.toNat < 1024)), pm0 := true }
  | .lcfgUnbind _ => some { d := .no, opt := xRwx [0], imm := .field (fun i => decide (1024 ≤ i.toNat ∧ i.toNat < 2048)), pm0 := true }
  | .trap _ => some { d := .no, imm := .field (fun _ => true) }
  | .trapif _ => some
      { tys := Ty.upTo11, d := .no, a := .v, b := .v, opt := condOk 7, imm := .field (fun _ => true), extra := fun n => !n.ty.isInt || condOk 5 n.opt }
  | .flags _ => some { tys := [.n32], d := .val }
  | .flagc _ => some { d := .no, imm := .field (fun i => decide (i.toNat < 128)), pm0 := true }
  | .poison _ => some { tys := Ty.upTo11, d := .val, a := .v, b := .v }
  | .pchkMask _ => some { tys := Ty.upTo11, d := .masks, a := .v, extra := fun n => n.imm == 0#16 }
  | .pchkTrap _ => some { tys := Ty.upTo11, d := .no, a := .v, opt := fun o => o == 1#7, imm := .field (fun _ => true) }
  | .pchkCnt _ => some { tys := Ty.upTo11, d := .val, a := .v, opt := fun o => o == 2#7, extra := fun n => n.imm == 0#16 }
  | .beat _ => some { d := .no, a := .ports, imm := .field (fun i => decide (10 ≤ i.toNat ∧ i.toNat ≤ 30)), pm0 := true }
  | .beatOff _ => some { d := .no, opt := fun o => o == 1#7, pm0 := true }
  | .tapmOn _ => some { d := .outs, imm := .field (fun i => decide (i.toNat < 16)), pm0 := true }
  | .tapmOff _ => some { d := .no, opt := fun o => o == 1#7, imm := .field (fun i => decide (i.toNat < 16)), pm0 := true }
  | _ => none

end Sys2Proof
end

