-- ==== Sys2Proof/Machine/Float.lean ====
section
/-! DEFINITION. Number formats and rounding (R240 to R252): what a code stands for, the function rnd, exact arithmetic
before it, and the flags. -/

namespace Sys2Proof.Machine

/-! ## Flags (R42) -/

def Flag.invalid : Nat := 1
def Flag.divZero : Nat := 2
def Flag.overflow : Nat := 4
def Flag.underflow : Nat := 8
def Flag.inexact : Nat := 16
def Flag.saturated : Nat := 32
def Flag.nanIn : Nat := 64

/-- A flag when a condition holds. -/
def flagIf (b : Bool) (f : Nat) : Nat := if b then f else 0

/-! ## Formats -/

end Sys2Proof.Machine

namespace Sys2Proof

/-- A float format (R240): fraction bits, bias, exponent bits, whether it has ±∞, whether it has NaN. -/
structure Fmt where
  f : Nat
  bias : Nat
  eb : Nat
  inf : Bool
  nan : Bool
deriving DecidableEq, Repr

/-- The format of a type; F32's for the integer types, which have none. -/
def Ty.fmt : Ty → Fmt
  | .f64 => { f := 52, bias := 1023, eb := 11, inf := true, nan := true }
  | .f16 => { f := 10, bias := 15, eb := 5, inf := true, nan := true }
  | .bf16 => { f := 7, bias := 127, eb := 8, inf := true, nan := true }
  | .e4m3 => { f := 3, bias := 7, eb := 4, inf := false, nan := true }
  | .e5m2 => { f := 2, bias := 15, eb := 5, inf := true, nan := true }
  | .e2m3 => { f := 3, bias := 1, eb := 2, inf := false, nan := false }
  | .e2m1 => { f := 1, bias := 1, eb := 2, inf := false, nan := false }
  | _ => { f := 23, bias := 127, eb := 8, inf := true, nan := true }

/-- The sign bit as a value. -/
def Fmt.signBit (m : Fmt) : Nat := 2 ^ (m.f + m.eb)

/-- Code of the largest finite magnitude, without sign. -/
def Fmt.maxCode (m : Fmt) : Nat :=
  if m.inf then 2 ^ (m.f + m.eb) - 2 ^ m.f - 1 else if m.nan then 2 ^ (m.f + m.eb) - 2 else 2 ^ (m.f + m.eb) - 1

/-- The canonical NaN (R242); for a format without NaN, +0 (R244, R249). -/
def Fmt.canonNan (m : Fmt) : Nat :=
  if !m.nan then 0
  else if !m.inf then 2 ^ (m.f + m.eb) - 1
  else (2 ^ m.eb - 1) * 2 ^ m.f + 2 ^ (m.f - 1)

/-- Code of +∞; for E4M3, its NaN code (R248). -/
def Fmt.infCode (m : Fmt) : Nat := if m.inf then (2 ^ m.eb - 1) * 2 ^ m.f else 2 ^ (m.f + m.eb) - 1

end Sys2Proof

namespace Sys2Proof.Machine

/-- What a code stands for: a NaN, an infinity, the exact value ± m · 2^e, or a reserved code (R241, R242, R244). -/
inductive FVal where
  | nan (signalling : Bool)
  | inf (neg : Bool)
  | fin (neg : Bool) (m : Nat) (e : Int)
  | reserved
deriving DecidableEq, Repr

/-- The value of a code of a type (R241, R242, R244). -/
def fval (ty : Ty) (code : Nat) : FVal :=
  let k := ty.fmt
  let neg := bit code (k.f + k.eb)
  let ef := bits code k.f k.eb
  let fr := bits code 0 k.f
  let top := 2 ^ k.eb - 1
  if ty = .e2m3 ∧ bits code 6 2 ≠ 0 then .reserved
  else if k.inf ∧ ef = top then
    (if fr = 0 then .inf neg else .nan (decide (ty ≠ .e5m2) && !bit fr (k.f - 1)))
  else if k.nan ∧ ¬ k.inf ∧ ef = top ∧ fr = 2 ^ k.f - 1 then .nan false
  else if ef = 0 then .fin neg fr (1 - (k.bias : Int) - k.f)
  else .fin neg (2 ^ k.f + fr) ((ef : Int) - k.bias - k.f)

/-- A subnormal input reads as zero of its sign under FZ (R63). -/
def fvalFz (ty : Ty) (fz : Bool) (code : Nat) : FVal :=
  let k := ty.fmt
  match fval ty code with
  | .fin neg m e => if fz && decide (bits code k.f k.eb = 0) then .fin neg 0 e else .fin neg m e
  | v => v

/-- The value is a NaN. -/
def FVal.isNan : FVal → Bool
  | .nan _ => true
  | _ => false
/-- The value is a signalling NaN. -/
def FVal.isSig : FVal → Bool
  | .nan s => s
  | _ => false
/-- The value is an infinity. -/
def FVal.isInf : FVal → Bool
  | .inf _ => true
  | _ => false
/-- The value is a zero. -/
def FVal.isZero : FVal → Bool
  | .fin _ m _ => m == 0
  | _ => false
/-- The sign of the value. -/
def FVal.neg : FVal → Bool
  | .inf s => s
  | .fin s _ _ => s
  | _ => false
/-- The value with its sign inverted. -/
def FVal.negate : FVal → FVal
  | .inf s => .inf (!s)
  | .fin s m e => .fin (!s) m e
  | v => v

/-- The flags of reading NaN operands in arithmetic (R184): NaN-in, and Invalid for a signalling one. -/
def nanFlags (vs : List FVal) : Nat :=
  flagIf (vs.any (·.isNan)) Flag.nanIn ||| flagIf (vs.any (·.isSig)) Flag.invalid

/-! ## rnd -/

end Sys2Proof.Machine

namespace Sys2Proof

/-- The rounding modes with DYN resolved by DRM (R62, R247). -/
def Rnd.resolve (rm : Rnd) (drm : Nat) : Rnd :=
  match rm with
  | .dyn => match drm with
    | 0 => .rne | 1 => .rtz | 2 => .rdn | 3 => .rup | 4 => .rna | _ => .sr
  | m => m

end Sys2Proof

namespace Sys2Proof.Machine

/-- An exact real to round: the magnitude is m · 2^e, or lies strictly between m · 2^e and (m + 1) · 2^e when `sticky`.
A sticky value's 2^e is finer than any threshold that rounding compares it with. -/
structure Exact where
  neg : Bool
  m : Nat
  e : Int
  sticky : Bool := false
deriving DecidableEq, Repr

/-- floor(log2 n), 0 for 0. -/
def lg (n : Nat) : Nat := Nat.log2 n

/-- Which of lo and hi a mode picks (R247, R251): `true` for hi. `odd`: lo's least bit is set; `c` compares the remainder
with half a step; `d` is SR's threshold. -/
def pickHi (rm : Rnd) (neg odd : Bool) (c : Ordering) (d draw : Nat) : Bool :=
  match rm with
  | .rne => c == .gt || (c == .eq && odd)
  | .rna => c != .lt
  | .rtz => false
  | .rdn => neg
  | .rup => !neg
  | .sr => decide (draw < d)
  | .dyn => false

/-- A magnitude cut at the grid step 2^q (R247): the whole steps, whether anything remains, how the remainder compares
with half a step, and floor(remainder / step · 2^32). -/
def cutAt (x : Exact) (q : Int) : Nat × Bool × Ordering × Nat :=
  let s := q - x.e
  if s ≤ 0 then (x.m * 2 ^ (-s).toNat, x.sticky, .lt, 0)
  else
    let s := s.toNat
    if lg x.m + 64 < s then (0, decide (x.m ≠ 0) || x.sticky, .lt, 0)
    else
      let k := x.m / 2 ^ s
      let r := x.m % 2 ^ s
      let half := 2 ^ (s - 1)
      (k, decide (r ≠ 0) || x.sticky,
       if r < half then .lt else if r = half then (if x.sticky then .gt else .eq) else .gt,
       r * 2 ^ 32 / 2 ^ s)

/-- rnd of an exact finite x to a float format (R247 to R251): the code and the flags. `sat` and `fz` as the instruction
has them; `draw` is the lane's stochastic draw. -/
def rnd (ty : Ty) (rm : Rnd) (sat fz : Bool) (draw : Nat) (x : Exact) : Nat × Nat :=
  let k := ty.fmt
  let sgn := if x.neg then k.signBit else 0
  if x.m = 0 ∧ ¬ x.sticky then (sgn, 0)
  else
    let emin : Int := 1 - k.bias
    let big := if x.m = 0 then emin - k.f - 64 else x.e + lg x.m
    let q := max big emin - k.f
    let (lo, some_, c, d) := cutAt x q
    let up := some_ && pickHi rm x.neg (lo % 2 == 1) c d draw
    let v := if up then lo + 1 else lo
    -- the picked magnitude is v · 2^q; its code without sign, on the grid that continues above Max
    let code : Nat := if v < 2 ^ k.f then v else
      ((q - emin + k.f).toNat + 1 + (if v = 2 ^ (k.f + 1) then 1 else 0)) * 2 ^ k.f +
        (if v = 2 ^ (k.f + 1) then 0 else v - 2 ^ k.f)
    if k.maxCode < code then
      if sat || !k.nan then (sgn + k.maxCode, Flag.saturated ||| Flag.inexact)
      else
        let toInf := match rm with
          | .rne | .rna => true
          | .rtz => false
          | .rdn => x.neg
          | .rup => !x.neg
          | .sr => up
          | .dyn => true
        (sgn + (if toInf then k.infCode else k.maxCode), Flag.overflow ||| Flag.inexact)
    else if v < 2 ^ k.f then
      if fz then (sgn, Flag.underflow ||| Flag.inexact)
      else (sgn + code, flagIf some_ (Flag.underflow ||| Flag.inexact))
    else (sgn + code, flagIf some_ Flag.inexact)

/-- rnd(±∞) (R249). -/
def rndInf (ty : Ty) (sat neg : Bool) : Nat × Nat :=
  let k := ty.fmt
  let sgn := if neg then k.signBit else 0
  if k.inf then (sgn + k.infCode, 0)
  else if !k.nan || sat then (sgn + k.maxCode, Flag.saturated)
  else (sgn + k.infCode, Flag.invalid)

/-- rnd(NaN) (R247, R249): the canonical NaN, or +0 with Invalid and NaN-in where the format has none; E4M3 sets
NaN-in. -/
def rndNan (ty : Ty) : Nat × Nat :=
  let k := ty.fmt
  (k.canonNan, if k.inf then 0 else if k.nan then Flag.nanIn else Flag.invalid ||| Flag.nanIn)

/-- rnd of a value, exact and finite or special, with the flags of rnd alone. A reserved code reads as NaN and sets
Invalid alone (R244). -/
def rndVal (ty : Ty) (rm : Rnd) (sat fz : Bool) (draw : Nat) : FVal → Nat × Nat
  | .nan _ => rndNan ty
  | .inf neg => rndInf ty sat neg
  | .fin neg m e => rnd ty rm sat fz draw { neg := neg, m := m, e := e }
  | .reserved => (ty.fmt.canonNan, Flag.invalid)

/-- rnd to an integer (R247): consecutive integers are the grid. The flag says that it differs from x. -/
def rndInt (rm : Rnd) (draw : Nat) (x : Exact) : Int × Bool :=
  let (lo, some_, c, d) := cutAt x 0
  let v := if some_ && pickHi rm x.neg (lo % 2 == 1) c d draw then lo + 1 else lo
  (if x.neg then -(v : Int) else v, some_)

/-- An integer as an exact value. -/
def Exact.ofInt (n : Int) : Exact := { neg := decide (n < 0), m := n.natAbs, e := 0 }

/-! ## Exact arithmetic over the extended reals (R184, R201) -/

/-- A product of two values; none for the invalid 0 × ∞. -/
def FVal.mul : FVal → FVal → Option FVal
  | .fin s m e, .fin s' m' e' => some (.fin (s != s') (m * m') (e + e'))
  | .inf s, .inf s' => some (.inf (s != s'))
  | .inf s, .fin s' m _ => if m = 0 then none else some (.inf (s != s'))
  | .fin s m _, .inf s' => if m = 0 then none else some (.inf (s != s'))
  | _, _ => some (.nan false)

/-- A sum of two finite values as a signed multiple of a power of two. -/
def addFin (s : Bool) (m : Nat) (e : Int) (s' : Bool) (m' : Nat) (e' : Int) : Int × Int :=
  let q := min e e'
  let a : Int := (m * 2 ^ (e - q).toNat : Nat)
  let b : Int := (m' * 2 ^ (e' - q).toNat : Nat)
  ((if s then -a else a) + (if s' then -b else b), q)

/-- A sum of terms over the extended reals (R184): none for ∞ − ∞; an exact zero is negative when every term is negative,
and otherwise takes −0 only under RDN. -/
def sumVals (rdn : Bool) (vs : List FVal) : Option FVal :=
  if vs.any (·.isNan) then some (.nan false)
  else
    let infs := vs.filter (·.isInf)
    match infs with
    | v :: rest => if rest.all (fun w => w.neg == v.neg) then some v else none
    | [] =>
      let (n, q) := vs.foldl (fun (acc : Int × Int) v => match v with
        | .fin s m e => addFin (decide (acc.1 < 0)) acc.1.natAbs acc.2 s m (if m = 0 then acc.2 else e)
        | _ => acc) ((0 : Int), (0 : Int))
      if n = 0 then
        some (.fin (if vs.all (·.neg) then true else if vs.all (fun v => !v.neg) then false else rdn) 0 0)
      else some (.fin (decide (n < 0)) n.natAbs q)

/-- Compare two values that are no NaN; −0 and +0 are equal (R241). -/
def FVal.cmp (a b : FVal) : Ordering :=
  match a, b with
  | .inf s, .inf s' => if s = s' then .eq else if s then .lt else .gt
  | .inf s, _ => if s then .lt else .gt
  | _, .inf s => if s then .gt else .lt
  | .fin s m e, .fin s' m' e' => compare (addFin s m e (!s') m' e').1 0
  | _, _ => .eq

/-- The lesser by exact comparison, with −0 less than +0 (R202). -/
def FVal.le (a b : FVal) : Bool :=
  match a.cmp b with
  | .lt => true
  | .gt => false
  | .eq => a.neg || !b.neg

/-- The code of a value that the format holds exactly. -/
def exactCode (ty : Ty) (v : FVal) : Nat := (rndVal ty .rne false false 0 v).1

/-! ## Stochastic draws (R252) -/

/-- mix64 of R252. -/
def mix64 (z : Nat) : Nat :=
  let z := z % 2 ^ 64
  let z := (z ^^^ (z >>> 30)) * 0xBF58476D1CE4E5B9 % 2 ^ 64
  let z := (z ^^^ (z >>> 27)) * 0x94D049BB133111EB % 2 ^ 64
  z ^^^ (z >>> 31)

/-- SRK of a context (R252). -/
def srkOf (lid blk vx vy nk fold : Nat) : Word :=
  BitVec.ofNat 64 (mix64 (lid * 2 ^ 32 + blk * 2 ^ 24 + vx * 2 ^ 18 + vy * 2 ^ 12 + nk * 2 ^ 8 + fold))

/-- PR(c) of R252. -/
def prDraw (srk : Word) (c : Nat) : Nat := mix64 ((srk.toNat + c * 0x9E3779B97F4A7C15) % 2 ^ 64) / 2 ^ 32

end Sys2Proof.Machine
end

