-- ==== Sys2Proof/Machine/Flags.lean ====
section
/-! DEFINITION. Results with their flags: integer results (R183), comparisons (R65), and the float operations that the
Compute Element, the Numeric Unit and the home slices share (R184, R185, R201 to R208, R267). -/

namespace Sys2Proof.Machine

/-- Least and greatest value of an integer type (R8). -/
def Ty.lo (ty : Ty) : Int := if ty.isSigned then -(2 ^ (ty.width - 1) : Int) else 0
def Ty.hi (ty : Ty) : Int := if ty.isSigned then 2 ^ (ty.width - 1) - 1 else 2 ^ ty.width - 1

/-- sat(x, TY) (R12). -/
def satTo (ty : Ty) (x : Int) : Int := max (Ty.lo ty) (min (Ty.hi ty) x)

/-- ires of R183: the pattern and the flags. -/
def ires (ty : Ty) (sat : Bool) (x : Int) : Nat × Nat :=
  if sat then (wrap (satTo ty x) ty.width, flagIf (decide (satTo ty x ≠ x)) Flag.saturated)
  else (wrap x ty.width, 0)

/-- Conditions of C-form on an ordering (R65); `un`: either operand is NaN. -/
def condHolds (c : Nat) (o : Ordering) (un : Bool) : Bool :=
  match c with
  | 0 => !un && o == .eq
  | 1 => un || o != .eq
  | 2 => !un && o == .lt
  | 3 => !un && o != .gt
  | 4 => !un && o == .gt
  | 5 => !un && o != .lt
  | 6 => !un
  | _ => un

/-- A comparison of two patterns of a type (R65). -/
def compareAs (ty : Ty) (fz : Bool) (c a b : Nat) : Bool :=
  if ty.isInt then condHolds c (compare (asIntOf ty a) (asIntOf ty b)) false
  else
    let x := fvalFz ty fz a
    let y := fvalFz ty fz b
    condHolds c (x.cmp y) (x.isNan || y.isNan)
where
  /-- A pattern as an integer of the type. -/
  asIntOf (ty : Ty) (v : Nat) : Int := if ty.isSigned then sx v ty.width else (v % 2 ^ ty.width : Nat)

/-- How a float instruction rounds: its type, its mode with DYN resolved, SAT, FZ and the lane's draw. -/
structure Rounding where
  ty : Ty
  rm : Rnd
  sat : Bool
  fz : Bool
  draw : Nat
deriving DecidableEq, Repr

/-- rnd under an instruction's rounding, with flags of its own besides. -/
def Rounding.put (r : Rounding) (fl : Nat) (v : FVal) : Nat × Nat :=
  let x := rndVal r.ty r.rm r.sat r.fz r.draw v
  (x.1, x.2 ||| fl)

/-- The canonical NaN of a type with flags (R184). -/
def canon (ty : Ty) (fl : Nat) : Nat × Nat := (ty.fmt.canonNan, fl)

/-- An operand under FZ (R63). -/
def Rounding.arg (r : Rounding) (ty : Ty) (code : Nat) : FVal := fvalFz ty r.fz code

/-- A sum of products and terms with one rounding (R184, R201, R206, R207): `prods` are pairs of factors, `terms` are
added. An invalid product or ∞ − ∞ gives NaN with Invalid, even beside a NaN; any other NaN operand gives NaN with
NaN-in. `all` are the operands, for the flags of NaNs. -/
def Rounding.sumProd (r : Rounding) (all : List FVal) (prods : List (FVal × FVal)) (terms : List FVal) : Nat × Nat :=
  let nf := nanFlags all
  let ps := prods.map fun p => p.1.mul p.2
  if ps.any (·.isNone) then canon r.ty (nf ||| Flag.invalid)
  else
    let vs := ps.filterMap id ++ terms
    match sumVals (r.rm == .rdn) vs with
    | none => canon r.ty (nf ||| Flag.invalid)
    | some (.nan _) => canon r.ty nf
    | some v => r.put nf v

/-- FADD, FSUB and DADD: a + b, or a − b. -/
def Rounding.add (r : Rounding) (a b : Nat) (sub : Bool) : Nat × Nat :=
  let x := r.arg r.ty a
  let y := r.arg r.ty b
  r.sumProd [x, y] [] [x, if sub then y.negate else y]

/-- FMUL and DMUL: the sign of a product is the XOR of the signs. -/
def Rounding.mul (r : Rounding) (a b : Nat) : Nat × Nat :=
  let x := r.arg r.ty a
  let y := r.arg r.ty b
  if x.isNan || y.isNan then canon r.ty (nanFlags [x, y])
  else match x.mul y with
    | none => canon r.ty Flag.invalid
    | some v => r.put 0 v

/-- The fused forms: ±(a · b) ± c (R201). -/
def Rounding.fma (r : Rounding) (a b c : Nat) (negP negC : Bool) : Nat × Nat :=
  let x := r.arg r.ty a
  let y := r.arg r.ty b
  let z := r.arg r.ty c
  r.sumProd [x, y, z] [(if negP then x.negate else x, y)] [if negC then z.negate else z]

/-- FMIN and FMAX (R202). -/
def fminmax (ty : Ty) (fz mx : Bool) (a b : Nat) : Nat × Nat :=
  let x := fvalFz ty fz a
  let y := fvalFz ty fz b
  if x.isNan || y.isNan then canon ty (nanFlags [x, y])
  else (exactCode ty (if x.le y != mx then x else y), 0)

/-- FMINN and FMAXN (R202). -/
def fminmaxn (ty : Ty) (fz mx : Bool) (a b : Nat) : Nat × Nat :=
  let x := fvalFz ty fz a
  let y := fvalFz ty fz b
  let fl := nanFlags [x, y]
  if x.isNan && y.isNan then canon ty fl
  else if x.isNan then (exactCode ty y, fl)
  else if y.isNan then (exactCode ty x, fl)
  else (exactCode ty (if x.le y != mx then x else y), 0)

/-- The sign bit of a type's pattern cleared, set or inverted (R203). -/
def absCode (ty : Ty) (a : Nat) : Nat := a % ty.fmt.signBit

/-- FMAXA (R202). -/
def fmaxa (ty : Ty) (fz : Bool) (a b : Nat) : Nat × Nat := fminmaxn ty fz true (absCode ty a) (absCode ty b)

/-- A quotient of exact magnitudes with enough bits for any rounding. -/
def divMag (m e : Int × Nat) : Nat × Int × Bool :=
  -- m / e for magnitudes m.2 · 2^m.1 and e.2 · 2^e.1
  let k := 200 + lg e.2
  let q := m.2 * 2 ^ k / e.2
  (q, m.1 - e.1 - (k : Int), decide (m.2 * 2 ^ k % e.2 ≠ 0))

/-- DIV and DDIV (R266). -/
def Rounding.div (r : Rounding) (a b : Nat) : Nat × Nat :=
  let x := r.arg r.ty a
  let y := r.arg r.ty b
  if x.isNan || y.isNan then canon r.ty (nanFlags [x, y])
  else
    let neg := x.neg != y.neg
    match x, y with
    | .inf _, .inf _ => canon r.ty Flag.invalid
    | .inf _, _ => r.put 0 (.inf neg)
    | _, .inf _ => r.put 0 (.fin neg 0 0)
    | .fin _ m e, .fin _ m' e' =>
      if m' = 0 then (if m = 0 then canon r.ty Flag.invalid else r.put Flag.divZero (.inf neg))
      else if m = 0 then r.put 0 (.fin neg 0 0)
      else
        let (q, qe, st) := divMag (e, m) (e', m')
        rnd r.ty r.rm r.sat r.fz r.draw { neg := neg, m := q, e := qe, sticky := st }
    | _, _ => canon r.ty Flag.invalid

/-- Integer square root, one result bit a step, from bit `k` down. -/
def isqrtGo (n : Nat) : Nat → Nat → Nat
  | 0, r => if (r + 1) * (r + 1) ≤ n then r + 1 else r
  | k + 1, r =>
    let t := r + 2 ^ (k + 1)
    isqrtGo n k (if t * t ≤ n then t else r)

/-- floor of the square root. -/
def isqrt (n : Nat) : Nat := isqrtGo n (lg n / 2 + 1) 0

/-- A square root of a magnitude m · 2^e with enough bits for any rounding. -/
def sqrtMag (m : Nat) (e : Int) : Nat × Int × Bool :=
  let k : Nat := if (e - 300) % 2 = 0 then 300 else 301
  let n := m * 2 ^ k
  let q := isqrt n
  (q, (e - k) / 2, decide (q * q ≠ n))

/-- SQRT and DSQRT (R266). -/
def Rounding.sqrt (r : Rounding) (a : Nat) : Nat × Nat :=
  match r.arg r.ty a with
  | .nan s => canon r.ty (nanFlags [.nan s])
  | .inf true => canon r.ty Flag.invalid
  | .inf false => r.put 0 (.inf false)
  | .fin neg m e =>
    if m = 0 then r.put 0 (.fin neg 0 0)
    else if neg then canon r.ty Flag.invalid
    else
      let (q, qe, st) := sqrtMag m e
      rnd r.ty r.rm r.sat r.fz r.draw { neg := false, m := q, e := qe, sticky := st }
  | .reserved => canon r.ty Flag.invalid

/-- RCP and RSQ (R266): 1/a, 1/√a. -/
def Rounding.rcp (r : Rounding) (a : Nat) : Nat × Nat :=
  match r.arg r.ty a with
  | .nan s => canon r.ty (nanFlags [.nan s])
  | .inf neg => r.put 0 (.fin neg 0 0)
  | .fin neg m e =>
    if m = 0 then r.put Flag.divZero (.inf neg)
    else
      let (q, qe, st) := divMag (0, 1) (e, m)
      rnd r.ty r.rm r.sat r.fz r.draw { neg := neg, m := q, e := qe, sticky := st }
  | .reserved => canon r.ty Flag.invalid

def Rounding.rsq (r : Rounding) (a : Nat) : Nat × Nat :=
  match r.arg r.ty a with
  | .nan s => canon r.ty (nanFlags [.nan s])
  | .inf true => canon r.ty Flag.invalid
  | .inf false => r.put 0 (.fin false 0 0)
  | .fin neg m e =>
    if m = 0 then r.put Flag.divZero (.inf neg)
    else if neg then canon r.ty Flag.invalid
    else
      -- 1/√(m · 2^e) = √(2^(2k) / m) · 2^(−(e + 2k) / 2), with e made even
      let m' := if e % 2 = 0 then m else m * 2
      let e' := if e % 2 = 0 then e else e - 1
      let k := 400 + lg m'
      let n := 2 ^ (2 * k) / m'
      let q := isqrt n
      rnd r.ty r.rm r.sat r.fz r.draw
        { neg := false, m := q, e := -(e' / 2) - k, sticky := decide (q * q * m' ≠ 2 ^ (2 * k)) }
  | .reserved => canon r.ty Flag.invalid

end Sys2Proof.Machine
end

