-- ==== Sys2Proof/Machine/Grid.lean ====
section
/-! DEFINITION. The element grid: which node stands at a coordinate, its matching store and its cluster (R14 to R18). -/

namespace Sys2Proof.Machine

/-- Node kinds (R15, R52). -/
inductive NodeKind where
  | ce | me | nu | mn | cp | till | link | reserved
deriving DecidableEq, Repr

/-- A coordinate from numbers. -/
def mkCoord (die x y : Nat) : Coord :=
  { die := BitVec.ofNat 4 die, x := BitVec.ofNat 6 x, y := BitVec.ofNat 5 y }

/-- The node at a coordinate (R14, R15). -/
def kindOf (c : Coord) : NodeKind :=
  let d := c.die.toNat
  let x := c.x.toNat
  let y := c.y.toNat
  if d < 8 then
    if x < 48 then (if (x + y) % 2 = 0 then .ce else .me)
    else if x < 60 then
      match y % 4 with
      | 0 => .nu | 1 => .nu | 2 => .mn | _ => .cp
    else (if y % 4 = 3 then .reserved else .till)
  else if d < 10 then (if x < 18 ∧ y = 0 then .link else .reserved)
  else .reserved

/-- Cluster column within the die (R14, R15). -/
def clusterX (c : Coord) : Nat :=
  let x := c.x.toNat
  if x < 48 then x / 4 else if x < 60 then x - 48 else 3 * (x - 60) + c.y.toNat % 4

/-- The cluster of a coordinate on a compute die, as gx + 48·gy. A link node has a token pool of its own, under the number
1,024 + p that its capacity records carry (R407). -/
def clusterOf (c : Coord) : Nat :=
  if 8 ≤ c.die.toNat then 1024 + 18 * (c.die.toNat - 8) + c.x.toNat
  else (12 * (c.die.toNat % 4) + clusterX c) + 48 * (8 * (c.die.toNat / 4) + c.y.toNat / 4)

/-- The store that matches a node's tokens: a CE's own, also for its partner ME; any other node's own (R17). -/
def storeOf (c : Coord) : Coord :=
  if kindOf c = .me then { c with x := c.x ^^^ 1#6 } else c

/-- Entries of the matching store at a coordinate (R131). -/
def storeSize (c : Coord) : Nat := if kindOf c = .ce then 64 else 16

/-- Firing slots of a node (R173, R222, R253, R274, R321, R393, R408). -/
def slotCount (c : Coord) : Nat := if kindOf c = .me then 8 else 4

/-- The die of a cluster given by gx + 48·gy. -/
def dieOfCluster (g : Nat) : Nat := 4 * (g / 48 / 8) + g % 48 / 12

/-- A node of a cluster by its kind code of R69: NU 1 and 2, Matrix Node 3, Copy Engine 4, Till 5 (R15). -/
def clusterNode (g nk : Nat) : Coord :=
  let cx := g % 48 % 12
  let cy := g / 48 % 8
  let d := dieOfCluster g
  match nk with
  | 1 => mkCoord d (48 + cx) (4 * cy)
  | 2 => mkCoord d (48 + cx) (4 * cy + 1)
  | 3 => mkCoord d (48 + cx) (4 * cy + 2)
  | 4 => mkCoord d (48 + cx) (4 * cy + 3)
  | _ => mkCoord d (60 + cx / 3) (4 * cy + cx % 3)

/-- The kind code of a coordinate's node as R69 codes it. -/
def nkOf (c : Coord) : Nat :=
  match kindOf c with
  | .ce => 0 | .me => 0
  | .nu => c.y.toNat % 4 + 1
  | .mn => 3 | .cp => 4 | .till => 5 | .link => 6 | .reserved => 7

/-- The global element coordinate (ex, ey) as a coordinate (R24). -/
def elemCoord (ex ey : Nat) : Coord := mkCoord (4 * (ey / 32) + ex / 48) (ex % 48) (ey % 32)

/-- Global element coordinate of an element (R24). -/
def globalX (c : Coord) : Nat := 48 * (c.die.toNat % 4) + c.x.toNat
/-- Global element coordinate of an element (R24). -/
def globalY (c : Coord) : Nat := 32 * (c.die.toNat / 4) + c.y.toNat

/-- The eight Memory Elements of a cluster, in the order of their index e = 2·ly + (lx div 2) (R275, R489). -/
def clusterMes (g : Nat) : List Coord :=
  let x0 := 4 * (g % 48 % 12)
  let y0 := 4 * (g / 48 % 8)
  let d := dieOfCluster g
  [0, 1, 2, 3].flatMap fun ly => [0, 1].map fun h => mkCoord d (x0 + 2 * h + (ly + 1) % 2) (y0 + ly)

/-- The eight Compute Elements of a cluster. -/
def clusterCes (g : Nat) : List Coord :=
  let x0 := 4 * (g % 48 % 12)
  let y0 := 4 * (g / 48 % 8)
  let d := dieOfCluster g
  [0, 1, 2, 3].flatMap fun ly => [0, 1].map fun h => mkCoord d (x0 + 2 * h + ly % 2) (y0 + ly)

/-- Every node of a cluster. -/
def clusterNodes (g : Nat) : List Coord :=
  clusterCes g ++ clusterMes g ++ [1, 2, 3, 4, 5].map (clusterNode g)

/-- The Link Engine node of a Flitis port (R15). -/
def linkNode (p : Nat) : Coord := mkCoord (8 + p / 18) (p % 18) 0

/-- The Flitis port of a Link Engine node. -/
def portOfLink (c : Coord) : Nat := 18 * (c.die.toNat - 8) + c.x.toNat

end Sys2Proof.Machine
end

