-- ==== Sys2Proof/Config.lean ====
section
/-! DEFINITION. What an implementation fixes and what the manual leaves open: opaque constants with no body, so that
nothing can be proved of a value they give. -/

namespace Sys2Proof.Config

/-- An unspecified choice: the `use`-th choice of the step whose counter value is `n` (State.freeCtr). The model uses it
where the manual calls a result unspecified or gives no value, and takes it within the set that the manual allows (R13).
DESIGN CHOICE, log 1. -/
opaque free : Nat → Nat → Nat

/-- The start value, the final value and the bit order of a flit's CRC-32, of which the manual gives the polynomial alone
(R409, log 11). -/
opaque crcStart : BitVec 32
opaque crcEnd : BitVec 32
opaque crcReflected : Bool

/-- Whether NW is set in a PUTN that arrives, by its source device, port, channel and message number: the manual gives NW no place in the
packet, and its reserved bits are 0 (R4, R433, log 12). -/
opaque nwOf : Nat → Nat → Nat → Nat → Bool

/-- The link node of another device that serves a window of it (R417), by device number and window: the order that R413 gives is kept
between pairs of link nodes, and the window alone is in the packet (log 79). -/
opaque farNode : Nat → Nat → Nat

/-- DEVID, the device's serial number (R490). -/
opaque devId : BitVec 64

/-- Byte `i` of the vendor's LMS public key in the boot ROM (R499): the typecodes, the identifier and the root. -/
opaque vendorKey : Nat → BitVec 8

/-- Byte `i` of the device identity signature over a report's first 256 bytes with the given leaf: the one-time
signature, then the path, without the leaf's number and the typecodes (R501). -/
opaque identitySign : Nat → List (BitVec 8) → Nat → BitVec 8

/-- Byte `i` of the device identity public key after its typecodes: the identifier and the root (R501). -/
opaque identityKey : Nat → BitVec 8

/-- Byte `i` of the vendor signature over the identity key, written at manufacture: the one-time signature, the path and
the leaf's number, without the typecodes (R501). -/
opaque vendorEndorsement : Nat → BitVec 8

end Sys2Proof.Config
end

