-- ==== Sys2Proof/WellFormed.lean ====
section
/-! DEFINITION. Well-formed instructions: the checks that an instruction's own fields must pass (R53, R57 to R65, R73,
R105, R123). A check that needs the node, the context or the code object besides the word is made where the manual
makes it, at CFG and LAUNCH. -/

namespace Sys2Proof

/-- The field check that an instruction fails. -/
inductive WfError where
  /-- TY is not one the entry accepts. -/
  | ty
  /-- D is not in the entry's destinations. -/
  | dest
  | selA
  | selB
  | selC
  /-- IMM or IMMF selected where IMM16 has another meaning (R59). -/
  | immSelected
  /-- PM or PN where the instruction takes no predicate. -/
  | predicate
  | rounding
  | saturate
  | flush
  | option
  | imm16
  /-- The entry's rule over several fields. -/
  | form
  /-- A control command's operand outside R105's limits. -/
  | controlLimit
  /-- A non-zero reserved field of a queue entry, or a SIGNAL without CEN (R124). -/
  | reservedField
deriving DecidableEq, Repr

/-- Does any operand select IMM or IMMF? -/
def Niw.selectsImm (n : Niw) : Bool :=
  [n.a, n.b, n.c].any fun s => decide (s = .imm ∨ s = .immf)

/-- IMM16 against its rule. -/
def ImmRule.ok (r : ImmRule) (n : Niw) : Bool :=
  match r with
  | .sel => n.selectsImm || n.imm == 0#16
  | .field ok => ok n.imm

/-- Is IMM or IMMF selected although IMM16 has another meaning? -/
def ImmRule.clash (r : ImmRule) (n : Niw) : Bool :=
  match r with
  | .sel => false
  | .field _ => n.selectsImm

/-- The first check of the rule that the fields fail. -/
def Niw.check (n : Niw) (r : Rule) : Option WfError :=
  let flt := !n.ty.isInt
  if !r.tys.contains n.ty then some .ty
  else if !r.d.has n.d then some .dest
  else if !r.a.has flt n.a then some .selA
  else if !r.b.has flt n.b then some .selB
  else if !r.c.has flt n.c then some .selC
  else if r.imm.clash n then some .immSelected
  else if r.pm0 && decide (n.pred ≠ .token) then some .predicate
  else if !r.rm.has n.rm then some .rounding
  else if n.sat && !r.sat then some .saturate
  else if n.fz && !r.fz then some .flush
  else if !r.opt n.opt then some .option
  else if !r.imm.ok n then some .imm16
  else if !r.extra n then some .form
  else none

/-- The bits of word `w` at `lo` and above are 0. -/
def highZero (w : Word) (lo : Nat) : Bool := decide (w.toNat < 2 ^ lo)

/-- Every word of the list is 0. -/
def zeros (ws : List Word) : Bool := ws.all (· == 0#64)

/-- The words 2 to 7 of a queue entry keep their reserved fields 0 (R123, R124). -/
def Cmd.reservedOk : Instr → Bool
  | .cmdLaunch c => c.w2.extractLsb' 48 8 == 0#8
  | .cmdWait c => highZero c.w2 8 && zeros [c.w4, c.w5, c.w6, c.w7]
  | .cmdSignal c => c.cen && zeros [c.w2, c.w3, c.w4, c.w5, c.w6, c.w7]
  | .cmdBarrier c => zeros [c.w2, c.w3, c.w4, c.w5, c.w6, c.w7]
  | .cmdSnapshot c => highZero c.w2 48 && zeros [c.w4, c.w5, c.w6, c.w7]
  | .cmdRestore c => highZero c.w2 48 && zeros [c.w3, c.w4, c.w5, c.w6, c.w7]
  | .cmdResume c => highZero c.w2 32
  | .cmdDiscard c => highZero c.w2 32 && zeros [c.w3, c.w4, c.w5, c.w6, c.w7]
  | .cmdAbort c => zeros [c.w2, c.w3, c.w4, c.w5, c.w6, c.w7]
  | _ => true

/-- The limits on a control command that its word alone decides (R105). -/
def controlOk : Instr → Bool
  | .seqRun _ _ count => decide (1 ≤ count.toNat ∧ count.toNat ≤ 4096)
  | .seqLoop _ trips _ => decide (trips ≠ 0#16)
  | .waitsBlk v => decide (v.toNat < 64)
  | .waitsIc v => decide (v.toNat < 4)
  | .waitsTok v => decide (v ≠ 0#32)
  | _ => true

/-- The first check an instruction fails; none when it is well-formed. -/
def Instr.wfError (i : Instr) : Option WfError :=
  match i.niw, i.rule with
  | some n, some r => n.check r
  | _, _ =>
    if !controlOk i then some .controlLimit
    else if !Cmd.reservedOk i then some .reservedField
    else none

/-- The instruction's fields pass every check. -/
def Instr.wf (i : Instr) : Bool := i.wfError.isNone

end Sys2Proof
end

