-- ==== Sys2Proof/Decode.lean ====
section
/-! DEFINITION. Decoding: the words the units fetch (node instruction words, control commands, strobes, queue entries,
packet headers) and the model's own event words, read into `Instr` or rejected by name; and the encoder. -/

namespace Sys2Proof

/-- Where a word stands, which fixes its format. -/
inductive Source where
  /-- A firing sequence (R56). -/
  | node
  /-- A control stream (R72). -/
  | control
  /-- The strobe network (R34). -/
  | strobe
  /-- A hardware queue (R122). -/
  | queue
  /-- A Flitis packet (R410). -/
  | packet
  /-- The model's schedule of events. -/
  | event
deriving DecidableEq, Repr

/-- Words as a unit fetches them. -/
structure Raw where
  src : Source
  words : List Word
deriving DecidableEq, Repr

/-- Why words are no instruction. -/
inductive Reject where
  /-- An OPC that the manual reserves, or one of the control stream in a node's sequence (R81). -/
  | opcode
  /-- A reserved D code (R60). -/
  | destination
  /-- A field of MNDIT, whose words are fixed, has another value (R320). -/
  | fixedField
  /-- A reserved PM, PN pair (R61). -/
  | predicate
  /-- The reserved RM code (R62). -/
  | rounding
  /-- A control command's OPC outside 0xF0 to 0xF7 (R73). -/
  | controlOpcode
  /-- A field that the control command does not read is not 0 (R73). -/
  | controlField
  /-- A reserved WAITS code (R105). -/
  | waitsCode
  /-- A reserved strobe kind (R34). -/
  | strobeKind
  /-- A strobe argument bit that its kind does not use is not 0 (R34). -/
  | strobeField
  /-- A reserved CMD (R124). -/
  | command
  /-- A reserved field of a queue entry's word 0 (R122). -/
  | commandField
  /-- A reserved PKIND, or a trimmed packet of a kind that no hop trims (R411). -/
  | packetKind
  /-- No event has this code. -/
  | event
  /-- Too few or too many words for the source. -/
  | length
deriving DecidableEq, Repr

/-- TY codes (R8). -/
def Ty.code : Ty → Nat
  | .i8 => 0 | .i16 => 1 | .i32 => 2 | .i64 => 3 | .n8 => 4 | .n16 => 5 | .n32 => 6 | .n64 => 7
  | .f16 => 8 | .bf16 => 9 | .f32 => 10 | .f64 => 11 | .e4m3 => 12 | .e5m2 => 13 | .e2m3 => 14 | .e2m1 => 15

/-- The type of a TY code (R8); every code of four bits names one. -/
def Ty.ofCode : Nat → Ty
  | 0 => .i8 | 1 => .i16 | 2 => .i32 | 3 => .i64 | 4 => .n8 | 5 => .n16 | 6 => .n32 | 7 => .n64
  | 8 => .f16 | 9 => .bf16 | 10 => .f32 | 11 => .f64 | 12 => .e4m3 | 13 => .e5m2 | 14 => .e2m3 | _ => .e2m1

/-- Selector codes (R58). -/
def Sel.code : Sel → Nat
  | .t n => n.val
  | .p n => 8 + n.val
  | .k n => 12 + n.val
  | .m n => 20 + n.val
  | .zero => 24 | .one => 25 | .lane => 26 | .iter => 27 | .frame => 28 | .imm => 29 | .immf => 30 | .none => 31

/-- The selector of a five-bit code (R58). -/
def Sel.ofCode (n : Nat) : Sel :=
  if n < 8 then .t (Fin.ofNat 8 n)
  else if n < 12 then .p (Fin.ofNat 4 (n - 8))
  else if n < 20 then .k (Fin.ofNat 8 (n - 12))
  else if n < 24 then .m (Fin.ofNat 4 (n - 20))
  else match n with
    | 24 => .zero | 25 => .one | 26 => .lane | 27 => .iter | 28 => .frame | 29 => .imm | 30 => .immf | _ => .none

/-- Destination codes (R60). -/
def Dst.code : Dst → Nat
  | .t n => n.val
  | .o n => 8 + n.val
  | .m n => 20 + n.val
  | .none => 31

/-- The destination of a code; none for a reserved one (R60). -/
def Dst.ofCode (n : Nat) : Option Dst :=
  if n < 8 then some (.t (Fin.ofNat 8 n))
  else if n < 12 then some (.o (Fin.ofNat 4 (n - 8)))
  else if 20 ≤ n ∧ n < 24 then some (.m (Fin.ofNat 4 (n - 20)))
  else if n = 31 then some .none
  else none

/-- PM and PN (R61). -/
def Pred.code : Pred → Nat × Nat
  | .token => (0, 0)
  | .mask n inv => (n.val + 1, b2n inv)

/-- The predicate of PM and PN; none for a reserved pair (R61). -/
def Pred.ofCode (pm pn : Nat) : Option Pred :=
  if pm = 0 then (if pn = 0 then some .token else none)
  else if pm ≤ 4 then some (.mask (Fin.ofNat 4 (pm - 1)) (pn == 1))
  else none

/-- RM codes (R62). -/
def Rnd.code : Rnd → Nat
  | .rne => 0 | .rtz => 1 | .rdn => 2 | .rup => 3 | .rna => 4 | .sr => 5 | .dyn => 6

/-- The rounding mode of a code; none for the reserved one (R62). -/
def Rnd.ofCode : Nat → Option Rnd
  | 0 => some .rne | 1 => some .rtz | 2 => some .rdn | 3 => some .rup | 4 => some .rna | 5 => some .sr
  | 6 => some .dyn | _ => none

/-- The fields of MNDIT, `.ON` or `.OFF` (R320). -/
def mnditFields (on : Bool) : Niw :=
  { ty := .i8, d := .none, a := .none, b := .none, c := .none, pred := .token, rm := .rne, sat := false, fz := false,
    opt := if on then 1#7 else 0#7, imm := 0#16 }

/-- The instruction of an opcode with its fields; the options that the table lists as rows of their own select one
(R80, R85). -/
def ofOpcode (opc : Nat) (n : Niw) : Option Instr :=
  match opc with
  | 0x00 => some (.nop n)
  | 0x01 => some (.add n)
  | 0x02 => some (.sub n)
  | 0x03 => some (.addc n)
  | 0x04 => some (.subb n)
  | 0x05 => some (.mul n)
  | 0x06 => some (.mulh n)
  | 0x07 => some (.mad n)
  | 0x08 => some (.sad n)
  | 0x09 => some (.dot4 n)
  | 0x0a => some (.min n)
  | 0x0b => some (.max n)
  | 0x0c => some (.abs n)
  | 0x0d => some (.neg n)
  | 0x0e => some (.clamp n)
  | 0x10 => some (.and n)
  | 0x11 => some (.or n)
  | 0x12 => some (.xor n)
  | 0x13 => some (.andn n)
  | 0x14 => some (.not n)
  | 0x15 => some (.shl n)
  | 0x16 => some (.shr n)
  | 0x17 => some (.sar n)
  | 0x18 => some (.rot n)
  | 0x19 => some (.funnel n)
  | 0x1a => some (.clz n)
  | 0x1b => some (.ctz n)
  | 0x1c => some (.popc n)
  | 0x1d => some (.brev n)
  | 0x20 => some (.bfe n)
  | 0x21 => some (.bfi n)
  | 0x22 => some (.perm n)
  | 0x23 => some (.pack n)
  | 0x24 => some (.unpk n)
  | 0x25 => some (.sel n)
  | 0x26 => some (.cmp n)
  | 0x27 => some (.cmpm n)
  | 0x28 => some (.mov n)
  | 0x29 => some (if bit n.opt.toNat 0 then .moviHi n else .movi n)
  | 0x2a => some (.lea n)
  | 0x2b => some (.lea2 n)
  | 0x2c => some (.shfl n)
  | 0x2d => some (.bcast n)
  | 0x30 => some (.lred n)
  | 0x31 => some (.lscan n)
  | 0x32 => some (.lpack n)
  | 0x33 => some (.mand n)
  | 0x34 => some (.mor n)
  | 0x35 => some (.mxor n)
  | 0x36 => some (.mnot n)
  | 0x37 => some (.mpop n)
  | 0x38 => some (.mfirst n)
  | 0x39 => some (.mset n)
  | 0x3a => some (.tagrd n)
  | 0x3b => some (.cnt n)
  | 0x3c => some (.hash n)
  | 0x40 => some (.fadd n)
  | 0x41 => some (.fsub n)
  | 0x42 => some (.fmul n)
  | 0x43 => some (.ffma n)
  | 0x44 => some (.ffms n)
  | 0x45 => some (.fnma n)
  | 0x46 => some (.fnms n)
  | 0x47 => some (.fmin n)
  | 0x48 => some (.fmax n)
  | 0x49 => some (.fminn n)
  | 0x4a => some (.fmaxn n)
  | 0x4b => some (.fabs n)
  | 0x4c => some (.fneg n)
  | 0x4d => some (.fcmp n)
  | 0x4e => some (.fcmpm n)
  | 0x4f => some (.fclass n)
  | 0x50 => some (.frint n)
  | 0x51 => some (.ffrac n)
  | 0x52 => some (.fscale n)
  | 0x53 => some (.fgetexp n)
  | 0x54 => some (.fgetman n)
  | 0x55 => some (.fcopysign n)
  | 0x56 => some (.fdot2 n)
  | 0x57 => some (.flerp n)
  | 0x58 => some (.fmed3 n)
  | 0x59 => some (.fcvts n)
  | 0x5a => some (.fmaxa n)
  | 0x5b => some (.fred n)
  | 0x60 => some (.cvt n)
  | 0x61 => some (.cvti n)
  | 0x62 => some (.cvtf n)
  | 0x63 => some (.qnt n)
  | 0x64 => some (.dqnt n)
  | 0x65 => some (.amaxb n)
  | 0x66 => some (.rng n)
  | 0x68 => some (.exp2 n)
  | 0x69 => some (.log2 n)
  | 0x6a => some (.exp n)
  | 0x6b => some (.ln n)
  | 0x6c => some (.rcp n)
  | 0x6d => some (.rsq n)
  | 0x6e => some (.sqrt n)
  | 0x6f => some (.div n)
  | 0x70 => some (.sinpi n)
  | 0x71 => some (.cospi n)
  | 0x72 => some (.tanh n)
  | 0x73 => some (.sigm n)
  | 0x74 => some (.atanpi n)
  | 0x75 => some (.erf n)
  | 0x76 => some (.dfma n)
  | 0x77 => some (.dadd n)
  | 0x78 => some (.dmul n)
  | 0x79 => some (.ddiv n)
  | 0x7a => some (.dsqrt n)
  | 0x7b => some (.idiv n)
  | 0x7c => some (.irem n)
  | 0x80 => some (.alloc n)
  | 0x81 => some (.free n)
  | 0x82 => some (.emit n)
  | 0x83 => some (.emitt n)
  | 0x84 => some (.iter n)
  | 0x85 => some (.split n)
  | 0x86 => some (.merge n)
  | 0x87 => some (.steer n)
  | 0x88 => some (.gate n)
  | 0x89 => some (.eos n)
  | 0x8a => some (.joinp n)
  | 0x8b => some (.leavep n)
  | 0x8c => some (.barr n)
  | 0x8d => some (.depth n)
  | 0x90 => some (.ld n)
  | 0x91 => some (.ldg n)
  | 0x92 => some (.ldl n)
  | 0x93 => some (.lda n)
  | 0x94 => some (.ldb n)
  | 0x95 => some (.lds n)
  | 0x96 => some (.ldsg n)
  | 0x98 => some (.st n)
  | 0x99 => some (.stg n)
  | 0x9a => some (.stm n)
  | 0x9b => some (.str n)
  | 0x9c => some (.sts n)
  | 0x9d => some (.stss n)
  | 0x9e => some (.stz n)
  | 0xa0 => some (.sopen n)
  | 0xa1 => some (.sseek n)
  | 0xa2 => some (.sclose n)
  | 0xa3 => some (.sbar n)
  | 0xa4 => some (.sflush n)
  | 0xa5 => some (.fence n)
  | 0xa6 => some (.probe n)
  | 0xa7 => some (.pfetch n)
  | 0xa8 => some (.scnt n)
  | 0xa9 => some (.xwb n)
  | 0xaa => some (.xinv n)
  | 0xab => some (.smap n)
  | 0xb0 => some (.cpy n)
  | 0xb1 => some (.cpy2 n)
  | 0xb2 => some (.cpy3 n)
  | 0xb3 => some (.cpym n)
  | 0xb4 => some (.cpyz n)
  | 0xb5 => some (.cpyx n)
  | 0xb6 => some (.cpya n)
  | 0xb7 => some (.cpyb n)
  | 0xb8 => some (.cpyf n)
  | 0xb9 => some (.cpyc n)
  | 0xba => some (.cpyq n)
  | 0xbb => some (.fpdecl n)
  | 0xc0 => some (if decide (n.a = .none ∧ n.b = .none) then .mncfgCheck n else .mncfg n)
  | 0xc1 => some (.mnldb n)
  | 0xc2 => some (if bit n.opt.toNat 0 then .mnrunP n else .mnrun n)
  | 0xc3 => some (.mnzero n)
  | 0xc4 => some (.mnout n)
  | 0xc5 => some (.mnprog n)
  | 0xc6 => if n = mnditFields true then some .mnditOn else if n = mnditFields false then some .mnditOff else none
  | 0xc7 => some (.mnaor n)
  | 0xc8 => some (.mnscl n)
  | 0xc9 => some (.mnsave n)
  | 0xca => some (.mnrest n)
  | 0xcb => some (.mnchk n)
  | 0xcc => some (.mnstat n)
  | 0xcd => some (.mnswap n)
  | 0xd0 => some (.hadd n)
  | 0xd1 => some (.hfadd n)
  | 0xd2 => some (.hmin n)
  | 0xd3 => some (.hmax n)
  | 0xd4 => some (.hfmin n)
  | 0xd5 => some (.hfmax n)
  | 0xd6 => some (.hand n)
  | 0xd7 => some (.hor n)
  | 0xd8 => some (.hxor n)
  | 0xd9 => some (.hxchg n)
  | 0xda => some (.hcas n)
  | 0xdb => some (.hinc n)
  | 0xdc => some (.hred n)
  | 0xdd => some (.hseq n)
  | 0xe0 => some (.wlcfg n)
  | 0xe1 => some (.wlpush n)
  | 0xe2 => some (.wlpushb n)
  | 0xe3 => some (.wlpop n)
  | 0xe4 => some (if bit n.opt.toNat 3 then .wldoneSeed n else .wldone n)
  | 0xe5 => some (.wlmin n)
  | 0xe6 => some (.wlstat n)
  | 0xe7 => some (.wldrain n)
  | 0xe8 => some (.lput n)
  | 0xe9 => some (.lputn n)
  | 0xea => some (.lget n)
  | 0xeb => some (.latom n)
  | 0xec => some (.lflush n)
  | 0xed => some (if bit n.imm.toNat 3 then .lchanClose n else .lchanOpen n)
  | 0xee => some (.lstat n)
  | 0xef => some (if bit n.imm.toNat 10 then .lcfgUnbind n else .lcfgBind n)
  | 0xf8 => some (.trap n)
  | 0xf9 => some (.trapif n)
  | 0xfa => some (.flags n)
  | 0xfb => some (.flagc n)
  | 0xfc => some (.poison n)
  | 0xfd => some (if n.opt == 1#7 then .pchkTrap n else if n.opt == 2#7 then .pchkCnt n else .pchkMask n)
  | 0xfe => some (if bit n.opt.toNat 0 then .beatOff n else .beat n)
  | 0xff => some (if bit n.opt.toNat 0 then .tapmOff n else .tapmOn n)
  | _ => none

/-- The opcode of an instruction carried in a Node Instruction Word, with its fields (R80). -/
def Instr.opcode : Instr → Option (Nat × Niw)
  | .nop n => some (0x00, n)
  | .add n => some (0x01, n)
  | .sub n => some (0x02, n)
  | .addc n => some (0x03, n)
  | .subb n => some (0x04, n)
  | .mul n => some (0x05, n)
  | .mulh n => some (0x06, n)
  | .mad n => some (0x07, n)
  | .sad n => some (0x08, n)
  | .dot4 n => some (0x09, n)
  | .min n => some (0x0a, n)
  | .max n => some (0x0b, n)
  | .abs n => some (0x0c, n)
  | .neg n => some (0x0d, n)
  | .clamp n => some (0x0e, n)
  | .and n => some (0x10, n)
  | .or n => some (0x11, n)
  | .xor n => some (0x12, n)
  | .andn n => some (0x13, n)
  | .not n => some (0x14, n)
  | .shl n => some (0x15, n)
  | .shr n => some (0x16, n)
  | .sar n => some (0x17, n)
  | .rot n => some (0x18, n)
  | .funnel n => some (0x19, n)
  | .clz n => some (0x1a, n)
  | .ctz n => some (0x1b, n)
  | .popc n => some (0x1c, n)
  | .brev n => some (0x1d, n)
  | .bfe n => some (0x20, n)
  | .bfi n => some (0x21, n)
  | .perm n => some (0x22, n)
  | .pack n => some (0x23, n)
  | .unpk n => some (0x24, n)
  | .sel n => some (0x25, n)
  | .cmp n => some (0x26, n)
  | .cmpm n => some (0x27, n)
  | .mov n => some (0x28, n)
  | .movi n => some (0x29, n)
  | .moviHi n => some (0x29, n)
  | .lea n => some (0x2a, n)
  | .lea2 n => some (0x2b, n)
  | .shfl n => some (0x2c, n)
  | .bcast n => some (0x2d, n)
  | .lred n => some (0x30, n)
  | .lscan n => some (0x31, n)
  | .lpack n => some (0x32, n)
  | .cnt n => some (0x3b, n)
  | .mand n => some (0x33, n)
  | .mor n => some (0x34, n)
  | .mxor n => some (0x35, n)
  | .mnot n => some (0x36, n)
  | .mpop n => some (0x37, n)
  | .mfirst n => some (0x38, n)
  | .mset n => some (0x39, n)
  | .tagrd n => some (0x3a, n)
  | .hash n => some (0x3c, n)
  | .fadd n => some (0x40, n)
  | .fsub n => some (0x41, n)
  | .fmul n => some (0x42, n)
  | .ffma n => some (0x43, n)
  | .ffms n => some (0x44, n)
  | .fnma n => some (0x45, n)
  | .fnms n => some (0x46, n)
  | .fmin n => some (0x47, n)
  | .fmax n => some (0x48, n)
  | .fminn n => some (0x49, n)
  | .fmaxn n => some (0x4a, n)
  | .fmaxa n => some (0x5a, n)
  | .fmed3 n => some (0x58, n)
  | .fabs n => some (0x4b, n)
  | .fneg n => some (0x4c, n)
  | .fcopysign n => some (0x55, n)
  | .fcmp n => some (0x4d, n)
  | .fcmpm n => some (0x4e, n)
  | .fclass n => some (0x4f, n)
  | .frint n => some (0x50, n)
  | .ffrac n => some (0x51, n)
  | .fscale n => some (0x52, n)
  | .fgetexp n => some (0x53, n)
  | .fgetman n => some (0x54, n)
  | .fdot2 n => some (0x56, n)
  | .flerp n => some (0x57, n)
  | .fcvts n => some (0x59, n)
  | .fred n => some (0x5b, n)
  | .cvt n => some (0x60, n)
  | .cvti n => some (0x61, n)
  | .cvtf n => some (0x62, n)
  | .qnt n => some (0x63, n)
  | .dqnt n => some (0x64, n)
  | .amaxb n => some (0x65, n)
  | .rng n => some (0x66, n)
  | .exp2 n => some (0x68, n)
  | .log2 n => some (0x69, n)
  | .exp n => some (0x6a, n)
  | .ln n => some (0x6b, n)
  | .rcp n => some (0x6c, n)
  | .rsq n => some (0x6d, n)
  | .sqrt n => some (0x6e, n)
  | .div n => some (0x6f, n)
  | .sinpi n => some (0x70, n)
  | .cospi n => some (0x71, n)
  | .tanh n => some (0x72, n)
  | .sigm n => some (0x73, n)
  | .atanpi n => some (0x74, n)
  | .erf n => some (0x75, n)
  | .dfma n => some (0x76, n)
  | .dadd n => some (0x77, n)
  | .dmul n => some (0x78, n)
  | .ddiv n => some (0x79, n)
  | .dsqrt n => some (0x7a, n)
  | .idiv n => some (0x7b, n)
  | .irem n => some (0x7c, n)
  | .alloc n => some (0x80, n)
  | .free n => some (0x81, n)
  | .emit n => some (0x82, n)
  | .emitt n => some (0x83, n)
  | .iter n => some (0x84, n)
  | .split n => some (0x85, n)
  | .merge n => some (0x86, n)
  | .steer n => some (0x87, n)
  | .gate n => some (0x88, n)
  | .eos n => some (0x89, n)
  | .joinp n => some (0x8a, n)
  | .leavep n => some (0x8b, n)
  | .barr n => some (0x8c, n)
  | .depth n => some (0x8d, n)
  | .ld n => some (0x90, n)
  | .ldg n => some (0x91, n)
  | .ldl n => some (0x92, n)
  | .lda n => some (0x93, n)
  | .ldb n => some (0x94, n)
  | .lds n => some (0x95, n)
  | .ldsg n => some (0x96, n)
  | .st n => some (0x98, n)
  | .stg n => some (0x99, n)
  | .stm n => some (0x9a, n)
  | .str n => some (0x9b, n)
  | .sts n => some (0x9c, n)
  | .stss n => some (0x9d, n)
  | .stz n => some (0x9e, n)
  | .sopen n => some (0xa0, n)
  | .sseek n => some (0xa1, n)
  | .sclose n => some (0xa2, n)
  | .sbar n => some (0xa3, n)
  | .sflush n => some (0xa4, n)
  | .fence n => some (0xa5, n)
  | .probe n => some (0xa6, n)
  | .pfetch n => some (0xa7, n)
  | .scnt n => some (0xa8, n)
  | .xwb n => some (0xa9, n)
  | .xinv n => some (0xaa, n)
  | .smap n => some (0xab, n)
  | .cpy n => some (0xb0, n)
  | .cpy2 n => some (0xb1, n)
  | .cpy3 n => some (0xb2, n)
  | .cpym n => some (0xb3, n)
  | .cpyz n => some (0xb4, n)
  | .cpyx n => some (0xb5, n)
  | .cpya n => some (0xb6, n)
  | .cpyb n => some (0xb7, n)
  | .cpyf n => some (0xb8, n)
  | .cpyc n => some (0xb9, n)
  | .cpyq n => some (0xba, n)
  | .fpdecl n => some (0xbb, n)
  | .mncfg n => some (0xc0, n)
  | .mncfgCheck n => some (0xc0, n)
  | .mnldb n => some (0xc1, n)
  | .mnrun n => some (0xc2, n)
  | .mnrunP n => some (0xc2, n)
  | .mnzero n => some (0xc3, n)
  | .mnout n => some (0xc4, n)
  | .mnprog n => some (0xc5, n)
  | .mnditOn => some (0xc6, mnditFields true)
  | .mnditOff => some (0xc6, mnditFields false)
  | .mnaor n => some (0xc7, n)
  | .mnscl n => some (0xc8, n)
  | .mnsave n => some (0xc9, n)
  | .mnrest n => some (0xca, n)
  | .mnchk n => some (0xcb, n)
  | .mnstat n => some (0xcc, n)
  | .mnswap n => some (0xcd, n)
  | .hadd n => some (0xd0, n)
  | .hfadd n => some (0xd1, n)
  | .hmin n => some (0xd2, n)
  | .hmax n => some (0xd3, n)
  | .hfmin n => some (0xd4, n)
  | .hfmax n => some (0xd5, n)
  | .hand n => some (0xd6, n)
  | .hor n => some (0xd7, n)
  | .hxor n => some (0xd8, n)
  | .hxchg n => some (0xd9, n)
  | .hcas n => some (0xda, n)
  | .hinc n => some (0xdb, n)
  | .hred n => some (0xdc, n)
  | .hseq n => some (0xdd, n)
  | .wlcfg n => some (0xe0, n)
  | .wlpush n => some (0xe1, n)
  | .wlpushb n => some (0xe2, n)
  | .wlpop n => some (0xe3, n)
  | .wldone n => some (0xe4, n)
  | .wldoneSeed n => some (0xe4, n)
  | .wlmin n => some (0xe5, n)
  | .wlstat n => some (0xe6, n)
  | .wldrain n => some (0xe7, n)
  | .lput n => some (0xe8, n)
  | .lputn n => some (0xe9, n)
  | .lget n => some (0xea, n)
  | .latom n => some (0xeb, n)
  | .lflush n => some (0xec, n)
  | .lchanOpen n => some (0xed, n)
  | .lchanClose n => some (0xed, n)
  | .lstat n => some (0xee, n)
  | .lcfgBind n => some (0xef, n)
  | .lcfgUnbind n => some (0xef, n)
  | .trap n => some (0xf8, n)
  | .trapif n => some (0xf9, n)
  | .flags n => some (0xfa, n)
  | .flagc n => some (0xfb, n)
  | .poison n => some (0xfc, n)
  | .pchkMask n => some (0xfd, n)
  | .pchkTrap n => some (0xfd, n)
  | .pchkCnt n => some (0xfd, n)
  | .beat n => some (0xfe, n)
  | .beatOff n => some (0xfe, n)
  | .tapmOn n => some (0xff, n)
  | .tapmOff n => some (0xff, n)
  | _ => none

/-- The widths of the fields of a Node Instruction Word, lowest first (R56). -/
def niwLayout : List Nat := [16, 7, 1, 1, 3, 1, 3, 5, 5, 5, 5, 4, 8]

/-- A Node Instruction Word read (R56 to R65). -/
def decodeNiw (w : Word) : Except Reject Instr :=
  match unpack niwLayout w.toNat with
  | [imm, opt, fz, sat, rm, pn, pm, c, b, a, d, ty, opc] =>
    match Dst.ofCode d, Pred.ofCode pm pn, Rnd.ofCode rm with
    | some d, some p, some rm =>
      match ofOpcode opc
          { ty := Ty.ofCode ty, d := d, a := Sel.ofCode a, b := Sel.ofCode b, c := Sel.ofCode c, pred := p,
            rm := rm, sat := sat == 1, fz := fz == 1, opt := BitVec.ofNat 7 opt, imm := BitVec.ofNat 16 imm } with
      | some i => .ok i
      | none => if opc = 0xc6 then .error .fixedField else .error .opcode
    | none, _, _ => .error .destination
    | _, none, _ => .error .predicate
    | _, _, none => .error .rounding
  | _ => .error .length

/-- The word of an opcode and its fields (R56). -/
def encodeNiw (opc : Nat) (n : Niw) : Word :=
  BitVec.ofNat 64 (pack [(16, n.imm.toNat), (7, n.opt.toNat), (1, b2n n.fz), (1, b2n n.sat), (3, n.rm.code),
    (1, n.pred.code.2), (3, n.pred.code.1), (5, n.c.code), (5, n.b.code), (5, n.a.code), (5, n.d.code),
    (4, n.ty.code), (8, opc)])

/-- The widths of the fields of a Control Command Word, lowest first (R72). -/
def ccwLayout : List Nat := [32, 5, 3, 8, 2, 6, 8]

/-- A Control Command Word read; a field its command does not read must be 0 (R73, R105). -/
def decodeCcw (w : Word) : Except Reject Instr :=
  match unpack ccwLayout w.toNat with
  | [imm, arg, ksel, nfy, ic, blk, opc] =>
    let v := BitVec.ofNat 32 imm
    let needs (zeros : List Nat) (i : Instr) : Except Reject Instr :=
      if zeros.all (· == 0) then .ok i else .error .controlField
    match opc with
    | 0xf0 => needs [imm, arg, ksel, nfy, ic] (.seqCfg (BitVec.ofNat 6 blk))
    | 0xf1 => needs [arg, ksel, nfy] (.seqRun (BitVec.ofNat 6 blk) (BitVec.ofNat 2 ic) v)
    | 0xf2 => needs [imm, ksel, nfy, ic] (.seqSched (BitVec.ofNat 6 blk) (BitVec.ofNat 5 arg))
    | 0xf3 => needs [arg, ksel, nfy, blk]
        (.seqLoop (BitVec.ofNat 2 ic) (BitVec.ofNat 16 (imm / 65536)) (BitVec.ofNat 16 imm))
    | 0xf4 =>
      match arg with
      | 0 => needs [ksel, nfy, ic, blk] (.waitsBlk v)
      | 1 => needs [ksel, nfy, ic, blk] (.waitsIc v)
      | 2 => needs [imm, ksel, nfy, ic, blk] .waitsQuiet
      | 3 => needs [ksel, nfy, ic, blk] (.waitsTok v)
      | _ => .error .waitsCode
    | 0xf5 => needs [arg, ksel, ic, blk] (.seqNotify (BitVec.ofNat 8 nfy) v)
    | 0xf6 => needs [arg, nfy, ic] (.seqSlot (BitVec.ofNat 6 blk) (BitVec.ofNat 3 ksel) v)
    | 0xf7 => needs [imm, arg, ksel, nfy, ic, blk] .seqHalt
    | _ => .error .controlOpcode
  | _ => .error .length

/-- The word of a control command from its fields (R72). -/
def ccw (opc blk ic nfy ksel arg imm : Nat) : Word :=
  BitVec.ofNat 64 (pack [(32, imm), (5, arg), (3, ksel), (8, nfy), (2, ic), (6, blk), (8, opc)])

/-- The word of a control command (R73, R105). -/
def encodeCcw : Instr → Option Word
  | .seqCfg blk => some (ccw 0xf0 blk.toNat 0 0 0 0 0)
  | .seqRun blk ic v => some (ccw 0xf1 blk.toNat ic.toNat 0 0 0 v.toNat)
  | .seqSched blk m1 => some (ccw 0xf2 blk.toNat 0 0 0 m1.toNat 0)
  | .seqLoop ic trips target => some (ccw 0xf3 0 ic.toNat 0 0 0 (trips.toNat * 65536 + target.toNat))
  | .waitsBlk v => some (ccw 0xf4 0 0 0 0 0 v.toNat)
  | .waitsIc v => some (ccw 0xf4 0 0 0 0 1 v.toNat)
  | .waitsQuiet => some (ccw 0xf4 0 0 0 0 2 0)
  | .waitsTok v => some (ccw 0xf4 0 0 0 0 3 v.toNat)
  | .seqNotify nfy v => some (ccw 0xf5 0 0 nfy.toNat 0 0 v.toNat)
  | .seqSlot blk k v => some (ccw 0xf6 blk.toNat 0 0 k.toNat 0 v.toNat)
  | .seqHalt => some (ccw 0xf7 0 0 0 0 0 0)
  | _ => none

/-- The strobe of a kind (R34). -/
def ofSk (sk : Nat) : Option Instr :=
  match sk with
  | 0 => some .skStart | 1 => some .skFinish | 2 => some .skNotice | 3 => some .skCut | 4 => some .skDrained
  | 5 => some .skReopen | 6 => some .skClose | 7 => some .skOpen | 8 => some .skCount | 9 => some .skPark
  | 10 => some .skReadmit | 11 => some .skRetire
  | _ => none

/-- The kind of a strobe (R34). -/
def Instr.sk : Instr → Option Nat
  | .skStart => some 0 | .skFinish => some 1 | .skNotice => some 2 | .skCut => some 3 | .skDrained => some 4
  | .skReopen => some 5 | .skClose => some 6 | .skOpen => some 7 | .skCount => some 8 | .skPark => some 9
  | .skReadmit => some 10 | .skRetire => some 11
  | _ => none

/-- Strobe kind `sk` leaves these bits of ARG 0, as (lowest bit, length) (R34). -/
def strobeZeros : Nat → List (Nat × Nat)
  | 0 => [(0, 23)]
  | 1 => [(0, 36)]
  | 2 => []
  | 3 => [(0, 48)]
  | 4 | 5 | 6 | 7 => [(0, 42)]
  | 8 => [(34, 8)]
  | 9 | 10 => [(0, 38)]
  | _ => [(32, 6)]

/-- The bits of ARG that the kind does not use are 0 (R34). -/
def strobeArgOk (sk : Nat) (a : BitVec 48) : Bool :=
  (strobeZeros sk).all fun z => bits a.toNat z.1 z.2 == 0

/-- A strobe message read (R34). -/
def decodeStrobe (w : Word) : Except Reject Fetched :=
  match unpack [48, 4, 12] w.toNat with
  | [a, sk, top] =>
    match ofSk sk with
    | none => .error .strobeKind
    | some i =>
      if top = 0 ∧ strobeArgOk sk (BitVec.ofNat 48 a) then .ok { instr := i, arg := .strobe (BitVec.ofNat 48 a) }
      else .error .strobeField
  | _ => .error .length

/-- The message of a strobe (R34). -/
def encodeStrobe (sk : Nat) (a : BitVec 48) : Word := BitVec.ofNat 64 (pack [(48, a.toNat), (4, sk), (12, 0)])

/-- The command of a CMD code (R123). -/
def ofCmd (cmd : Nat) (q : Cmd) : Option Instr :=
  match cmd with
  | 1 => some (.cmdLaunch q)
  | 2 => some (.cmdWait q)
  | 3 => some (.cmdSignal q)
  | 4 => some (.cmdBarrier q)
  | 5 => some (.cmdSnapshot q)
  | 6 => some (.cmdRestore q)
  | 7 => some (.cmdResume q)
  | 8 => some (.cmdDiscard q)
  | 9 => some (.cmdAbort q)
  | _ => none

/-- The CMD code of a command (R123). -/
def Instr.cmd : Instr → Option (Nat × Cmd)
  | .cmdLaunch q => some (1, q)
  | .cmdWait q => some (2, q)
  | .cmdSignal q => some (3, q)
  | .cmdBarrier q => some (4, q)
  | .cmdSnapshot q => some (5, q)
  | .cmdRestore q => some (6, q)
  | .cmdResume q => some (7, q)
  | .cmdDiscard q => some (8, q)
  | .cmdAbort q => some (9, q)
  | _ => none

/-- The widths of the fields of a queue entry's word 0, lowest first (R122). -/
def cmdLayout : List Nat := [32, 8, 8, 7, 1, 8]

/-- A queue entry read (R122, R123). -/
def decodeCmd (ws : List Word) : Except Reject Instr :=
  match ws with
  | [w0, w1, w2, w3, w4, w5, w6, w7] =>
    match unpack cmdLayout w0.toNat with
    | [lid, r0, cnfy, r1, cen, cmd] =>
      if r0 = 0 ∧ r1 = 0 then
        match ofCmd cmd { cen := cen == 1, cnfy := BitVec.ofNat 8 cnfy, lid := BitVec.ofNat 32 lid, cval := w1,
                          w2 := w2, w3 := w3, w4 := w4, w5 := w5, w6 := w6, w7 := w7 } with
        | some i => .ok i
        | none => .error .command
      else .error .commandField
    | _ => .error .length
  | _ => .error .length

/-- The words of a queue entry (R122). -/
def encodeCmd (cmd : Nat) (q : Cmd) : List Word :=
  [BitVec.ofNat 64 (pack [(32, q.lid.toNat), (8, 0), (8, q.cnfy.toNat), (7, 0), (1, b2n q.cen), (8, cmd)]),
   q.cval, q.w2, q.w3, q.w4, q.w5, q.w6, q.w7]

/-- The packet of a PKIND and TRIM (R411, R414). -/
def ofPkind (kind : Nat) (trim : Bool) : Option Instr :=
  if trim then (if kind = 0 ∨ kind = 1 ∨ kind = 3 then some .pkTrimmedHeader else none)
  else
    match kind with
    | 0 => some .pkPut | 1 => some .pkPutn | 2 => some .pkGetq | 3 => some .pkGetr
    | 4 => some .pkAtomq | 5 => some .pkAtomr | 6 => some .pkAck | 7 => some .pkNack
    | 8 => some .pkRreq | 9 => some .pkLinkClose | 10 => some .pkCloseack
    | _ => none

/-- PKIND of a whole packet (R411); a trimmed header has its packet's. -/
def Instr.pkind : Instr → Option (Option Nat)
  | .pkTrimmedHeader => some none
  | .pkPut => some (some 0) | .pkPutn => some (some 1) | .pkGetq => some (some 2) | .pkGetr => some (some 3)
  | .pkAtomq => some (some 4) | .pkAtomr => some (some 5) | .pkAck => some (some 6) | .pkNack => some (some 7)
  | .pkRreq => some (some 8) | .pkLinkClose => some (some 9) | .pkCloseack => some (some 10)
  | _ => none

/-- A packet header from its fields (R410). -/
def pktOf (kind trim trims tc ddev sdev sport chan ord msn dsn pidx npk win rkey off tsite len aop aty xtag : Nat) : Pkt :=
  { kind := BitVec.ofNat 4 kind, trim := trim == 1,
    trims := BitVec.ofNat 3 trims, tc := BitVec.ofNat 2 tc, ddev := BitVec.ofNat 18 ddev,
    sdev := BitVec.ofNat 18 sdev, sport := BitVec.ofNat 6 sport, chan := BitVec.ofNat 6 chan,
    ord := ord == 1, msn := BitVec.ofNat 24 msn, dsn := BitVec.ofNat 24 dsn, pidx := BitVec.ofNat 7 pidx,
    npkm1 := BitVec.ofNat 7 npk, win := BitVec.ofNat 8 win, rkey := BitVec.ofNat 16 rkey,
    off := BitVec.ofNat 40 off, tsite := BitVec.ofNat 24 tsite, len := BitVec.ofNat 13 len,
    aop := BitVec.ofNat 4 aop, aty := BitVec.ofNat 4 aty, xtag := BitVec.ofNat 16 xtag }

/-- A packet header read (R410); a receiver ignores its reserved bits (R4). -/
def decodePkt (ws : List Word) : Except Reject Fetched :=
  match ws with
  | [w0, w1, w2, w3] =>
    match unpack [5, 1, 6, 6, 18, 18, 2, 3, 1, 4] w0.toNat, unpack [2, 7, 7, 24, 24] w1.toNat,
      unpack [40, 16, 8] w2.toNat, unpack [16, 3, 4, 4, 13, 24] w3.toNat with
    | [_, ord, chan, sport, sdev, ddev, tc, trims, trim, kind], [_, npk, pidx, dsn, msn], [off, rkey, win],
      [xtag, _, aty, aop, len, tsite] =>
      match ofPkind kind (trim == 1) with
      | none => .error .packetKind
      | some i =>
        .ok { instr := i, arg := .pkt (pktOf kind trim trims tc ddev sdev sport chan ord msn dsn pidx npk win rkey off tsite len aop aty xtag) }
    | _, _, _, _ => .error .length
  | _ => .error .length

/-- The words of a packet header (R410). -/
def encodePkt (h : Pkt) : List Word :=
  [BitVec.ofNat 64 (pack [(5, 0), (1, b2n h.ord), (6, h.chan.toNat), (6, h.sport.toNat), (18, h.sdev.toNat),
     (18, h.ddev.toNat), (2, h.tc.toNat), (3, h.trims.toNat), (1, b2n h.trim), (4, h.kind.toNat)]),
   BitVec.ofNat 64 (pack [(2, 0), (7, h.npkm1.toNat), (7, h.pidx.toNat), (24, h.dsn.toNat), (24, h.msn.toNat)]),
   BitVec.ofNat 64 (pack [(40, h.off.toNat), (16, h.rkey.toNat), (8, h.win.toNat)]),
   BitVec.ofNat 64 (pack [(16, h.xtag.toNat), (3, 0), (4, h.aty.toNat), (4, h.aop.toNat), (13, h.len.toNat),
     (24, h.tsite.toNat)])]

/-- The event of a code. The codes are the model's own (DESIGN CHOICE, log 2): the manual gives events no word. -/
def ofEvent (code : Nat) : Option Instr :=
  match code with
  | 0 => some .evDepthApply
  | 1 => some .evSchedDecision
  | 2 => some .evSlotPatch
  | 3 => some .evConfigPrefetch
  | 4 => some .evSeqTokenAccept
  | 5 => some .evNodeDrained
  | 6 => some .evTokenAccept
  | 7 => some .evMarkerArrival
  | 8 => some .evMarkerPass
  | 9 => some .evScaleTokenArrival
  | 10 => some .evVaultReturn
  | 11 => some .evSpillReturn
  | 12 => some .evOverflowDrain
  | 13 => some .evFiringSlotEntry
  | 14 => some .evTokenDepart
  | 15 => some .evTapRecordWrite
  | 16 => some .evCounterSourceRun
  | 17 => some .evMintFrameRequest
  | 18 => some .evFrameReturn
  | 19 => some .evAFifoDiscard
  | 20 => some .evLoadReply
  | 21 => some .evWalkComplete
  | 22 => some .evWbIdleDrain
  | 23 => some .evHsWriteEvent
  | 24 => some .evHsReadEvent
  | 25 => some .evHsAtomicEvent
  | 26 => some .evLineFill
  | 27 => some .evOperationPerformed
  | 28 => some .evCpInstanceStart
  | 29 => some .evCpPiece
  | 30 => some .evAFifoAppend
  | 31 => some .evRowFiringAdmit
  | 32 => some .evRowFiringRetire
  | 33 => some .evBBufferFree
  | 34 => some .evDieWave
  | 35 => some .evDieWaveDeliver
  | 36 => some .evPackageWave
  | 37 => some .evPackageWaveDeliver
  | 38 => some .evTransferAccept
  | 39 => some .evTransferAck
  | 40 => some .evRingRefill
  | 41 => some .evStealRequest
  | 42 => some .evStealHandover
  | 43 => some .evFlitReceive
  | 44 => some .evLinkReplayRequest
  | 45 => some .evPacketTrim
  | 46 => some .evPutnArrivalEnter
  | 47 => some .evRreqSend
  | 48 => some .evMessageLifetimeExpiry
  | 49 => some .evArrivalEmit
  | 50 => some .evFiringImageWrite
  | 51 => some .evWithdrawnTokenMove
  | 52 => some .evFaultRingWrite
  | 53 => some .evWatchdogExpiry
  | 54 => some .evBeatExpiry
  | 55 => some .evCutComplete
  | 56 => some .evBudgetPeriod
  | 57 => some .evBudgetExhausted
  | 58 => some .evQueueWindowWrite
  | 59 => some .evRegionGrant
  | 60 => some .evCompletionWrite
  | 61 => some .evNfyArm
  | 62 => some .evHsSplitWrite
  | 63 => some .evPartitionReset
  | 64 => some .evPartitionEnable
  | 65 => some .evPartInv
  | 66 => some .evFwLoad
  | 67 => some .evFwRaise
  | 68 => some .evFwAttest
  | 69 => some .evEtBufWrite
  | 70 => some .evEtGrantWrite
  | 71 => some .evRegisterWrite
  | 72 => some .evHostMemAccess
  | 73 => some .evPowerOnReset
  | 74 => some .evInitComplete
  | 75 => some .evThrottleStep
  | 76 => some .evThermalTrip
  | 77 => some .evPatrolScrub
  | 78 => some .evHoldComplete
  | 79 => some .evSliceElapsed
  | 80 => some .evPortUpChange
  | 81 => some .evPowerLoss
  | _ => none

/-- The code of an event. -/
def Instr.event : Instr → Option Nat
  | .evDepthApply => some 0
  | .evSchedDecision => some 1
  | .evSlotPatch => some 2
  | .evConfigPrefetch => some 3
  | .evSeqTokenAccept => some 4
  | .evNodeDrained => some 5
  | .evTokenAccept => some 6
  | .evMarkerArrival => some 7
  | .evMarkerPass => some 8
  | .evScaleTokenArrival => some 9
  | .evVaultReturn => some 10
  | .evSpillReturn => some 11
  | .evOverflowDrain => some 12
  | .evFiringSlotEntry => some 13
  | .evTokenDepart => some 14
  | .evTapRecordWrite => some 15
  | .evCounterSourceRun => some 16
  | .evMintFrameRequest => some 17
  | .evFrameReturn => some 18
  | .evAFifoDiscard => some 19
  | .evLoadReply => some 20
  | .evWalkComplete => some 21
  | .evWbIdleDrain => some 22
  | .evHsWriteEvent => some 23
  | .evHsReadEvent => some 24
  | .evHsAtomicEvent => some 25
  | .evLineFill => some 26
  | .evOperationPerformed => some 27
  | .evCpInstanceStart => some 28
  | .evCpPiece => some 29
  | .evAFifoAppend => some 30
  | .evRowFiringAdmit => some 31
  | .evRowFiringRetire => some 32
  | .evBBufferFree => some 33
  | .evDieWave => some 34
  | .evDieWaveDeliver => some 35
  | .evPackageWave => some 36
  | .evPackageWaveDeliver => some 37
  | .evTransferAccept => some 38
  | .evTransferAck => some 39
  | .evRingRefill => some 40
  | .evStealRequest => some 41
  | .evStealHandover => some 42
  | .evFlitReceive => some 43
  | .evLinkReplayRequest => some 44
  | .evPacketTrim => some 45
  | .evPutnArrivalEnter => some 46
  | .evRreqSend => some 47
  | .evMessageLifetimeExpiry => some 48
  | .evArrivalEmit => some 49
  | .evFiringImageWrite => some 50
  | .evWithdrawnTokenMove => some 51
  | .evFaultRingWrite => some 52
  | .evWatchdogExpiry => some 53
  | .evBeatExpiry => some 54
  | .evCutComplete => some 55
  | .evBudgetPeriod => some 56
  | .evBudgetExhausted => some 57
  | .evQueueWindowWrite => some 58
  | .evRegionGrant => some 59
  | .evCompletionWrite => some 60
  | .evNfyArm => some 61
  | .evHsSplitWrite => some 62
  | .evPartitionReset => some 63
  | .evPartitionEnable => some 64
  | .evPartInv => some 65
  | .evFwLoad => some 66
  | .evFwRaise => some 67
  | .evFwAttest => some 68
  | .evEtBufWrite => some 69
  | .evEtGrantWrite => some 70
  | .evRegisterWrite => some 71
  | .evHostMemAccess => some 72
  | .evPowerOnReset => some 73
  | .evInitComplete => some 74
  | .evThrottleStep => some 75
  | .evThermalTrip => some 76
  | .evPatrolScrub => some 77
  | .evHoldComplete => some 78
  | .evSliceElapsed => some 79
  | .evPortUpChange => some 80
  | .evPowerLoss => some 81
  | _ => none

/-- An event's operands from its words. -/
def evOf (die x y : Nat) (w1 w2 : Word) (rest : List Word) : Ev :=
  { pos := { die := BitVec.ofNat 4 die, x := BitVec.ofNat 6 x, y := BitVec.ofNat 5 y },
    i := BitVec.ofNat 32 w1.toNat, j := BitVec.ofNat 32 (w1.toNat / 2 ^ 32), v := w2,
    data := rest.map fun w => BitVec.ofNat 8 w.toNat }

/-- Event words read: code and coordinate, the two numbers, the value, then one byte a word. -/
def decodeEvent (ws : List Word) : Except Reject Fetched :=
  match ws with
  | w0 :: w1 :: w2 :: rest =>
    match unpack [5, 6, 4, 16] w0.toNat with
    | [y, x, die, code] =>
      match ofEvent code with
      | none => .error .event
      | some i =>
        .ok { instr := i, arg := .ev (evOf die x y w1 w2 rest) }
    | _ => .error .length
  | _ => .error .length

/-- The words of an event. -/
def encodeEvent (code : Nat) (e : Ev) : List Word :=
  BitVec.ofNat 64 (pack [(5, e.pos.y.toNat), (6, e.pos.x.toNat), (4, e.pos.die.toNat), (16, code)]) ::
  BitVec.ofNat 64 (pack [(32, e.i.toNat), (32, e.j.toNat)]) ::
  e.v :: e.data.map fun b => BitVec.ofNat 64 b.toNat

/-- An instruction that carries nothing beside its own fields. -/
def bare (r : Except Reject Instr) : Except Reject Fetched :=
  match r with
  | .ok i => .ok { instr := i }
  | .error e => .error e

/-- The words that a unit fetches, read: total on any words, and a rejection has a name. -/
def decode (r : Raw) : Except Reject Fetched :=
  match r.src, r.words with
  | .node, [w] => bare (decodeNiw w)
  | .control, [w] => bare (decodeCcw w)
  | .strobe, [w] => decodeStrobe w
  | .queue, ws => bare (decodeCmd ws)
  | .packet, ws => decodePkt ws
  | .event, ws => decodeEvent ws
  | _, _ => .error .length

/-- The words of an instruction and what it carries, in the format of the place they are fetched from. -/
def encode (f : Fetched) : Raw :=
  match f.instr.opcode, encodeCcw f.instr, f.instr.cmd, f.instr.sk, f.instr.event, f.arg with
  | some (o, n), _, _, _, _, _ => { src := .node, words := [encodeNiw o n] }
  | _, some w, _, _, _, _ => { src := .control, words := [w] }
  | _, _, some (o, q), _, _, _ => { src := .queue, words := encodeCmd o q }
  | _, _, _, some k, _, .strobe a => { src := .strobe, words := [encodeStrobe k a] }
  | _, _, _, _, some c, .ev e => { src := .event, words := encodeEvent c e }
  | _, _, _, _, _, .pkt h => { src := .packet, words := encodePkt h }
  | _, _, _, _, _, _ => { src := .event, words := [] }

/-- What an instruction carries has the form its kind asks: nothing for an instruction word, an ARG whose unused bits
are 0 for a strobe, a header of its own kind for a packet, operands for an event. -/
def Fetched.argOk (f : Fetched) : Bool :=
  match f.instr.sk, f.instr.pkind, f.instr.event, f.arg with
  | some k, _, _, .strobe a => strobeArgOk k a
  | _, some none, _, .pkt h => h.trim && decide (h.kind.toNat = 0 ∨ h.kind.toNat = 1 ∨ h.kind.toNat = 3)
  | _, some (some k), _, .pkt h => !h.trim && decide (h.kind.toNat = k)
  | _, _, some _, .ev _ => true
  | none, none, none, .none => true
  | _, _, _, _ => false

/-- A well-formed instruction with what it carries. -/
def Fetched.wf (f : Fetched) : Bool := f.instr.wf && f.argOk

/-- The 64-bit words of a number, lowest first. -/
def wordsOf : Nat → Nat → List Word
  | 0, _ => []
  | k + 1, n => BitVec.ofNat 64 n :: wordsOf k (n / 2 ^ 64)

/-- The words that a table word stands for. The opcode table gives its rows no bits, so the model numbers a row's bits
itself (DESIGN CHOICE, log 3): the low byte says where the words stand (0 a firing sequence or a control stream, by OPC;
1 a strobe; 2 a queue entry; 3 a packet; 4 an event) and the words follow from bit 8 on. -/
def rawOfTableWord (w : Nat) : Raw :=
  let b := w / 256
  match w % 256 with
  | 0 => { src := if bits b 59 5 = 0x1e then .control else .node, words := wordsOf 1 b }
  | 1 => { src := .strobe, words := wordsOf 1 b }
  | 2 => { src := .queue, words := wordsOf 8 b }
  | 3 => { src := .packet, words := wordsOf 4 b }
  | 4 => { src := .event, words := wordsOf 3 b }
  | _ => { src := .event, words := [] }

/-- The instruction that the decoder reads from a table word. -/
def decodeTableWord (_nbits w : Nat) : Option Instr :=
  match decode (rawOfTableWord w) with
  | .ok f => some f.instr
  | .error _ => none

end Sys2Proof
end

