-- ==== Sys2Proof/Machine/State.lean ====
section
/-! DEFINITION. The state: every piece of state that the manual gives the machine, as plain data, and `State.reset`. -/

namespace Sys2Proof.Machine

/-- Why the machine stops. -/
inductive Fault where
  /-- A host CXL.mem access to a system physical address that nothing backs (R486): HOST_MEM_ACCESS raises it. Safe. -/
  | hostUnbacked
deriving DecidableEq, Repr

/-- Why an instruction has no meaning. -/
inductive Refusal where
  /-- An arm of `exec` that the model has not reached. Safe. -/
  | notModelled (mnemonic : String)
deriving DecidableEq, Repr

/-! ## Tokens -/

/-- KIND of a token (R37). -/
inductive TokKind where
  | value | scale | marker | receipt
deriving DecidableEq, Repr

/-- A token (R37, R38). A lane holds its two slots as one word; `wide` says that they are two (R28). `scales` are the
lane scales that QNT's scale token attached to a value token, by lane; the empty list is 127 in every lane (R256). -/
structure Token where
  kind : TokKind
  dst : Coord
  ctx : Nat
  port : Nat
  frame : Nat
  iter : Nat
  len : Nat
  aux : Nat
  mask : Nat
  poison : Nat
  wide : Bool
  lanes : List Word
  scales : List Nat := []
deriving DecidableEq, Repr

/-- Where the payload of a token lies (R131, R134, R141). -/
inductive Buf where
  /-- Its Chit, which pieces cut from one token may share. -/
  | chit
  /-- A shared buffer, by the serial number that it took from the cluster's arrival counter when it was taken. -/
  | shared (tag : Nat)
  | vault
  /-- A cell of the cluster's spill map: cells count through its MEs in ascending order (R213). -/
  | spill (cell : Nat)
  /-- An Escrow slot of the cluster, or 256 bytes of the partition's Escrow area, by their place: sixteen places are a cell (R443,
  R444). A withdrawn token lies there. -/
  | escrowSlot
  | cell (place : Nat)
deriving DecidableEq, Repr

/-- A token or a piece of one that waits: the arrival number of the token it was cut from, which is also the name of its Chit,
and where its payload lies (R131, R132). -/
structure Piece where
  tok : Token
  arr : Nat
  buf : Buf
deriving DecidableEq, Repr

/-- A token in the token network: the credit it spent is the Chit it will land in; a marker may travel without one
(R140). -/
structure Wire where
  tok : Token
  region : Nat
  credit : Bool
deriving DecidableEq, Repr

/-- A token in an output queue, or in an unresolved output buffer (R70, R174): the routing word it waits on, the
multicast targets it has yet to reach, and whether it entered without a credit. Its destination is resolved when it
leaves. -/
structure OutTok where
  rw : Nat
  ctx : Nat
  tok : Token
  todo : List Nat
  uncredited : Bool
  /-- A reply or a receipt on RW4 to RW7, which does not take an output-queue entry. -/
  reply : Bool
  /-- A load took its credit when it issued (R221). -/
  prepaid : Bool
  /-- The tap slots that were bound to the edge when the token entered, each with the number of its binding (R474, R479). -/
  tap : List (Nat × Nat)
deriving DecidableEq, Repr

/-! ## Faults -/

/-- What a record with PARKED = 1 holds stopped (R442). -/
inductive Hold where
  /-- A firing: in its slot, or as an image (its index is found by record number). -/
  | firing
  /-- A trap whose instruction is complete (R450). -/
  | trap
  /-- The control stream (R106). -/
  | control
  /-- A SCHED load that failed, of this block (R106, R109). -/
  | schedLoad (blk : Nat)
  /-- A Copy Engine piece: node and instance (R283). -/
  | piece (pos : Coord) (job : Nat)
  /-- A Matrix Node instruction: node and instruction (R334, R335). -/
  | matrix (pos : Coord) (op : Nat)
  /-- A WLPUSHB record read (R397). -/
  | pushb (pos : Coord)
  /-- A Till's spill ring (R376). -/
  | ring (pos : Coord)
  /-- The region, by a cut: WATCHDOG or ECC_UNCORR in control state. -/
  | region (ecc : Bool)
  /-- Nothing: a report or a refusal. -/
  | nothing
deriving DecidableEq, Repr

/-- What a fault record says (R129). -/
structure FaultInfo where
  cause : Nat
  detail : Nat
  pos : Coord
  nk : Nat
  fv : Bool := true
  ctx : Nat := 0
  frame : Nat := 0
  iter : Nat := 0
  len : Nat := 1
  opc : Nat := 0
  seqix : Nat := 0
  akind : Nat := 0
  addr : Nat := 0
  pmask : Nat := 0
  lmask : Nat := 0
  mnprog : Nat := 0
  jobid : Nat := 0
  auxv : Nat := 0
  flags : Nat := 0
  parked : Bool := true
deriving DecidableEq, Repr

/-! ## Firings -/

/-- One port's lanes as a firing sees them (R29, R133), re-indexed to the firing's lanes. `raw` is the run and mask of
the token it came from, for exact mode and for instructions that read the token's own tag; `arr` and `buf` name the
buffer that the gather returns. -/
structure PortIn where
  port : Nat
  wide : Bool
  lanes : List Word
  mask : Nat
  poison : Nat
  scales : List Nat
  arr : Nat
  buf : Buf
  /-- The token had run 1, and its lane stands in every lane (R133). -/
  single : Bool := false
  /-- The token or piece as it waited, which a firing that gives its inputs back returns (R445). -/
  tok : Option Token := none
deriving DecidableEq, Repr

/-- A translation that a firing has obtained for its own accesses (R218): virtual page, its log2 size, SPA page,
permissions and attributes, or the AUXV and DETAIL of the fault that the walk met. -/
structure Xlat where
  part : Nat
  vpn : Nat
  lg : Nat
  spa : Nat
  w : Bool
  rd : Bool
  dev : Bool
  /-- The walk failed: DETAIL and AUXV of the XLATE record. -/
  bad : Option (Nat × Nat)
deriving DecidableEq, Repr

/-- A firing: admitted, in a slot, or saved as an image (R173, R176, R445). -/
structure Firing where
  region : Nat
  ctx : Nat
  frame : Nat
  iter : Nat
  len : Nat
  tmask : Nat
  pmask : Nat
  ports : List PortIn
  /-- The words of the sequence and the constants, as they stood when the store admitted the firing (R115). -/
  words : List Word
  consts : List Word
  /-- Index in the sequence. -/
  ix : Nat := 0
  /-- T0 to T7: (register, lane) to value and poison; an unlisted lane has not been written (R177). -/
  temps : Table (Nat × Nat) (Word × Bool) := []
  /-- M0 to M3: bits and poison bits. -/
  masks : List (Nat × Nat) := [(0, 0), (0, 0), (0, 0), (0, 0)]
  /-- Progress of an instruction that emits in parts (R174, R445). -/
  part : Nat := 0
  /-- All passes of instruction `ix` but the last have issued; the last waits for output-queue room (R174, R210). -/
  early : Bool := false
  /-- The number of its entry into a slot of its node (R177). -/
  entry : Nat := 0
  /-- The operand tokens have been gathered and their Chits returned (R140). -/
  gathered : Bool := false
  /-- Tokens that the firing consumed, which leave TCNT when it ends (R147). -/
  consumed : Nat := 0
  /-- The engine instruction under way in the firing: its number at the engine, 0 for none. -/
  opid : Nat := 0
  /-- Every lane of instruction `ix` is suppressed: the answer was SKIP (R449). -/
  skip : Bool := false
  /-- SKIP answers every instruction of the firing (R450). -/
  skipAll : Bool := false
  /-- The pattern that answers instruction `ix`: PATCH (R449). -/
  patch : Option Word := none
  /-- Waits on an open record: issues nothing. -/
  held : Bool := false
  /-- It has faulted, and its record waits for room (R495, R504). -/
  due : Option (Hold × FaultInfo) := none
  /-- A suppression that has to be reported holds instruction `ix` up until its record has room (R456, R495). -/
  stalled : Bool := false
  /-- Translations obtained for instruction `ix` (R218). -/
  xl : List Xlat := []
  /-- The firing came back from an image and goes ahead of new firings (R451). -/
  readmitted : Bool := false
deriving DecidableEq, Repr

/-! ## Nodes -/

/-- Who holds a context: the region, the block, and the node record's virtual place and fold (R21, R24). -/
structure Owner where
  region : Nat
  blk : Nat
  vx : Nat
  vy : Nat
  nk : Nat
  fold : Nat
deriving DecidableEq, Repr

/-- A routing word of a context: its object form and its resident form (R68, R69); V of the resident form is 0 while
the word is unresolved. `closed` holds while the Sequencer's close is in force (R118). `sent` counts the tokens that
left on each target's edge since the context became resident (R461). -/
structure RWord where
  obj : Word
  res : Word
  closed : Bool
  sent : List Nat
deriving DecidableEq, Repr

/-- A context's progress as a counter source (R136). -/
structure Source where
  ic : Nat
  frame : Nat
  count : Nat
  next : Nat
  /-- The markers and the finish strobe remain to be sent. -/
  closing : Bool
deriving DecidableEq, Repr

/-- A beat counter ESC_BEATc (R473). -/
structure Beat where
  arm : Bool := false
  port : Nat := 0
  k : Nat := 0
  left : Nat := 0
  frame : Nat := 0
  iter : Nat := 0
  len : Nat := 0
deriving DecidableEq, Repr

/-- A Matrix Node configuration slot or a Copy Engine job card or a stream descriptor: its words, empty when the slot
has no record. -/
abbrev EngineSlot := List Word

/-- One of the eight contexts of a node (R20, R54). -/
structure Ctx where
  owner : Option Owner := none
  cw : Word := 0
  niws : List Word := []
  consts : List Word := []
  rws : List RWord := []
  streams : List EngineSlot := []
  /-- Job cards (Copy Engine) or configurations (Matrix Node). -/
  slots : List EngineSlot := []
  /-- Sticky flags CE_SF, NU_SF, CP_SF or MN_SF (R42, R181). -/
  sf : Nat := 0
  /-- The generator key SRK (R252). -/
  srk : Word := 0
  /-- Chits in use at each port (R140). -/
  used : List Nat := [0, 0, 0, 0]
  /-- DEPn pending under DEPTH, with the receipt it owes: port, depth, RW, frame, iteration (R169). -/
  depth : List (Nat × Nat × Nat × Nat × Nat) := []
  source : Option Source := none
  beat : Beat := {}
  /-- The node's drained strobe for the context's block stands (R117). -/
  drained : Bool := false
  /-- Receipts and replies owed to firings of the context (R117). -/
  owed : Nat := 0
  /-- The context has taken part since the block became resident (R117). -/
  armed : Bool := false
  /-- A slot patch on its way: constant and value (R114). -/
  patch : List (Nat × Word) := []
  /-- Cut notices held: port and N (R461). -/
  notices : List (Nat × Nat) := []
  /-- FLAGS of the markers that came to the context: a sink's copy, which the receipt of its streams takes (R42). -/
  mflags : Nat := 0
  /-- A link context has met the cut strobe, and has sent its notices (R439, R461): contexts of one link node may belong to
  several regions, so the node's own marks do not serve there. -/
  cut : Bool := false
  noticed : Bool := false
deriving DecidableEq, Repr

/-- A scale token held at a port (R256), with its own arrival number and that of the value token that it attached to. -/
structure HeldScale where
  tok : Token
  arr : Nat := 0
  into : Option Nat := none
deriving DecidableEq, Repr

/-- A matching store (R131), beside a CE for it and its partner ME, or of a cluster node or a link node. `overflow` is
the overflow register: the store accepts nothing while it is occupied (R141). -/
structure Store where
  entries : List Piece := []
  overflow : List Piece := []
  /-- Whole tokens that stay in their Chits because no place had room (R141, case 4). -/
  held : List Piece := []
  scales : List HeldScale := []
  /-- The cycle in which the store accepted its last token: one a cycle (R132). -/
  lastAcc : Option Nat := none
  /-- Tokens accepted while a cut forbids matching (R461), oldest first. -/
  pend : List Piece := []
deriving DecidableEq, Repr

/-- A node: its contexts, its firings, its output queue and its counters. -/
structure Node where
  ctxs : List Ctx := List.replicate 8 {}
  admitted : List Firing := []
  slots : List (Option Firing) := []
  outq : List OutTok := []
  /-- The context served last (R48). -/
  lastCtx : Nat := 7
  /-- The context whose slot issued last (R48, R222). -/
  lastIssue : Nat := 7
  /-- FIRES, ZFIRES and PASSES, or the node kind's own counts (R182, R257). -/
  fires : Nat := 0
  zfires : Nat := 0
  passes : Nat := 0
  /-- Sink suppressions counted at the node (R455). -/
  psup : Nat := 0
  /-- Values that temporaries held in firings that have left their slots: partition, lane, the firing's entry, and the value (R177). -/
  hist : List (Nat × Nat × Nat × Word) := []
  /-- Entries into the node's slots so far. -/
  entries : Nat := 0
  /-- The node has met the cut strobe of a cut in progress (R461). -/
  cut : Bool := false
  /-- It has sent its position notices, and nothing leaves it (R461). -/
  noticed : Bool := false
  /-- SENT and TAKEN, by region and block, since the block became resident (R117). -/
  counts : Table (Nat × Nat) (Nat × Nat) := []
deriving DecidableEq, Repr

/-! ## Memory operations in flight -/

/-- A part of an operation that one home slice performs as one event (R346): the line's SPA, and the lanes it serves with
their SPAs. -/
structure LineReq where
  line : Nat
  lanes : List (Nat × Nat)
  /-- The G-space address that the first of the lanes accesses, which the record of an error in the line gives (R502). -/
  va : Nat := 0
  /-- The line lies in a device-memory page (R219). -/
  dev : Bool := false
  /-- The event has found its line absent from the memory-side cache and waits for the fill (R344). -/
  filling : Bool := false
deriving DecidableEq, Repr

/-- What an operation that a Memory Element has issued is. -/
inductive OpKind where
  | load
  | store
  /-- An atomic of the given opcode (R358). -/
  | atomic (opc : Nat)
  | hseq
  /-- XWB, and XINV when `inv` (R236). -/
  | writeBack (inv : Bool)
  /-- SBAR with its classes, and SFLUSH and FENCE with none: only a receipt (R234, R235). -/
  | barrier (classes : Nat)
deriving DecidableEq, Repr

/-- A memory operation that an instruction has issued and that is not yet finished (R221, R40). -/
structure Op where
  id : Nat
  kind : OpKind
  pos : Coord
  region : Nat
  ctx : Nat
  frame : Nat
  /-- Tag and run of its reply; a receipt takes `base`. -/
  iter : Nat
  len : Nat
  base : Nat
  /-- Active lanes of the reply, and its poison. -/
  mask : Nat := 0
  poison : Nat := 0
  ty : Ty
  scope : Nat := 0
  /-- Reply routing word plus one, and receipt routing word; 0 for none. -/
  reply : Nat := 0
  receipt : Nat := 0
  /-- An atomic's own word: its rounding, saturation and flush (R358). -/
  niw : Option Niw := none
  /-- Stream number, or 4 for an address-operand instruction (R228, R235). -/
  cls : Nat := 4
  /-- Events not yet performed. -/
  todo : List LineReq := []
  /-- Write-buffer entries not yet performed at the scope (R226). -/
  waits : List Nat := []
  /-- Operations that must be performed first: a barrier's (R235). -/
  after : List Nat := []
  /-- Values returned, by lane; and operand values of an atomic: lane, value, compare. -/
  vals : List (Nat × Word) := []
  args : List (Nat × Nat × Nat) := []
  flags : Nat := 0
  rpoison : Bool := false
  /-- Tags of its write events, and that it forms several write events, so that its receipt has no SEQ (R349). -/
  tags : List Nat := []
  several : Bool := false
  /-- The instruction that issued it: its firing's entry into the node, and its index (R228, R235). -/
  by_ : Nat × Nat := (0, 0)
  /-- G-space addresses of lines whose data are uncorrectable and whose record waits for room (R495, R502). -/
  eccs : List Nat := []
  /-- Lines of a store that have still to enter the write buffer, in order: the line, whether its page is device memory, and the
  bytes (R226). -/
  lines : List (Nat × Bool × List Host.Cell) := []
  /-- The widest scope at which a release or a barrier waits for it (R235, R353). -/
  upTo : Nat := 0
  /-- An acquire (R350). -/
  acq : Bool := false
  /-- Its firing has further requests of it to issue: a linked LDS (R216), whose `link` is the address of the next node, POS, and
  the number of lanes that have taken an element. -/
  more : Bool := false
  link : Nat × Nat × Nat := (0, 0, 0)
deriving DecidableEq, Repr

/-- A page-table walk under way (R218): for a stream entry, an address operand of an ME, or another unit. -/
structure Walk where
  pos : Coord
  /-- The slot of the firing that waits for it. -/
  slot : Nat
  part : Nat
  va : Nat
  /-- The stream whose entry it fills: context and stream; none for the ME's cache. -/
  stream : Option (Nat × Nat)
  region : Nat
deriving DecidableEq, Repr

/-- A Memory Element's own state (R211, R215, R218, R238). -/
structure Me where
  /-- Scratchpad bytes by address, those that have been written. -/
  spad : Table Nat Byte := []
  /-- Ranges that became undefined when a block became resident (R212): start, end and the step's free-value counter, the
  latest first. A byte of such a range that is not in `spad` reads as a free value of that step. -/
  undef : List (Nat × Nat × Nat) := []
  /-- ME_SSTck and ME_SADck, by (context, stream). -/
  sst : Table (Nat × Nat) Word := []
  sad : Table (Nat × Nat) Word := []
  /-- Translation entries of the streams, and the cache of address operands, most recent first. -/
  sx : Table (Nat × Nat) Xlat := []
  tlb : List Xlat := []
  /-- Streams with a store lane that poison suppressed since they were opened (R43, log 8). -/
  sbad : List (Nat × Nat) := []
  /-- Words of 8 bytes with an uncorrectable error, until a write covers them (R502). -/
  bad : List Nat := []
  acc : Nat := 0
  bkcyc : Nat := 0
deriving DecidableEq, Repr

/-- An entry of a cluster write buffer (R226). -/
structure WbEntry where
  id : Nat
  line : Nat
  bytes : List Host.Cell
  /-- The cycle of its last write. -/
  last : Nat
  region : Nat
  dev : Bool
  draining : Bool
  /-- A store to the line names SYS scope. -/
  sys : Bool
  /-- Who wrote it: ME, context, frame, and stream number or 4 (R228, R235). -/
  writers : List (Coord × Nat × Nat × Nat)
  /-- A receipt of one of its writes has been sent, or an acquire has read it: a release may follow it (R353, cases 1 and 3). -/
  seen : Bool := false
  /-- It is in the release set of a release that has been performed: a later release may follow that one (R353, cases 3 and 4). -/
  rel : Bool := false
deriving DecidableEq, Repr

/-- A token in the Vault or the spill map: the store it belongs to, and its piece (R131, R142). -/
structure Stashed where
  store : Coord
  piece : Piece
deriving DecidableEq, Repr

/-- A withdrawn token of a parked frame (R444): the store it was withdrawn from and its piece, whose `buf` says where it
lies now. -/
structure Withdrawn where
  region : Nat
  store : Coord
  piece : Piece
deriving DecidableEq, Repr

/-- A cluster: the parts that its nodes share (R131, R226, R144, R475). A cluster's copies of STATE and S of the frames are the Mint's
own here: they are equal whenever a grant is visible (R145). -/
structure Cluster where
  /-- The next arrival number (R132): one counter for the cluster's stores, so that arrivals at any two of them compare
  (R143). -/
  nextArr : Nat := 0
  vault : List Stashed := []
  spill : List Stashed := []
  /-- Shared buffers in use (R131). -/
  shared : Nat := 0
  /-- Chits reserved, reserved(c) of R106. -/
  resv : Nat := 0
  toVault : Nat := 0
  toSmap : Nat := 0
  bpc : Nat := 0
  wb : List WbEntry := []
  drains : Nat := 0
  psup : Nat := 0
  withdrawn : List Withdrawn := []
  /-- Park notices held by the cluster: (region, frame) (R444). -/
  parkSeen : List (Nat × Nat) := []
deriving DecidableEq, Repr

/-! ## Regions -/

/-- A frame-table entry TE_FRAMEf (R145) with the Mint's reported bit (R456). -/
structure Frame where
  state : Nat := 0
  parked : Bool := false
  s : Nat := 0
  blk : Nat := 0
  tcnt : Nat := 0
  age : Nat := 0
  reported : Bool := false
deriving DecidableEq, Repr

/-- A party set TE_PSETk with its members (R165): member frames, those arrived with the receipt each is owed, arrivals
held for the next phase, and leaves held for the phase's end (R166). A receipt owed is node, context, RW, frame,
iteration; `poison` is the poison of the phase. -/
structure PartySet where
  scope : Nat := 0
  members : List Nat := []
  arrived : List (Nat × Coord × Nat × Nat × Nat) := []
  poison : Bool := false
  nextPhase : List (Nat × Coord × Nat × Nat × Nat × Bool) := []
  leaving : List (Nat × Coord × Nat × Nat × Nat) := []
  phase : Nat := 0
deriving DecidableEq, Repr

/-- How a firing that gave its inputs back goes on when it is admitted again (R449, R450): every instruction acts as SKIP, or its
first does, or its first takes PATCH's pattern. -/
inductive Again where
  | skipAll
  | skip
  | patch (v : Word)
  /-- Behind its first instruction, a trap that is complete (R450). -/
  | after
deriving DecidableEq, Repr

/-- A frame request in the Mint's order (R146): RUN's counter, or a pop source's context and its number of frames. -/
inductive MintReq where
  | run (ic : Nat) (blk : Nat)
  | pop (pos : Coord) (ctx : Nat)
deriving DecidableEq, Repr

/-- Where the teardown of a block stands (R118). -/
inductive Phase where
  | drain | close
deriving DecidableEq, Repr

/-- A block of a launch (R21, R106, R117). -/
structure Blk where
  resident : Bool := false
  cbase : Nat := 0
  /-- Its window set (R212). -/
  wset : Nat := 0
  phase : Phase := .drain
  /-- draining(b) of R118: from the first drained strobe to the end of Free. -/
  draining : Bool := false
  /-- Nodes whose drained strobe the Sequencer holds. -/
  drainedBy : List Coord := []
  /-- Replies of a close still to come, as (node, TAKEN reply?), and the sums so far. -/
  awaiting : List (Coord × Bool) := []
  sentSum : Nat := 0
  takenSum : Nat := 0
  allStill : Bool := true
  /-- pass(b) of R109, and whether its over-commit has been reported under this SCHED. -/
  pass : Nat := 0
  overReported : Bool := false
  /-- Frames of RUNs on the block, returned when it is freed (R107). -/
  runFrames : List Nat := []
  /-- Nodes whose acknowledgement of a slot patch is owed (R114). -/
  patching : List Coord := []
deriving DecidableEq, Repr

/-- An iteration-space counter SEQ_ICk (R103), with the sources that have yet to finish. -/
structure Counter where
  act : Bool := false
  frame : Nat := 0
  blk : Nat := 0
  limit : Nat := 0
  count : Nat := 0
  left : Nat := 0
deriving DecidableEq, Repr

/-- Progress of the marker-drain cut of a region (R460 to R463). -/
inductive CutFor where
  /-- The watchdog's freeze, or an uncorrectable error in control state (R459, R502). -/
  | freeze (ecc : Bool)
  /-- A SNAPSHOT: its queue, and its place in the queue's order. -/
  | snapshot (queue entry : Nat)
deriving DecidableEq, Repr

/-- An edge's end as the code object gives it: the block that holds the routing word, the target's block, its virtual node
and its port (R67, R70). A virtual cluster node is named by the corner of its virtual cluster. -/
structure EdgeEnd where
  src : Nat
  tblk : Nat
  nk : Nat
  vx : Nat
  vy : Nat
  port : Nat
deriving DecidableEq, Repr

/-- A launch's region and everything its Sequencer and Mint hold (R19, R103, R145, R165). -/
structure Region where
  id : Nat
  lid : Nat
  /-- LID of the original LAUNCH, which the keys take (R252). -/
  olid : Nat
  part : Nat
  queue : Nat
  /-- The started command that the region's end completes. -/
  entry : Nat
  /-- Rectangle in clusters; width 0 until granted. -/
  gx : Nat
  gy : Nat
  w : Nat
  h : Nat
  obj : Nat
  hwin : Nat
  /-- The object's header, block table, slot table, footprint table and data-segment table in the Sequencer's copy, and its
  relocations: offset of the word, RKIND, value. -/
  hdr : List Word
  blkTab : List (Word × Word)
  slotTab : List (Word × Word)
  fpTab : List (Word × Word)
  dataTab : List (Word × Word)
  relocs : List (Nat × Nat × Nat)
  /-- Edge ends of the code object, by which CFG repeats R67's checks (R102). -/
  ends : List EdgeEnd := []
  /-- The blocks' node records as step 2 of R101 read them, until the grant. -/
  recWords : List (List Word) := []
  /-- Bytes of the configuration segment below which a demand read, or the prefetch, has read (R119). -/
  demanded : Nat := 0
  prefetched : Nat := 0
  /-- Slot values, by slot-table entry (R101 step 7, R114). -/
  slotVals : List Nat
  ccws : List Word
  /-- The launch's requested size, held until the grant. -/
  rgw : Nat
  rgh : Nat
  /-- Sequencer registers (R103). -/
  cc : Nat := 0
  ics : List Counter := [{}, {}, {}, {}]
  trips : List Nat := [0, 0, 0, 0]
  stat : Nat := 1
  /-- STATE before a freeze. -/
  statKept : Nat := 2
  wcond : Nat := 0
  tokc : Nat := 0
  /-- The cycle in which the Sequencer took its last token on port P3: one a cycle (R112). -/
  lastTok : Option Nat := none
  ctxfree : Nat := 0xff
  sched : Option (Nat × Nat) := none
  /-- The SLOT that executes has sent its patches (R114). -/
  slotSent : Bool := false
  blks : Table Nat Blk := []
  frames : Table Nat Frame := []
  grants : Nat := 0
  psets : Table Nat PartySet := []
  requests : List MintReq := []
  /-- A frame granted to a waiting RUN: counter and frame (R107). -/
  granted : Option (Nat × Nat) := none
  /-- Firings that gave their inputs back and whose record was answered by SKIP or PATCH: node, context, frame, base and length,
  and how they go on when they are admitted again (R449, R450). -/
  skips : List ((Coord × Nat × Nat × Nat × Nat) × Again) := []
  /-- Cycles since the last progress event (R458), and the events of this cycle. -/
  wdog : Nat := 0
  /-- Microseconds at which the region was granted or restored (R460). -/
  since : Nat := 0
  cut : Option CutFor := none
  /-- The cycle in which the cut that froze the region was complete (R464). -/
  cutAt : Option Nat := none
  frozen : Bool := false
  aborting : Bool := false
  /-- The restored or launched command is RESTORE. -/
  restored : Bool := false
  /-- The saved launch that a RESTORE restores, by its serial number. -/
  fromSave : Option Nat := none
  /-- Code object checked and waiting for the allocator. -/
  waiting : Bool := false
deriving DecidableEq, Repr

/-! ## Records and Escrow -/

/-- A fault record as posted (R129): its eight words, with word 6's RECNO in place. -/
structure Record where
  words : List Word
deriving DecidableEq, Repr

/-- An open record (R442), or a dormant one of a saved launch. -/
structure OpenRec where
  recno : Nat
  region : Nat
  part : Nat
  frame : Nat
  cause : Nat
  detail : Nat
  hold : Hold
  pos : Coord
  ctx : Nat
  /-- The record's words, posted again at RESTORE (R466). -/
  words : List Word
deriving DecidableEq, Repr

/-- A firing image (R445), or a firing that waits in its slot for a cell. -/
structure Image where
  region : Nat
  pos : Coord
  firing : Firing
  /-- The record that parked it, 0 for none (a cut). -/
  recno : Option Nat
  /-- The Escrow cell of the partition's area in which it lies; without one it holds its slot (R443, R445). -/
  cell : Option Nat
  /-- Answered, and waiting for a slot (R451). -/
  ready : Bool := false
deriving DecidableEq, Repr

/-- An answer that is not complete (R451, R452): queue, entry, what it waits for. -/
inductive AnswerWait where
  /-- Readmission of the frame's tokens and images. -/
  | readmit (region frame : Nat)
  /-- The frame's return to STATE 0. -/
  | freed (region frame : Nat)
  /-- The command, access, piece or region has restarted, and the record's work is done. -/
  | work (recno : Nat)
deriving DecidableEq, Repr

/-! ## Queues and partitions -/

/-- A started command whose completion is not yet published (R125). -/
structure Started where
  entry : Nat
  cmd : Nat
  cen : Bool
  cnfy : Nat
  cval : Word
  done : Bool
  lid : Nat
  /-- The command's completion makes no write (an unowned notify register, or a partition reset). -/
  silent : Bool := false
deriving DecidableEq, Repr

/-- A started SNAPSHOT that is not complete (R460): its queue and entry, its launch's region, SAVE and SAVELEN. -/
structure Snap where
  queue : Nat
  entry : Nat
  region : Nat
  save : Nat
  saveLen : Nat
deriving DecidableEq, Repr

/-- An answer that started while a cut of its region was in progress, and waits for the cut's end (R461): its queue and
entry, whether it is a DISCARD, and the command's words. -/
structure HeldAnswer where
  queue : Nat
  entry : Nat
  region : Nat
  discard : Bool
  cmd : Cmd
deriving DecidableEq, Repr

/-- A hardware queue (R121, R460): QE_CTL, QE_STAT, QE_SLICE, its FIFO and its started commands. -/
structure Queue where
  en : Bool := false
  owner : Nat := 0
  fifo : List (List Word) := []
  badwr : Bool := false
  ovf : Bool := false
  sliceup : Bool := false
  drops : Nat := 0
  eff : Nat := 0
  min : Nat := 0
  started : List Started := []
  nextEntry : Nat := 0
  /-- Answers of this queue that wait. -/
  answers : List (Nat × AnswerWait) := []
deriving DecidableEq, Repr

/-- A notify register with its control register (R126). -/
structure Notify where
  value : Word := 0
  msien : Bool := false
  armed : Bool := false
  owner : Nat := 0
  vec : Nat := 0
deriving DecidableEq, Repr

/-- Partition block p (R490, R443, R458), its record queue and its record counter. -/
structure Partition where
  en : Bool := false
  state : Nat := 0
  rst : Bool := false
  ptrV : Bool := false
  ptrRoot : Nat := 0
  invAll : Bool := false
  invVa : Nat := 0
  fqBase : Word := 0
  head : Nat := 0
  tail : Nat := 0
  recno : Nat := 0
  /-- Records held on the device, oldest first (R495). -/
  held : List Record := []
  /-- Records of a RESTORE that wait for room on the device, oldest first (R466, R495), and the region that it restores. -/
  backlog : List Record := []
  restoring : Option Nat := none
  waitc : Nat := 0
  /-- A poster has found no room since a record last left the device: WAITC counts (R495). -/
  waiting : Bool := false
  budEn : Bool := false
  budPer : Nat := 1000
  lims : List Nat := [0, 0, 0, 0, 0]
  uses : List Nat := [0, 0, 0, 0, 0]
  stalled : Bool := false
  /-- The period of DEV_USEC that is under way: its number (R497). -/
  period : Nat := 0
  escArea : Word := 0
  wdEn : Bool := false
  wdExp : Nat := 16
  dbgSel : Nat := 0
  opens : List OpenRec := []
  /-- Escrow's accesses to cells of the area that have yet to reach their home slices (R443): whether it is a write, its place in the
  area, and its bytes. -/
  cellOps : List (Bool × Nat × Nat) := []
  /-- Tokens left in Chits (R475). -/
  stuck : Nat := 0
  /-- Vault slots held, in slot-cycles not yet carried to BUD_USE4 (R497). -/
  slotCyc : Nat := 0
deriving DecidableEq, Repr

/-! ## Networks -/

/-- Where a strobe goes or comes from (R33, R34). -/
inductive Peer where
  | node (c : Coord)
  | cluster (g : Nat)
  /-- The Sequencer, the Mint and Escrow of a region's anchor. -/
  | anchor (region : Nat)
deriving DecidableEq, Repr

/-- A strobe in flight (R34): its source and destination travel beside it. -/
structure Strobe where
  src : Peer
  dst : Peer
  region : Nat
  word : Word
  /-- Of a RETIRE, the batch that it is about (R399): the word names the frame alone, and the frame may hold a later batch when the
  notice arrives (log 77). -/
  batch : Nat := 0
deriving DecidableEq, Repr

/-! ## The schedule -/

/-- What the next step does: which unit acts. The manual leaves free which admitted firing, event or message comes
next (R51); the schedule names it, and brings in what the outside does. -/
inductive Act where
  /-- The firing in a slot of a node executes its next instruction. -/
  | fire (pos : Coord) (slot : Nat)
  /-- The pop source of a context executes its WLPOP (R398). -/
  | pop (pos : Coord) (ctx : Nat)
  /-- The control stream of a region executes its command. -/
  | control (region : Nat)
  /-- The command at the head of a queue. -/
  | command (queue : Nat)
  /-- The strobe at a place of the strobe network arrives. -/
  | strobe (i : Nat)
  /-- The packet at a place of the inward packet list arrives at its link node. -/
  | packet (i : Nat)
  /-- An event, with its words. -/
  | event (words : List Word)
deriving DecidableEq, Repr

/-- One turn of the schedule: the fabric cycles and microseconds that pass before it, and what acts. -/
structure Turn where
  cycles : Nat
  usec : Nat
  act : Act
deriving DecidableEq, Repr

/-- What the current step acts on, set when it fetches its instruction. -/
structure Cur where
  pos : Coord
  slot : Nat := 0
  region : Nat := 0
  queue : Nat := 0
  place : Nat := 0
  arg : Arg := .none
deriving DecidableEq, Repr

/-! ## Edge Tap -/

/-- A tap slot: ET_GRANT, ET_BUF, ET_BIND, ET_WP, ET_RP, ET_LOST (R477). -/
structure Tap where
  en : Bool := false
  part : Nat := 0
  lgsz : Nat := 0
  base : Nat := 0
  v : Bool := false
  pos : Coord := { die := 0, x := 0, y := 0 }
  ctx : Nat := 0
  port : Nat := 0
  edge : Nat := 0
  wp : Nat := 0
  rp : Nat := 0
  lost : Nat := 0
  /-- Bindings of the slot so far: a token that entered its queue under an earlier one leaves no record (R474, R479). -/
  binds : Nat := 0
deriving DecidableEq, Repr

/-- A trace record in a die's collector: its slot and words (R480, R482). -/
structure TapRec where
  slot : Nat
  words : List Word
deriving DecidableEq, Repr

/-! ## Copy Engine -/

/-- A job instance (R273, R278): its card, offsets and count, the lane and the instruction it comes from, and the pieces
performed. -/
structure Job where
  /-- Issue number. -/
  id : Nat
  /-- The instruction whose receipt it shares. -/
  op : Nat
  region : Nat
  ctx : Nat
  frame : Nat
  iter : Nat
  len : Nat
  pmask : Nat
  lmask : Nat
  opc : Nat
  seqix : Nat
  lane : Nat
  card : List Word
  src : Int
  dst : Int
  cnt : Nat
  /-- The window set of its card's block (R212, R275). -/
  wset : Nat := 0
  piece : Nat := 0
  /-- It holds a running slot (R278), this one (R300). -/
  running : Bool := false
  slot : Nat := 0
  /-- A fault holds it at its piece (R283). -/
  faulted : Bool := false
  /-- Its piece has faulted, and the record waits for room (R495). -/
  due : Option FaultInfo := none
  /-- Destinations of a CPYM that have failed, and the cause of the lowest (R289). -/
  failed : Nat := 0
  failCode : Nat := 0
deriving DecidableEq, Repr

/-- The receipt that an instruction's instances share (R273, R280). -/
structure CpOp where
  id : Nat
  region : Nat
  ctx : Nat
  frame : Nat
  iter : Nat
  rrw : Nat
  scope : Nat
  left : Nat
  /-- Every lane of the instruction has issued. -/
  issued : Bool
  poisoned : Bool
  flags : Nat
deriving DecidableEq, Repr

/-- An A FIFO entry (R295, R305): the frame it belongs to and the tile. -/
structure FifoEntry where
  region : Nat
  frame : Nat
  tile : List Word
deriving DecidableEq, Repr

/-- A Copy Engine (R274, R278, R295, R300). -/
structure Copy where
  jobs : List Job := []
  ops : List CpOp := []
  nextId : Nat := 0
  fifo : List FifoEntry := []
  adrop : Nat := 0
  jobCnt : Nat := 0
  pieceCnt : Nat := 0
  apos : Nat := 0
  psup : Nat := 0
deriving DecidableEq, Repr

/-! ## Matrix Node -/

/-- A B buffer (R302, R308, R309): its state (0 FREE, 1 CHECKING, 2 HELD, 3 RELEASING), the checked range and its TYB,
the columns' tiles (an unlisted column reads as a tile with ZF = 1), and the columns that RESUME lets be read as ZF tiles
(R335). -/
structure MnBuf where
  st : Nat := 0
  chk : Nat := 0
  tyb : Nat := 0
  cols : Table Nat (List Word) := []
  zfCols : List Nat := []
  /-- Instructions numbered below it were issued before the release under way (R308). -/
  rel : Nat := 0
deriving DecidableEq, Repr

/-- What a Matrix Node instruction that has issued and is not complete still does. -/
inductive MnWork where
  /-- A run (R312): source is the port row, or the FIFO; `i0`, `n`, admitted and retired row firings. -/
  | run (port : Option PortIn) (out : Bool) (dit : Bool) (i0 n admitted prog : Nat)
  /-- Entries of the frame that a DISCARD removes as they come first (R335). -/
  | dropping (n : Nat)
  /-- MNZERO and MNSCL: their rows, and those done, as a mask. -/
  | zero (a b done : Nat)
  | scale (a b done : Nat) (e : Int)
  /-- MNOUT: its rows, and how many are done. -/
  | out (clr : Bool) (a b done : Nat)
  /-- MNSAVE or MNREST: first slot, count, rows done as a mask, and the SPA of each row's four lines, each
  with whether its page is device memory. -/
  | save (b c done : Nat) (spas : List (List (Nat × Bool))) (scope : Nat)
  | rest (b c done : Nat) (spas : List (List (Nat × Bool))) (scope : Nat)
  /-- A hold of a buffer (MNLDB, or the second half of MNSWAP); `begun` once it is in CHECKING. -/
  | hold (buf : Nat) (begun : Bool)
deriving DecidableEq, Repr

/-- An instruction that a Matrix Node has issued (R321, R322), in issue order: its configuration's copy (of MNSAVE and
MNREST, the address constant in `cfg0`), its tag, and the receipt it owes. -/
structure MnOp where
  id : Nat
  region : Nat
  ctx : Nat
  frame : Nat
  iter : Nat
  len : Nat
  pmask : Nat
  lmask : Nat
  opc : Nat
  seqix : Nat
  slot : Nat
  cfg0 : Word
  cfg1 : Word
  work : MnWork
  /-- Receipt's routing word, 0 for none. -/
  rrw : Nat
  poisoned : Bool := false
  flags : Nat := 0
  /-- Run slot of a run. -/
  runSlot : Nat := 0
  /-- Parked on a BITMAP record (R334). -/
  parked : Bool := false
  /-- A header fault waits for the admitted row firings to retire before it posts (R334): reason and word 3. -/
  bad : Option (Nat × Word) := none
  /-- The next A tile is consumed as a ZF tile (R335). -/
  asZero : Bool := false
deriving DecidableEq, Repr

/-- A row firing in the window (R313, R314): its run, its row index, its row slot, the A tile, the row's scales, whether
it poisons its slot, and the units left in each column. -/
structure MnRow where
  op : Nat
  j : Nat
  slot : Nat
  tile : List Word
  scales : List Nat
  psn : Bool
  left : List Nat
deriving DecidableEq, Repr

/-- A Matrix Node (R302, R339). -/
structure Matrix where
  /-- Rows of 128 accumulators; an unlisted row is zero. -/
  acc : Table Nat (List Half) := []
  /-- Poison flags by row slot. -/
  apsn : Nat := 0
  bufs : List MnBuf := [{}, {}]
  ops : List MnOp := []
  nextId : Nat := 0
  window : List MnRow := []
  /-- A scale latches by context (R306). -/
  latch : List Nat := List.replicate 8 0
  /-- DIT bits by context. -/
  dit : Nat := 0
  rows : Nat := 0
  zrows : Nat := 0
  pairs : Nat := 0
  psup : Nat := 0
  /-- MN_PROGk of the run slots. -/
  progs : List Nat := [0, 0, 0, 0]
deriving DecidableEq, Repr

/-! ## Home slices -/

/-- A line of second-tier memory that its slice holds dirty (R45): the writers whose writes are performed at DEV and not at SYS (ME,
context, frame, and stream number, 4 for the address operands, 5 for an engine), the regions that have read it by an acquire at SYS
(R353), and the two marks of `WbEntry`. -/
structure TierLine where
  line : Nat
  writers : List (Coord × Nat × Nat × Nat)
  readers : List Nat := []
  seen : Bool := false
  rel : Bool := false
deriving DecidableEq, Repr

/-- A Home Slice (R344, R348, R368): HS_SEQ, its counters, its cache as sets of (line, dirty) with the most recent first,
the last tag of each line it holds, that of a window line which nothing has written since the HS_SPLIT write, and its dirty lines of
second-tier memory. -/
structure Slice where
  seq : Nat := 0
  wtag : Nat := 0
  owed : List TierLine := []
  atoms : Nat := 0
  writes : Nat := 0
  hits : Nat := 0
  misses : Nat := 0
  sets : Table (Nat × Nat) (List (Nat × Bool)) := []
  ltag : Table Nat Nat := []
deriving DecidableEq, Repr

/-! ## Worklist -/

/-- A task (R371). -/
structure Task where
  key : Nat
  pri : Nat
  pay : Nat
deriving DecidableEq, Repr

/-- A batch: its frame, its run, its fan (as a power of two), its tasks, its coverage mask, and the iterations whose retire
notice has arrived (R383, R384, R399). -/
structure Batch where
  frame : Nat
  run : Nat
  fan : Nat
  bucket : Nat
  tasks : List Task
  cov : Nat := 0
  retired : Nat := 0
  /-- Its number at its Till, which its retire notices carry (log 77). -/
  id : Nat := 0
  /-- Its frame holds a later batch, while tasks of this one still wait for their retire notices (R399, R405). -/
  gone : Bool := false
deriving DecidableEq, Repr

/-- A pop source's frames (R382) and batches. -/
structure Pop where
  frames : List Nat := []
  /-- Frames requested of the Mint and not yet granted. -/
  asked : Nat := 0
  batches : List Batch := []
deriving DecidableEq, Repr

/-- Where a transfer stands (R378, R387). -/
inductive Carry where
  /-- On its way to the receiver, or in its inbox. -/
  | sent
  /-- Accepted; the receiver acknowledges at its next package-wave sample. -/
  | taken
  /-- The acknowledgement is on its way. -/
  | acked
deriving DecidableEq, Repr

/-- A transfer of one task between two Tills of a region (R387). -/
structure Transfer where
  id : Nat
  src : Coord
  dst : Coord
  region : Nat
  task : Task
  steal : Bool
  /-- The push instruction that counts its acceptance. -/
  op : Nat
  carry : Carry := .sent
deriving DecidableEq, Repr

/-- A WLPUSH, WLPUSHB or WLDRAIN that owes a receipt (R396, R397, R401). -/
structure WlOp where
  id : Nat
  region : Nat
  ctx : Nat
  frame : Nat
  iter : Nat
  rw : Nat
  left : Nat
  issued : Bool
  poisoned : Bool
  drain : Bool
  /-- Records of a WLPUSHB not yet read (R378, R397). -/
  records : Nat := 0
  /-- The record that has been read and waits for credit or room (R397). -/
  record : Option Task := none
deriving DecidableEq, Repr

/-- A Till's worklist state (R372 to R379, R390, R404). -/
structure Till where
  cfg : Word := 0
  rbase : Nat := 0
  cfgd : Bool := false
  term : Bool := false
  lpkg : Nat := 0
  ldie : Nat := 0
  locLow : Nat := 0xffffffff
  wb : Nat := 0
  /-- Tasks held, each with its arrival number, ordered by position and within a position (R373). -/
  tasks : List (Nat × Task) := []
  nextArr : Nat := 0
  spmin : Nat := 0xffffffff
  /-- Ring: entries read and entries written since WLCFG. -/
  rHead : Nat := 0
  rTail : Nat := 0
  pmin : Nat := 0xffffffff
  /-- HOLD of R390. -/
  hold : Bool := false
  sent : Nat := 0
  recv : Nat := 0
  pops : Nat := 0
  retires : Nat := 0
  spills : Nat := 0
  refills : Nat := 0
  stolen : Nat := 0
  given : Nat := 0
  psup : Nat := 0
  sources : Table Nat Pop := []
  ops : List WlOp := []
  nextId : Nat := 0
  /-- LOCLOW was lowered after the package wave under way started (R379). -/
  lowered : Bool := false
  /-- A ring access has faulted (R376). -/
  ringStop : Bool := false
  /-- A refill of R375's second reason: records still to be read, and the least priority read. -/
  refill : Option (Nat × Nat) := none
  /-- The victim of the steal request that is out (R388). -/
  asking : Option Coord := none
  /-- The handing over of tasks under way: thief, bucket, tasks left. -/
  giving : List (Coord × Nat × Nat) := []
  /-- The latest die wave and package wave as this Till knows them: the least priority of each Till (R388). -/
  seenDie : List (Coord × Nat) := []
  seenPkg : List (Coord × Nat) := []
  lastPop : Nat := 7
  /-- WAVES and PASS of the anchor's WL_CLR, as the region that ended last left them (R404). -/
  clr : Nat × Nat := (0, 0)
deriving DecidableEq, Repr

/-- A wave under way (R377): what it has sampled, by Till. -/
structure Wave where
  samples : List (Coord × Nat) := []
  /-- ΣSENT, ΣRECV, ΣPOPS, ΣRETIRES and ΣHELD of a package wave (R391). -/
  sums : List Nat := [0, 0, 0, 0, 0]
deriving DecidableEq, Repr

/-- Clearing of a region (R391, R404): WL_CLR, the previous wave's sums, the waves under way and when the last ones
started. -/
structure Clearing where
  waves : Nat := 0
  pass : Nat := 0
  lastSent : Nat := 0
  lastPops : Nat := 0
  lastHeld : Nat := 0
  die : Table Nat Wave := []
  dieStart : Table Nat Nat := []
  pkg : Option Wave := none
  pkgStart : Option Nat := none
  /-- The cycle from which waves may start: WLCFG, or 1,024 cycles after RESTORE. -/
  startAt : Nat := 0
deriving DecidableEq, Repr

/-! ## Link Engine -/

/-- A packet: its header and payload (R410). -/
structure Packet where
  hdr : Pkt
  data : List Byte
deriving DecidableEq, Repr

/-- A packet on its way into a link node: by a port, or on package from another node, and whether it crosses (R416). -/
structure PktIn where
  port : Nat
  crossing : Bool
  pkt : Packet
deriving DecidableEq, Repr

/-- A channel of a link node (R419, R440). `closing` holds while a CLOSE is out; `next` are the words of an OPEN that
waits for it, and `owner` its LCHAN operation. -/
structure Chan where
  opened : Bool := false
  desc : Word := 0
  base : Word := 0
  msn : Nat := 0
  dsn : Nat := 0
  closing : Bool := false
  next : Option (Word × Word) := none
  owner : Nat := 0
  trims : Nat := 0
  retx : Nat := 0
  lost : Nat := 0
  msgs : Nat := 0
  /-- Its block or region is gone: CLOSE goes as soon as no message of the channel is outstanding (R431, R439). -/
  shut : Bool := false
deriving DecidableEq, Repr

/-- A message of a channel that is not complete (R419, R421, R505). -/
structure Msg where
  id : Nat
  op : Nat
  chan : Nat
  kind : Nat
  lane : Nat
  msn : Nat
  dsn : Nat
  ddev : Nat
  win : Nat
  rkey : Nat
  rem : Nat
  loc : Nat
  len : Nat
  npk : Nat
  tc : Nat
  ord : Bool
  region : Nat
  part : Nat
  aop : Nat
  aty : Nat
  /-- Payload that the sender keeps: PUTN's and ATOMQ's. -/
  keep : List Byte
  /-- Packets of a GETR that have been written. -/
  got : List Nat := []
  /-- Translations of its local pages, made when it issued (R430). -/
  xl : List Xlat := []
  /-- Cycle at which the timer last restarted. -/
  last : Nat := 0
  /-- Its local bytes were uncorrectable, which its one record has told (R502). -/
  hurt : Bool := false
  /-- The requester's tag of a GETQ or ATOMQ (R410). -/
  xtag : Nat := 0
deriving DecidableEq, Repr

/-- A link instruction that owes a receipt or a reply, in issue order (R426, R430). -/
structure LinkOp where
  id : Nat
  region : Nat
  ctx : Nat
  frame : Nat
  iter : Nat
  len : Nat
  mask : Nat
  pmask : Nat
  opc : Nat
  seqix : Nat
  /-- The channel, 0 to 63; none for LCFG. -/
  chan : Nat
  /-- Reply port plus one, 0 for none. -/
  reply : Nat
  wide : Bool
  rw : Nat
  /-- Messages not yet complete. -/
  left : List Nat
  /-- The result is known, and waits for its turn on the channel. -/
  done : Bool
  poisoned : Bool
  flags : Nat
  vals : List (Nat × Word)
  badLanes : Nat
  /-- The instruction is LFLUSH, whose receipt keeps its place on any channel (R435). -/
  place : Bool
deriving DecidableEq, Repr

/-- An arrival queued for a window: PUTN's prefix and slots (R427, R433). -/
structure Arrival where
  ty : Nat
  run : Nat
  mask : Nat
  slots : List Nat
deriving DecidableEq, Repr

/-- A message as its receiver tracks it (R420, R427). -/
structure RxMsg where
  msn : Nat
  dsn : Nat
  kind : Nat
  npk : Nat
  written : List Nat
  done : Bool
  arrival : Option (Nat × Arrival)
  hdr : Pkt
  /-- The requester's tags of a GETQ's packets, by packet index, which the packets formed again carry too (R410, R423). -/
  tags : Table Nat Nat := []
deriving DecidableEq, Repr

/-- A receive record (R420): its key, its messages, NEXT, a CLOSE that waits, and its channel's class (R411). -/
structure RxRec where
  sdev : Nat
  sport : Nat
  chan : Nat
  msgs : List RxMsg := []
  next : Nat := 0
  closing : Option Pkt := none
  tc : Nat := 0
deriving DecidableEq, Repr

/-- A re-request (R422): the trimmed header, the trim count, when it is eligible, and whether it has been sent. -/
structure Rreq where
  hdr : Pkt
  t : Nat
  eligible : Nat
  sent : Bool
deriving DecidableEq, Repr

/-- A link node with its Flitis port (R406, R409, R440). -/
structure LinkNode where
  chans : Table Nat Chan := []
  msgs : List Msg := []
  nextMsg : Nat := 1
  ops : List LinkOp := []
  nextOp : Nat := 1
  recs : List RxRec := []
  rreqs : List Rreq := []
  /-- Contexts of freed blocks whose channels are not all closed (R439), and their partitions (R440). -/
  leaving : List (Nat × Nat) := []
  up : Bool := false
  badPkt : Nat := 0
  replays : Nat := 0
  trimTx : Nat := 0
  trimRx : Nat := 0
  rrSent : Nat := 0
  rrRecv : Nat := 0
  retx : Nat := 0
  lostRx : Nat := 0
  psup : Nat := 0
  /-- Wire: the flit numbers expected and next to send, whether a replay is awaited, the bytes of a packet under way by
  class, packets waiting for credit (class and flits left), the data class whose packet is half sent and the data class
  served last, credits by class, credits owed to the far end by class, flits kept for replay. -/
  rxSeq : Nat := 0
  txSeq : Nat := 0
  awaiting : Bool := false
  rxPart : Table Nat (List Byte) := []
  txq : List (Nat × List (List Byte)) := []
  txMid : Option Nat := none
  txLast : Nat := 1
  credits : List Nat := [512, 512, 512, 512]
  owedCred : List Nat := [0, 0, 0, 0]
  kept : List (Nat × List Byte) := []
deriving DecidableEq, Repr

/-- A receive window: LE_RXWw, LE_RXBw, LE_RXLw with its binding and its arrival queue (R417, R427, R436, R440). -/
structure RxWin where
  en : Bool := false
  part : Nat := 0
  port : Nat := 0
  rkey : Nat := 0
  bound : Bool := false
  bctx : Nat := 0
  bport : Nat := 0
  bframe : Nat := 0
  bregion : Nat := 0
  gbase : Nat := 0
  len : Nat := 0
  arrivals : List Arrival := []
deriving DecidableEq, Repr

/-! ## Saved launches -/

/-- A saved launch: what lies in its save area behind the header (R463), held by the area's address. -/
structure Saved where
  /-- The number of the save, which also stands in the area behind the header: the model's own mark. -/
  serial : Nat
  part : Nat
  /-- The save area's address and the SPA of its first line. -/
  save : Nat
  digest : List Byte
  region : Region
  nodes : Table Coord Node
  stores : Table Coord Store
  clusters : Table Nat Cluster
  mes : Table Coord Me
  copies : Table Coord Copy
  matrices : Table Coord Matrix
  tills : Table Coord Till
  clearing : Clearing
  transfers : List Transfer
  images : List Image
  opens : List OpenRec
  chans : Table (Nat × Nat) Chan
  windows : Table Nat RxWin
deriving DecidableEq, Repr

/-! ## Device -/

/-- Device-wide registers (R342, R440, R490, R499, R503) and the firmware slot (R499, R500). -/
structure Dev where
  /-- DEV_STAT: STATE, TEMP, THR. -/
  state : Nat := 0
  temp : Nat := 0
  thr : Nat := 0
  /-- DEV_HBASE.BASE. -/
  hbase : Nat := 0x200
  /-- CXM_MAPi: enable, length in GiB, base [47:30]. -/
  cxm : Table Nat (Bool × Nat × Nat) := []
  /-- CL_OWNERg: EN and PART. -/
  owner : Table Nat (Bool × Nat) := []
  /-- HS_SPLIT. -/
  ws : Nat := 0
  wsErr : Bool := false
  cap : Nat := 2800
  corr : Nat := 0
  uncorr : Nat := 0
  hours : Nat := 24
  fwCtl : Word := 0
  fwBusy : Bool := false
  fwResult : Nat := 0
  svn : Nat := 0
  minSvn : Nat := 0
  leaves : Nat := 2 ^ 20
  /-- The image slot: header and body. -/
  fwSlot : List Byte := []
  devno : Nat := 0
  wm1 : Nat := 7
  t0e : Nat := 10
  cape : Nat := 17
  tq : Nat := 256
  xtrim : Table (Nat × Nat) Nat := []
deriving DecidableEq, Repr


/-! ## The machine -/

/-- The machine. -/
structure State where
  /-- Steps taken: the argument of every free value (Config.free). The model's own field, not the manual's. -/
  freeCtr : Nat
  /-- The schedule still to come. The model's own field. -/
  turns : List Turn
  cur : Cur
  /-- DEV_CYC and DEV_USEC (R490). -/
  cyc : Nat
  usec : Nat
  /-- Memory by system physical address (R486). -/
  mem : List Host.Cell
  nodes : Table Coord Node
  stores : Table Coord Store
  clusters : Table Nat Cluster
  mes : Table Coord Me
  regions : List Region
  nextRegion : Nat
  parts : Table Nat Partition
  queues : Table Nat Queue
  /-- SNAPSHOTs that are not complete, and answers held by a cut, oldest first. -/
  snaps : List Snap
  heldAnswers : List HeldAnswer
  notify : Table Nat Notify
  /-- MSI-X messages sent, by vector, oldest first (R127). -/
  msix : List Nat
  wire : List Wire
  strobes : List Strobe
  ops : List Op
  nextOp : Nat
  walks : List Walk
  images : List Image
  /-- Tap slots by die and slot, and the collectors of the dies. -/
  taps : Table (Nat × Nat) Tap
  collectors : Table Nat (List TapRec)
  copies : Table Coord Copy
  matrices : Table Coord Matrix
  slices : Table Nat Slice
  /-- Lines with an uncorrectable error, poisoned until a write covers them (R502). -/
  badLines : List Nat
  tills : Table Coord Till
  /-- Clearing, by region. -/
  clearings : Table Nat Clearing
  transfers : List Transfer
  nextTransfer : Nat
  links : Table Nat LinkNode
  windows : Table Nat RxWin
  /-- Packets on their way into link nodes, and packets and flits that have left the device, oldest first. -/
  packets : List PktIn
  sentPackets : List (Nat × Packet)
  sentFlits : List (Nat × List Byte)
  saved : List Saved
  nextSave : Nat
  /-- The data that the last host read returned (R484). -/
  hostRead : List Byte
  dev : Dev
deriving DecidableEq, Repr

/-- The machine right after device reset: nothing runs, nothing is owned, every partition is in reset, memory lists
nothing, and every register holds the value that its table gives. The registers to which the manual gives none hold 0
(log 5). -/
def State.reset : State where
  freeCtr := 0
  turns := []
  cur := { pos := { die := 0, x := 0, y := 0 } }
  cyc := 0
  usec := 0
  mem := []
  nodes := []
  stores := []
  clusters := []
  mes := []
  regions := []
  nextRegion := 1
  parts := []
  queues := []
  snaps := []
  heldAnswers := []
  notify := []
  msix := []
  wire := []
  strobes := []
  ops := []
  nextOp := 1
  walks := []
  images := []
  taps := []
  collectors := []
  copies := []
  matrices := []
  slices := []
  badLines := []
  tills := []
  clearings := []
  transfers := []
  nextTransfer := 1
  links := []
  windows := []
  packets := []
  sentPackets := []
  sentFlits := []
  saved := []
  nextSave := 0
  hostRead := []
  dev := {}

end Sys2Proof.Machine
end

