-- ==== Sys2Proof/Machine/Ops.lean ====
section
/-! DEFINITION. The named operations over the state: access to nodes, contexts, frames and clusters, memory, fault
records, taking a frame fault (the machine's exception) and the return from it. -/

namespace Sys2Proof.Machine

/-- What a step answers. -/
abbrev Out := Host.Outcome State Fault Refusal

/-- A free value of this step (Config.free, log 1). -/
def State.free (s : State) (use : Nat) : Nat := Config.free s.freeCtr use

/-! ## Access -/

/-- A node. -/
def State.node (s : State) (c : Coord) : Node := s.nodes.get {} c
/-- Replace a node. -/
def State.setNode (s : State) (c : Coord) (n : Node) : State := { s with nodes := s.nodes.set c n }
/-- Change a node. -/
def State.modNode (s : State) (c : Coord) (f : Node → Node) : State := s.setNode c (f (s.node c))
/-- A context of a node. -/
def Node.ctx (n : Node) (k : Nat) : Ctx := n.ctxs.getD k {}
/-- Replace a context of a node. -/
def Node.setCtx (n : Node) (k : Nat) (x : Ctx) : Node := { n with ctxs := setNth n.ctxs k x }
/-- A context. -/
def State.ctx (s : State) (c : Coord) (k : Nat) : Ctx := (s.node c).ctx k
/-- Change a context. -/
def State.modCtx (s : State) (c : Coord) (k : Nat) (f : Ctx → Ctx) : State :=
  s.modNode c fun n => n.setCtx k (f (n.ctx k))
/-- The firing in a slot. -/
def Node.slot (n : Node) (i : Nat) : Option Firing := n.slots.getD i none
/-- Put a firing into a slot, or empty it. -/
def Node.setSlot (n : Node) (i : Nat) (f : Option Firing) : Node :=
  let l := n.slots ++ List.replicate (i + 1 - n.slots.length) none
  { n with slots := setNth l i f }
/-- Change the firing in a slot. -/
def State.modSlot (s : State) (c : Coord) (i : Nat) (f : Firing → Firing) : State :=
  s.modNode c fun n => n.setSlot i ((n.slot i).map f)
/-- A matching store. -/
def State.store (s : State) (c : Coord) : Store := s.stores.get {} c
/-- Change a matching store. -/
def State.modStore (s : State) (c : Coord) (f : Store → Store) : State :=
  { s with stores := s.stores.set c (f (s.store c)) }
/-- A cluster. -/
def State.cluster (s : State) (g : Nat) : Cluster := s.clusters.get {} g
/-- Change a cluster. -/
def State.modCluster (s : State) (g : Nat) (f : Cluster → Cluster) : State :=
  { s with clusters := s.clusters.set g (f (s.cluster g)) }
/-- A Memory Element. -/
def State.me (s : State) (c : Coord) : Me := s.mes.get {} c
/-- Change a Memory Element. -/
def State.modMe (s : State) (c : Coord) (f : Me → Me) : State := { s with mes := s.mes.set c (f (s.me c)) }
/-- A partition block. -/
def State.partOf (s : State) (p : Nat) : Partition := s.parts.get {} p
/-- Change a partition block. -/
def State.modPart (s : State) (p : Nat) (f : Partition → Partition) : State :=
  { s with parts := s.parts.set p (f (s.partOf p)) }
/-- A hardware queue. -/
def State.queue (s : State) (q : Nat) : Queue := s.queues.get {} q
/-- Change a hardware queue. -/
def State.modQueue (s : State) (q : Nat) (f : Queue → Queue) : State :=
  { s with queues := s.queues.set q (f (s.queue q)) }
/-- A notify register. -/
def State.nfy (s : State) (k : Nat) : Notify := s.notify.get {} k
/-- Change a notify register. -/
def State.modNfy (s : State) (k : Nat) (f : Notify → Notify) : State :=
  { s with notify := s.notify.set k (f (s.nfy k)) }
/-- A region by its number. -/
def State.region (s : State) (r : Nat) : Option Region := s.regions.find? fun x => x.id == r
/-- Change a region. -/
def State.modRegion (s : State) (r : Nat) (f : Region → Region) : State :=
  { s with regions := s.regions.map fun x => if x.id == r then f x else x }
/-- A block of a region. -/
def Region.blk (r : Region) (b : Nat) : Blk := r.blks.get {} b
/-- Change a block of a region. -/
def Region.modBlk (r : Region) (b : Nat) (f : Blk → Blk) : Region := { r with blks := r.blks.set b (f (r.blk b)) }
/-- Change a block. -/
def State.modBlk (s : State) (r b : Nat) (f : Blk → Blk) : State := s.modRegion r fun x => x.modBlk b f
/-- A frame-table entry. -/
def Region.frame (r : Region) (f : Nat) : Frame := r.frames.get {} f
/-- A frame of a region; a free one when there is no such region. -/
def State.frame (s : State) (r f : Nat) : Frame :=
  match s.region r with
  | some x => x.frame f
  | none => {}
/-- Change a frame. -/
def State.modFrame (s : State) (r f : Nat) (g : Frame → Frame) : State :=
  s.modRegion r fun x => { x with frames := x.frames.set f (g (x.frame f)) }
/-- A party set of a region. -/
def Region.pset (r : Region) (k : Nat) : PartySet := r.psets.get {} k
/-- Change a party set. -/
def State.modPset (s : State) (r k : Nat) (f : PartySet → PartySet) : State :=
  s.modRegion r fun x => { x with psets := x.psets.set k (f (x.pset k)) }

/-- Saturating addition to a counter of `w` bits. -/
def satAdd (w a b : Nat) : Nat := min (a + b) (2 ^ w - 1)

/-! ## Words of a context and of a header -/

/-- REQ bit of a port (R66). -/
def Ctx.req (x : Ctx) (port : Nat) : Bool := bit x.cw.toNat (60 + port)
/-- MODE: 0 exact, 1 run-overlap, 2 any-one, 3 counter source (R66). -/
def Ctx.mode (x : Ctx) : Nat := bits x.cw.toNat 58 2
/-- SEQBASE (R66). -/
def Ctx.seqBase (x : Ctx) : Nat := bits x.cw.toNat 54 4
/-- The firing sequence's length (R66). -/
def Ctx.seqLen (x : Ctx) : Nat := if x.niws.isEmpty then 0 else bits x.cw.toNat 50 4 + 1
/-- DRM (R66). -/
def Ctx.drm (x : Ctx) : Nat := bits x.cw.toNat 47 3
/-- CSEL (R66). -/
def Ctx.csel (x : Ctx) : Nat := bits x.cw.toNat 45 2
/-- CRUNM1 + 1 (R66). -/
def Ctx.crun (x : Ctx) : Nat := bits x.cw.toNat 40 5 + 1
/-- OUTM bit of a port (R66). -/
def Ctx.outm (x : Ctx) (port : Nat) : Bool := bit x.cw.toNat (36 + port)
/-- DEPn (R66, R169). -/
def Ctx.dep (x : Ctx) (port : Nat) : Nat := bits x.cw.toNat (12 + 6 * port) 6
/-- Set DEPn (R169). -/
def Ctx.setDep (x : Ctx) (port d : Nat) : Ctx :=
  { x with cw := BitVec.ofNat 64 (setBits x.cw.toNat (12 + 6 * port) 6 d) }
/-- SLOTM bit of a constant (R66). -/
def Ctx.slotm (x : Ctx) (k : Nat) : Bool := bit x.cw.toNat (4 + k)
/-- The ports that take part in matching, ascending. -/
def Ctx.reqPorts (x : Ctx) : List Nat := [0, 1, 2, 3].filter x.req
/-- The ports that OUTM marks, ascending. -/
def Ctx.outPorts (x : Ctx) : List Nat := [0, 1, 2, 3].filter x.outm
/-- The words of the firing sequence, in order (R56, R94: the node record fills the store from SEQBASE). -/
def Ctx.sequence (x : Ctx) : List Word := (x.niws.drop x.seqBase).take x.seqLen
/-- A routing word. -/
def Ctx.rw (x : Ctx) (k : Nat) : RWord := x.rws.getD k { obj := 0, res := 0, closed := false, sent := [] }
/-- Change a routing word. -/
def Ctx.modRw (x : Ctx) (k : Nat) (f : RWord → RWord) : Ctx := { x with rws := setNth x.rws k (f (x.rw k)) }
/-- V of the object form: the context has the routing word (R69). -/
def RWord.present (r : RWord) : Bool := bit r.obj.toNat 11
/-- V of the resident form: the word is resolved (R68). -/
def RWord.resolved (r : RWord) : Bool := bit r.res.toNat 14
/-- MCV, equal in both forms (R70). -/
def RWord.mcv (r : RWord) : Nat := bits r.obj.toNat 12 16
/-- EDGE. -/
def RWord.edge (r : RWord) : Nat := bits r.obj.toNat 28 13
/-- TBLK, the block that holds the target (R69). -/
def RWord.tblk (r : RWord) : Nat := bits r.obj.toNat 43 6
/-- CTX of the resident form. -/
def RWord.ctx (r : RWord) : Nat := bits r.res.toNat 44 3
/-- PORT. -/
def RWord.port (r : RWord) : Nat := bits r.obj.toNat 41 2
/-- The named position of the resident form. -/
def RWord.base (r : RWord) : Coord :=
  mkCoord (bits r.res.toNat 60 4) (bits r.res.toNat 54 6) (bits r.res.toNat 49 5)

/-- The coordinate at cluster offset (i mod 4, i div 4) from a node, in the same position of its cluster (R70). A target
lies on the same die as the named position. -/
def shiftCluster (c : Coord) (i : Nat) : Coord :=
  if i = 0 then c
  else match kindOf c with
    | .ce | .me => { c with x := c.x + BitVec.ofNat 6 (4 * (i % 4)), y := c.y + BitVec.ofNat 5 (4 * (i / 4)) }
    | .link | .reserved => c
    | _ => clusterNode (clusterOf c + i % 4 + 48 * (i / 4)) (nkOf c)

/-- The target of one multicast bit. -/
def RWord.target (r : RWord) (i : Nat) : Coord := shiftCluster r.base i
/-- The multicast targets of the word. -/
def RWord.targets (r : RWord) : List Nat := maskLanes r.mcv 16

/-- Fields of the Bonko header (R91). -/
def Region.hw (r : Region) (i : Nat) : Nat := (r.hdr.getD i 0).toNat
def Region.vw (r : Region) : Nat := bits (r.hw 1) 56 8
def Region.vh (r : Region) : Nat := bits (r.hw 1) 48 8
def Region.minW (r : Region) : Nat := bits (r.hw 1) 40 8
def Region.minH (r : Region) : Nat := bits (r.hw 1) 32 8
/-- The declared frame budget. -/
def Region.budget (r : Region) : Nat := bits (r.hw 1) 22 10 + 1
/-- Declared party sets. -/
def Region.parties (r : Region) : Nat := bits (r.hw 1) 11 7
def Region.scratch (r : Region) : Nat := bits (r.hw 2) 47 17
def Region.nblk (r : Region) : Nat := bits (r.hw 2) 40 7
def Region.seglim (r : Region) : Nat := bits (r.hw 7) 32 32
/-- Region width and height in elements (R23). -/
def Region.ew (r : Region) : Nat := 4 * r.w
def Region.eh (r : Region) : Nat := 4 * r.h
/-- ceil(a / b). -/
def ceilDiv (a b : Nat) : Nat := (a + b - 1) / b
/-- Fold factors (R23). -/
def Region.fx (r : Region) : Nat := ceilDiv r.vw r.ew
def Region.fy (r : Region) : Nat := ceilDiv r.vh r.eh
/-- n, the context count of every block (R23). -/
def Region.n (r : Region) : Nat := r.fx * r.fy
/-- k, the blocks that can be resident at once (R99). -/
def Region.k (r : Region) : Nat := min (8 / r.n) r.nblk
/-- TAGS of a block (R93). -/
def Region.tags (r : Region) (b : Nat) : Nat := bits ((r.blkTab.getD b (0, 0)).1.toNat) 12 4
/-- The clusters of the region, ascending (R18). -/
def Region.clusters (r : Region) : List Nat :=
  (List.range r.h).flatMap fun j => (List.range r.w).map fun i => (r.gx + i) + 48 * (r.gy + j)
/-- The anchor cluster (R18). -/
def Region.anchor (r : Region) : Nat := r.gx + 48 * r.gy
/-- The Till coordinate of the anchor: the Sequencer's coordinate and, as port P3, its port (R15, R17). -/
def Region.seqCoord (r : Region) : Coord := clusterNode r.anchor 5
/-- Every node coordinate of the region's clusters. -/
def Region.nodes (r : Region) : List Coord := r.clusters.flatMap clusterNodes
/-- phys(vx, vy) (R24). -/
def Region.phys (r : Region) (vx vy : Nat) : Coord := elemCoord (4 * r.gx + vx % r.ew) (4 * r.gy + vy % r.eh)
/-- fold_index of a virtual element (R24). -/
def Region.fold (r : Region) (vx vy : Nat) : Nat := vx / r.ew + r.fx * (vy / r.eh)
/-- The physical node of a virtual node of a kind (R24, R70). -/
def Region.physNode (r : Region) (vx vy nk : Nat) : Coord :=
  if nk = 0 then r.phys vx vy
  else if nk = 6 then linkNode vx
  else clusterNode (clusterOf (r.phys vx vy)) nk
/-- Older of two frames: f is older than g when (AGE(g) − AGE(f)) mod 2^31 lies in [1, 2^30) (R146). -/
def olderAge (f g : Nat) : Bool :=
  let d := (g + 2 ^ 31 - f) % 2 ^ 31
  decide (1 ≤ d ∧ d < 2 ^ 30)

/-! ## Memory -/

/-- What an unlisted address reads as: 0 (DESIGN CHOICE, log 4: the manual leaves HBM's contents undefined). -/
def Memory.blank : Byte := 0

/-- The byte at an address of a list of cells. -/
def Memory.read (m : List Host.Cell) (a : Nat) : Byte :=
  match m with
  | [] => Memory.blank
  | (a', b) :: rest => if a' = a then b else Memory.read rest a

/-- The cells with a byte written, in canonical form: addresses strictly rising, and no entry that equals what an
unlisted address reads as. -/
def Memory.write (m : List Host.Cell) (a : Nat) (b : Byte) : List Host.Cell :=
  match m with
  | [] => if b = Memory.blank then [] else [(a, b)]
  | (a', b') :: rest =>
    if a < a' then (if b = Memory.blank then (a', b') :: rest else (a, b) :: (a', b') :: rest)
    else if a = a' then (if b = Memory.blank then rest else (a, b) :: rest)
    else (a', b') :: Memory.write rest a b

/-- The canonical form: addresses strictly rise, from at least `lo`, and no entry is blank. -/
def Memory.wfFrom (lo : Nat) : List Host.Cell → Bool
  | [] => true
  | (a, b) :: rest => decide (lo ≤ a) && decide (b ≠ Memory.blank) && Memory.wfFrom (a + 1) rest

/-- The canonical form of a list of cells. -/
def Memory.wf (m : List Host.Cell) : Bool := Memory.wfFrom 0 m

/-- Consecutive bytes written. -/
def Memory.writes (m : List Host.Cell) (a : Nat) : List Byte → List Host.Cell
  | [] => m
  | b :: bs => Memory.writes (Memory.write m a b) (a + 1) bs

/-- Bytes written each at its own address. -/
def Memory.writeCells (m : List Host.Cell) : List Host.Cell → List Host.Cell
  | [] => m
  | (a, b) :: cs => Memory.writeCells (Memory.write m a b) cs

/-- `k` consecutive bytes. -/
def Memory.reads (m : List Host.Cell) (a k : Nat) : List Byte := (List.range k).map fun i => Memory.read m (a + i)

/-- A little-endian value of `k` bytes (R5). -/
def Memory.value (m : List Host.Cell) (a k : Nat) : Nat := ofBytes (Memory.reads m a k)

/-- An eight-byte word of memory. -/
def State.memWord (s : State) (a : Nat) : Word := BitVec.ofNat 64 (Memory.value s.mem a 8)

/-- Bytes of memory written. -/
def State.memWrite (s : State) (a : Nat) (bs : List Byte) : State := { s with mem := Memory.writes s.mem a bs }

/-! ## Frames -/

/-- TCNT changes (R147); it never falls below 0, and keeps to its 20 bits. -/
def State.tcntAdd (s : State) (r f k : Nat) : State :=
  s.modFrame r f fun x => { x with tcnt := (x.tcnt + k) % 2 ^ 20 }
/-- TCNT falls. -/
def State.tcntSub (s : State) (r f k : Nat) : State := s.modFrame r f fun x => { x with tcnt := x.tcnt - k }

/-- Frames in STATE 1 or 2 (R146). -/
def Region.liveFrames (r : Region) : Nat := (r.frames.filter fun p => p.2.state != 0).length

/-- The lowest free frame (R146). -/
def Region.lowestFree (r : Region) : Option Nat := (List.range 1024).find? fun f => (r.frame f).state == 0

/-- One grant of the Mint (R146): STATE 1, S, BLK, TCNT 0, AGE from the grant counter, the reported bit clear. -/
def Region.grant (r : Region) (blk : Nat) : Option (Region × Nat) :=
  match r.lowestFree with
  | some f =>
    some ({ r with frames := r.frames.set f { state := 1, s := r.tags blk, blk := blk, age := r.grants },
                   grants := (r.grants + 1) % 2 ^ 31 }, f)
  | none => none

/-- `k` grants in order; none when one cannot be made. -/
def Region.grantMany (r : Region) (blk : Nat) : Nat → Option (Region × List Nat)
  | 0 => some (r, [])
  | k + 1 =>
    match r.grant blk with
    | some (r', f) =>
      match Region.grantMany r' blk k with
      | some (r'', fs) => some (r'', f :: fs)
      | none => none
    | none => none

/-- A progress event of a region: the watchdog's count starts again (R458). -/
def State.progress (s : State) (r : Nat) : State := s.modRegion r fun x => { x with wdog := 0 }

/-! ## Fault records -/

/-- The eight words of a record (R129). -/
def FaultInfo.words (i : FaultInfo) (part queue lid time recno : Nat) : List Word :=
  let tag := if i.fv then [(5, i.len - 1), (12, i.iter), (10, i.frame), (3, i.ctx)] else [(5, 0), (12, 0), (10, 0), (3, 0)]
  [BitVec.ofNat 64 (pack ([(8, i.opc)] ++ tag ++ [(3, i.nk), (5, i.pos.y.toNat), (6, i.pos.x.toNat),
     (4, i.pos.die.toNat), (8, i.cause)])),
   BitVec.ofNat 64 (pack [(48, i.addr), (2, i.akind), (4, i.seqix), (6, queue), (4, part)]),
   BitVec.ofNat 64 (pack [(32, i.lmask), (32, i.pmask)]),
   BitVec.ofNat 64 (pack [(16, i.detail), (16, i.jobid), (32, i.mnprog)]),
   BitVec.ofNat 64 time,
   BitVec.ofNat 64 i.auxv,
   BitVec.ofNat 64 (pack [(7, i.flags), (25, 0), (32, recno)]),
   BitVec.ofNat 64 (pack [(1, b2n i.parked), (1, b2n i.fv), (30, 0), (32, lid)])]

/-- Records that the device can hold before a poster waits (R495). -/
def heldMax : Nat := 64

/-- A record can be posted now (R495). -/
def State.canPost (s : State) (part : Nat) : Bool := decide ((s.partOf part).held.length < heldMax)

/-- Post a record of a partition: it takes the next RECNO and is held until it is written to the ring (R129, R495). -/
def State.post (s : State) (part queue lid : Nat) (i : FaultInfo) : State :=
  s.modPart part fun p =>
    { p with recno := (p.recno + 1) % 2 ^ 32,
             held := p.held ++ [{ words := i.words part queue lid s.cyc p.recno }] }

/-- Post a record for a region; with PARKED it is also open, and `hold` says what it stops (R442). -/
def State.postFor (s : State) (r : Region) (hold : Hold) (i : FaultInfo) : State :=
  let recno := (s.partOf r.part).recno
  let s := s.post r.part r.queue r.lid i
  if i.parked then
    s.modPart r.part fun p =>
      { p with opens := p.opens ++ [{ recno := recno, region := r.id, part := r.part, frame := i.frame,
                                      cause := i.cause, detail := i.detail, hold := hold, pos := i.pos, ctx := i.ctx,
                                      words := i.words r.part r.queue r.lid s.cyc recno }] }
  else s

/-- A poster waits: its event takes no further effect, and WAITC counts the cycles until space frees (R495). -/
def State.waitToPost (s : State) (part : Nat) : State :=
  s.modPart part fun p => { p with waiting := true }

/-- Cause codes (R130). -/
def Cause.illegalCfg : Nat := 0x01
def Cause.illegalInsn : Nat := 0x02
def Cause.cfgOvercommit : Nat := 0x03
def Cause.capCheck : Nat := 0x04
def Cause.cfgFetch : Nat := 0x05
def Cause.badCmd : Nat := 0x06
def Cause.frameBudget : Nat := 0x10
def Cause.tagRange : Nat := 0x11
def Cause.partyBudget : Nat := 0x12
def Cause.xlate : Nat := 0x18
def Cause.access : Nat := 0x19
def Cause.sbounds : Nat := 0x1a
def Cause.align : Nat := 0x1b
def Cause.bitmap : Nat := 0x20
def Cause.mcastPart : Nat := 0x28
def Cause.trimLimit : Nat := 0x30
def Cause.trap : Nat := 0x38
def Cause.watchdog : Nat := 0x39
def Cause.beat : Nat := 0x3a
def Cause.poisonSink : Nat := 0x3b
def Cause.eccUncorr : Nat := 0x40

/-! ## Strobes -/

/-- A strobe set on its way (R34). -/
def State.sendStrobe (s : State) (src dst : Peer) (region sk : Nat) (arg : List (Nat × Nat)) (batch : Nat := 0) : State :=
  let m : Strobe := { src := src, dst := dst, region := region, word := encodeStrobe sk (BitVec.ofNat 48 (pack arg)), batch := batch }
  { s with strobes := s.strobes ++ [m] }

/-! ## Buffers -/

/-- Port P3 of the anchor's Till coordinate is the Sequencer's (R17, R112). -/
def isSeqPort (c : Coord) (port : Nat) : Bool := decide (kindOf c = .till ∧ port = 3)

/-- Shared buffers of a cluster (R131). -/
def sharedMax : Nat := 32

/-- Buffers of a token pool that no context can reserve: 32 of a cluster (R131), and of a link node's 256 those that its
contexts have not reserved (R407). -/
def State.sharedCap (s : State) (c : Coord) : Nat :=
  if kindOf c = .link then 256 - (s.node c).ctxs.foldl (fun n x => n + [0, 1, 2, 3].foldl (fun n p => n + x.dep p) 0) 0
  else sharedMax

/-- A payload lies in the token pool: in a Chit or a shared buffer. -/
def Buf.inPool : Buf → Bool
  | .chit | .shared _ => true
  | _ => false

/-- Give a Chit back: the credit returns to the producer (R140). -/
def State.returnChit (s : State) (c : Coord) (k port : Nat) : State :=
  s.modCtx c k fun x => { x with used := setNth x.used port (x.used.getD port 0 - 1) }

/-- Does any piece or ungathered firing of the store still lie in a buffer of an arrival at a port of a node? -/
def State.bufHeld (s : State) (st dst : Coord) (k port arr : Nat) (buf : Buf) : Bool :=
  let mine (p : Piece) : Bool :=
    decide (p.arr = arr ∧ p.buf = buf ∧ p.tok.dst = dst ∧ p.tok.ctx = k ∧ p.tok.port = port)
  let t := s.store st
  let fires (f : Firing) : Bool :=
    decide (f.ctx = k) && !f.gathered && f.ports.any fun i => decide (i.port = port ∧ i.arr = arr ∧ i.buf = buf)
  let n := s.node dst
  t.entries.any mine || t.pend.any mine || t.overflow.any mine || t.held.any mine ||
    n.admitted.any fires || (n.slots.any fun o => match o with | some f => fires f | none => false) ||
    ((s.cluster (clusterOf dst)).withdrawn.any fun w => decide (w.store = st) && mine w.piece)

/-- A token or piece has left its buffer: the Chit returns, or the shared buffer frees, once nothing else lies in it (R134,
R140, R141). The piece has been taken out of its place before. -/
def State.leaveBuf (s : State) (dst : Coord) (k port arr : Nat) (buf : Buf) : State :=
  match buf with
  | .chit => if s.bufHeld (storeOf dst) dst k port arr buf then s else s.returnChit dst k port
  | .shared _ =>
    if s.bufHeld (storeOf dst) dst k port arr buf then s
    else s.modCluster (clusterOf dst) fun g => { g with shared := g.shared - 1 }
  | _ => s

/-- A shared buffer is free for a token of a node (R131, R407). -/
def State.sharedFree (s : State) (c : Coord) : Bool := decide ((s.cluster (clusterOf c)).shared < s.sharedCap c)

/-- Spill cells of a cluster's MEs, by the region's windows (R213). -/
def State.spillMax (s : State) (region : Nat) : Nat :=
  match s.region region with
  | some r => 8 * ((81920 - ceilDiv (r.k * r.n * r.scratch) 256 * 256) / 256)
  | none => 0

/-- The spill cell in which a payload lies, if it lies in one. -/
def Buf.cell? : Buf → Option Nat
  | .spill c => some c
  | _ => none

/-- Cells of a cluster's spill map in use: tokens that left the Vault, and withdrawn tokens (R213, R444). -/
def Cluster.spillCells (g : Cluster) : List Nat :=
  g.spill.filterMap (fun v => Buf.cell? v.piece.buf) ++ g.withdrawn.filterMap fun w => Buf.cell? w.piece.buf

/-- How many cells of a cluster's spill map are in use. -/
def Cluster.spillUsed (g : Cluster) : Nat := g.spillCells.length

/-- The lowest free cell of a cluster's spill map (R213). -/
def Cluster.freeCell (g : Cluster) : Nat :=
  let used := g.spillCells
  ((List.range (used.length + 1)).find? fun c => !used.contains c).getD used.length

/-! ## Parked frames -/

/-- The cluster holds a park notice of the frame (R444). -/
def State.parkSeen (s : State) (g region f : Nat) : Bool := (s.cluster g).parkSeen.contains (region, f)

/-- Size of a partition's Escrow area in cells of 4 KiB (R443). -/
def Partition.cellsMax (p : Partition) : Nat :=
  if bit p.escArea.toNat 63 then 256 * 2 ^ (bits p.escArea.toNat 59 4) else 0

/-- Escrow slots of a cluster (R131). -/
def escrowSlots : Nat := 64

/-- The regions of a partition. -/
def State.isPart (s : State) (region part : Nat) : Bool :=
  match s.region region with
  | some r => r.part == part
  | none => false

/-- The place in the Escrow area at which a parked token lies, if it lies there. -/
def Buf.escrowPlace? : Buf → Option Nat
  | .cell i => some i
  | _ => none

/-- The places of a partition's parked tokens. -/
def State.tokenPlaces (s : State) (part : Nat) : List Nat :=
  s.clusters.flatMap fun c => c.2.withdrawn.filterMap fun w => if s.isPart w.region part then Buf.escrowPlace? w.piece.buf else none

/-- The cells of a partition's parked tokens, once for each token. -/
def State.tokenCellList (s : State) (part : Nat) : List Nat := (s.tokenPlaces part).map (· / 16)

/-- The cells of a partition's firing images. -/
def State.imageCellList (s : State) (part : Nat) : List Nat :=
  s.images.filterMap fun im => if s.isPart im.region part then im.cell else none

/-- Cells of a partition's area in use (R443, R475). -/
def State.escrowCells (s : State) (part : Nat) : Nat := ((s.tokenCellList part).eraseDups ++ s.imageCellList part).length

/-- The lowest free cell of a partition's area (R443). -/
def State.freeEscrowCell (s : State) (part : Nat) : Option Nat :=
  let used := s.tokenCellList part ++ s.imageCellList part
  (List.range (min (s.partOf part).cellsMax (used.length + 1))).find? fun i => !used.contains i

/-- A cell is free for a firing image (R445). -/
def State.cellFree (s : State) (part : Nat) : Bool := (s.freeEscrowCell part).isSome

/-- A firing of the partition waits for a cell (R445). -/
def State.cellAwaited (s : State) (part : Nat) : Bool :=
  s.images.any fun im => im.cell.isNone && im.recno.isSome && !im.ready && s.isPart im.region part

/-- The place that takes the next parked token: the lowest that is free in a cell which holds tokens, sixteen a cell, or the first of
the lowest free cell, which goes to firings that wait for one first (R443, R445). -/
def State.tokenPlace (s : State) (part : Nat) : Option Nat :=
  let used := s.tokenPlaces part
  let cells := sortBy (fun a b => decide (a ≤ b)) (s.tokenCellList part).eraseDups
  match (cells.flatMap fun i => (List.range 16).map (16 * i + ·)).find? fun i => !used.contains i with
  | some i => some i
  | none => if s.cellAwaited part then none else (s.freeEscrowCell part).map (16 * ·)

/-- Escrow reads or writes bytes of a partition's area, at their home slices (R443). -/
def State.cellAccess (s : State) (part : Nat) (write : Bool) (off k : Nat) : State :=
  s.modPart part fun p => { p with cellOps := p.cellOps ++ [(write, off, k)] }

/-- Escrow reads or writes a parked token where it lies, if that is a place in the area (R443). -/
def State.tokenAccess (s : State) (region : Nat) (write : Bool) (b : Buf) : State :=
  match b.escrowPlace?, s.region region with
  | some i, some r => s.cellAccess r.part write (256 * i) 256
  | _, _ => s

/-- Escrow reads or writes a firing image in its cell, if it has one (R443). -/
def State.imageAccess (s : State) (region : Nat) (write : Bool) (cell : Option Nat) : State :=
  match cell, s.region region with
  | some i, some r => s.cellAccess r.part write (4096 * i) 4096
  | _, _ => s

/-- The first place that has room for a withdrawn token: an Escrow slot, a cell, the spill map (R444 step 5). -/
def State.withdrawnPlace (s : State) (region g : Nat) : Option Buf :=
  let cl := s.cluster g
  if (cl.withdrawn.filter fun w => w.piece.buf == .escrowSlot).length < escrowSlots then some .escrowSlot
  else match s.tokenPlace (match s.region region with | some r => r.part | none => 0) with
    | some i => some (.cell i)
    | none => if cl.spillUsed < s.spillMax region then some (.spill cl.freeCell) else none

/-- Withdraw a token of a parked frame (R444 steps 4 to 6): to the first place with room, its credit returning; or it
stays in its Chit, counted in STUCK. -/
def State.withdraw (s : State) (region : Nat) (st : Coord) (p : Piece) : State :=
  let g := clusterOf p.tok.dst
  match s.withdrawnPlace region g with
  | some b =>
    let s := s.modCluster g fun c => { c with withdrawn := c.withdrawn ++
      [{ region := region, store := st, piece := { p with buf := b } }], toSmap := satAdd 32 c.toSmap (b2n b.cell?.isSome) }
    (s.leaveBuf p.tok.dst p.tok.ctx p.tok.port p.arr p.buf).tokenAccess region true b
  | none =>
    let s := s.modCluster g fun c => { c with withdrawn := c.withdrawn ++ [{ region := region, store := st, piece := p }] }
    match s.region region with
    | some r => s.modPart r.part fun q => { q with stuck := satAdd 20 q.stuck 1 }
    | none => s

/-- A firing of which no instruction has taken effect gives its inputs back: they return to its store as withdrawn tokens
(R445). -/
def State.giveBack (s : State) (pos : Coord) (f : Firing) : State :=
  f.ports.foldl (fun s p =>
    match p.tok with
    | some t => s.withdraw f.region (storeOf pos) { arr := p.arr, buf := p.buf, tok := t }
    | none => s) s

/-! ## Taking a frame fault -/

/-- Park a frame (R444 step 2): the Mint sets PARKED and sends the park notice to every cluster of the region. A frame
that is parked already gets no second notice. -/
def State.parkFrame (s : State) (r : Region) (f : Nat) : State :=
  if (r.frame f).parked then s
  else
    let s := s.modFrame r.id f fun x => { x with parked := true }
    r.clusters.foldl (fun s g => s.sendStrobe (.anchor r.id) (.cluster g) r.id 9 [(38, 0), (10, f)]) s

/-- The tag, run, masks and position of a firing as a record gives them (R129). -/
def State.infoOf (s : State) (pos : Coord) (f : Firing) (cause detail : Nat) : FaultInfo :=
  { cause := cause, detail := detail, pos := pos, nk := nkOf pos, ctx := f.ctx, frame := f.frame, iter := f.iter,
    len := f.len, opc := (f.words.getD f.ix 0).toNat / 2 ^ 56, seqix := f.ix, pmask := f.pmask, lmask := f.tmask,
    flags := if kindOf pos = .me ∨ kindOf pos = .till then 0 else (s.ctx pos f.ctx).sf }

/-- No instruction of the firing has taken effect, and it has input tokens that it can give back (R445). -/
def Firing.untouched (f : Firing) : Bool :=
  f.ix == 0 && f.part == 0 && f.opid == 0 && !f.early && !f.gathered && !f.ports.isEmpty

/-- The device cannot hold the record of a frame fault: the frame is parked, and the record and its poster wait (R495, R504). -/
def State.waitParked (s : State) (r : Region) (f : Nat) : State := (s.waitToPost r.part).parkFrame r f

/-- Take the frame fault of the firing in a slot: the machine's one exception entry (R444, R445). The record is posted
with PARKED 1 and opens. A firing of which no instruction has taken effect gives its inputs back, one that trapped at its first as
well; any other stops at its
instruction, as an image that waits in its slot for an Escrow cell. The Mint parks the frame and sends the notices. While the
device's record queue is full, the frame is parked and the record waits with the firing (R495, R504). -/
def State.takeFrameFault (s : State) (pos : Coord) (slot : Nat) (hold : Hold) (i : FaultInfo) : Out :=
  match (s.node pos).slot slot with
  | none => .next s
  | some f =>
    match s.region f.region with
    | none => .next s
    | some r =>
      if !s.canPost r.part then
        .next ((s.modSlot pos slot fun f => { f with due := some (hold, i) }).waitParked r f.frame)
      else
        let recno := (s.partOf r.part).recno
        let s := s.postFor r hold { i with parked := true }
        let f := { f with due := none }
        let im : Image := { region := r.id, pos := pos, firing := { f with held := true }, recno := some recno, cell := none }
        let s :=
          if (hold = .firing ∨ hold = .trap) ∧ f.untouched then (s.modNode pos fun n => n.setSlot slot none).giveBack pos f
          else
            let s := s.modNode pos fun n => n.setSlot slot (some { f with held := true })
            { s with images := s.images ++ [im] }
        .next (s.parkFrame r f.frame)

/-- A report record (PARKED 0) of a firing, posted if the device can hold it; none when the poster must wait. -/
def State.report (s : State) (region : Nat) (i : FaultInfo) : Option State :=
  match s.region region with
  | none => some s
  | some r => if s.canPost r.part then some (s.postFor r .nothing { i with parked := false }) else none

/-- The first sink of a frame's grant to suppress a lane reports it (R456): the Mint's bit is set and one POISON_SINK
record is posted. -/
def State.reportSink (s : State) (pos : Coord) (f : Firing) (akind addr lane count : Nat) : State :=
  match s.region f.region with
  | none => s
  | some r =>
    if (r.frame f.frame).reported then s
    else
      let s := s.modFrame r.id f.frame fun x => { x with reported := true }
      s.postFor r .nothing { (s.infoOf pos f Cause.poisonSink (lane % 256)) with
        akind := akind, addr := addr, auxv := count, parked := false }

/-- The edge id that the record of a sink without an address names (R456): that of the routing word on which the instruction's receipt or
reply goes, 0 with none. Which edge it is, is this model's reading (log 76). -/
def State.sinkEdge (s : State) (pos : Coord) (k rw : Nat) : Nat := if rw = 0 then 0 else ((s.ctx pos k).rw rw).edge

/-- A suppression would have to post while the device's record queue is full, so the sink waits (R456, R495). -/
def State.sinkMustWait (s : State) (f : Firing) : Bool :=
  match s.region f.region with
  | none => false
  | some r => !(r.frame f.frame).reported && !s.canPost r.part

/-! ## The return from a frame fault -/

/-- The open records that park a frame (R447). -/
def State.opensOf (s : State) (r : Region) (f : Nat) : List OpenRec :=
  (s.partOf r.part).opens.filter fun o => o.region == r.id && o.frame == f &&
    match o.hold with
    | .firing | .trap | .piece _ _ | .matrix _ _ | .pushb _ => true
    | _ => false

/-- An open record closes. -/
def State.closeRec (s : State) (part recno : Nat) : State :=
  s.modPart part fun p => { p with opens := p.opens.filter fun o => o.recno != recno }

/-- The last open record of a frame has been answered: the Mint clears PARKED and sends the notice to every cluster
(R451). -/
def State.unparkFrame (s : State) (region f : Nat) : State :=
  match s.region region with
  | none => s
  | some r =>
    if (r.frame f).parked && (s.opensOf r f).isEmpty then
      let s := s.modFrame r.id f fun x => { x with parked := false }
      r.clusters.foldl (fun s g => s.sendStrobe (.anchor r.id) (.cluster g) r.id 10 [(38, 0), (10, f)]) s
    else s

/-- The firing that a record's answer lets go on (R449, R450): `act` is 0 RETRY, 1 SKIP, 2 PATCH; after a trap it goes on
behind the trapping instruction. -/
def Firing.answered (f : Firing) (trap : Bool) (act : Nat) (pval : Word) : Firing :=
  let f := { f with held := false, readmitted := true, xl := [] }
  if trap then { f with ix := f.ix + 1, part := 0 }
  else match act with
    | 0 => f
    | 1 => { f with skip := true }
    | _ => { f with patch := some pval }

/-- The image that a record parked is answered: it may re-enter a slot once its frame is readmitted (R449, R451). -/
def State.answerImage (s : State) (part recno : Nat) (trap : Bool) (act : Nat) (pval : Word) : State :=
  { s with images := s.images.map fun im =>
      if im.recno == some recno && (match s.region im.region with | some r => r.part == part | none => false)
      then { im with firing := im.firing.answered trap act pval, ready := true } else im }

end Sys2Proof.Machine
end

