-- ==== Sys2Proof/Machine/Tiles.lean ====
section
/-! DEFINITION. Bitmap tiles (R284, R285, R293, R294): building one from a dense slice, and reading one; a Matrix Node's
configurations (R78), and what its admitted row firings will send (R313). -/

namespace Sys2Proof.Machine

/-! ## Tiles -/

/-- The types of tiles (R284, R287). -/
def tileTy (c : Nat) : Bool := c == 0 || c == 9 || decide (12 ≤ c ∧ c ≤ 15)

/-- Bits that an element occupies in a payload (R284). -/
def elemBits (ty : Ty) : Nat := if ty = .e2m1 then 4 else ty.slot

/-- Elements of a tile. -/
def tileElems (ty : Ty) : Nat := 512 / elemBits ty

/-- Scale blocks of a tile. -/
def tileBlocks (ty : Ty) : Nat := tileElems ty / 32

/-- Element `j` of packed bytes (R243). -/
def packedAt (ty : Ty) (bytes : Nat) (j : Nat) : Nat := bits bytes (elemBits ty * j) (elemBits ty)

/-- A code that CPYZ leaves out (R293). -/
def zeroCode (ty : Ty) (c : Nat) : Bool := c == 0 || (!ty.isInt && c == ty.fmt.signBit)

/-- Elements packed as an integer, in order (R243). -/
def packElems (ty : Ty) : List Nat → Nat
  | [] => 0
  | c :: cs => c % 2 ^ elemBits ty + 2 ^ elemBits ty * packElems ty cs

/-- The sixteen words of an integer of 128 bytes. -/
def words16 (v : Nat) : List Word := (List.range 16).map fun i => BitVec.ofNat 64 (v / 2 ^ (64 * i))

/-- A tile from 64 dense bytes and its scales (R293). -/
def buildTile (ty : Ty) (dense : List Byte) (scales : List Nat) : List Word :=
  let v := ofBytes dense
  let es := (List.range (tileElems ty)).map (packedAt ty v)
  let bm := maskOf (tileElems ty) fun j => !zeroCode ty (es.getD j 0)
  let present := es.filter fun c => !zeroCode ty c
  let cnt := present.length
  let plen := ceilDiv (cnt * elemBits ty) 8
  let payload := packElems ty present
  let sc := pack ((List.range (tileBlocks ty)).map fun b => (8, scales.getD b 127))
  words16 (bm % 2 ^ 64 + 2 ^ 64 * (bm / 2 ^ 64) + 2 ^ 128 * sc +
    2 ^ 192 * pack [(32, 0), (8, plen), (8, 0), (8, cnt), (4, (Ty.code ty)), (3, 0), (1, b2n (cnt == 0))] + 2 ^ 256 * payload)

/-- ZF of a tile. -/
def tileZf (t : List Word) : Bool := bit (t.getD 3 0).toNat 63
/-- TY of a tile. -/
def tileTyCode (t : List Word) : Nat := bits (t.getD 3 0).toNat 56 4
/-- CNT of a tile. -/
def tileCnt (t : List Word) : Nat := bits (t.getD 3 0).toNat 48 8
/-- PLEN of a tile. -/
def tilePlen (t : List Word) : Nat := bits (t.getD 3 0).toNat 32 8
/-- The bitmap of a tile, BM1 above BM0. -/
def tileBm (t : List Word) : Nat := (t.getD 0 0).toNat + 2 ^ 64 * (t.getD 1 0).toNat
/-- SCb of a tile. -/
def tileScale (t : List Word) (b : Nat) : Nat := bits (t.getD 2 0).toNat (8 * b) 8

/-- Why a tile with ZF = 0 is not legal for a type (R285, R294): 1 popcount, 2 count, 3 length, 4 type or high bits. The
count, the length and the bitmap are held to the tile's own TY (R284). -/
def tileFault (ty : Ty) (t : List Word) : Option Nat :=
  let own := Ty.ofCode (tileTyCode t)
  if tileZf t then none
  else if popcount (tileBm t) 128 ≠ tileCnt t then some 1
  else if tileElems own < tileCnt t then some 2
  else if tilePlen t ≠ ceilDiv (tileCnt t * elemBits own) 8 then some 3
  else if tileTyCode t ≠ (Ty.code ty) ∨ tileBm t / 2 ^ tileElems own ≠ 0 then some 4
  else none

/-- The payload of a tile as an integer. -/
def tilePayload (t : List Word) : Nat :=
  (List.range 8).foldl (fun v i => v + 2 ^ (64 * i) * (t.getD (4 + i) 0).toNat) 0

/-- Element `j` of a tile that is legal or has ZF: +0 where its bit is clear (R285). -/
def tileElem (ty : Ty) (t : List Word) (j : Nat) : Nat :=
  if tileZf t || !bit (tileBm t) j then 0
  else packedAt ty (tilePayload t) (popcount (tileBm t) j)

/-- The 64 dense bytes of a tile (R294). -/
def expandTile (ty : Ty) (t : List Word) : List Byte :=
  toBytes 64 (packElems ty ((List.range (tileElems ty)).map (tileElem ty t)))

/-- The bytes of a tile's line. -/
def tileBytes (t : List Word) : List Byte := (List.range 16).flatMap fun i => toBytes 8 (t.getD i 0).toNat

/-- A tile from the bytes of its line. -/
def tileOfBytes (bs : List Byte) : List Word := words16 (ofBytes bs)

/-! ## Configurations (R78) -/

/-- A configuration's fields. -/
structure MnCfg where
  tya : Ty
  tyb : Ty
  dit : Bool
  scfix : Bool
  bsel : Nat
  sca : Nat
  scb : Nat
  row0 : Nat
  /-- NR and the columns: NROWM1 + 1 and NCOLM1 + 1. -/
  nr : Nat
  nc : Nat
  oty : Ty
  orm : Nat
  orw : Nat
  rrw : Nat
deriving DecidableEq, Repr

/-- The fields of a configuration's words; all 0 for an empty slot. -/
def mnCfgOf (ws : List Word) : MnCfg :=
  let a := (ws.getD 0 0).toNat
  let b := (ws.getD 1 0).toNat
  { tya := Ty.ofCode (bits a 60 4), tyb := Ty.ofCode (bits a 56 4), dit := bit a 52, scfix := bit a 51, bsel := bits a 50 1,
    sca := bits a 40 8, scb := bits a 32 8, row0 := bits a 25 7, nr := bits a 18 7 + 1, nc := bits a 11 7 + 1,
    oty := Ty.ofCode (bits b 60 4), orm := bits b 57 3, orw := bits b 52 3, rrw := bits b 49 3 }

/-- The configuration that an instruction copied. -/
def MnOp.cfg (o : MnOp) : MnCfg := mnCfgOf [o.cfg0, o.cfg1]

/-- Tokens of a row (R329). -/
def MnCfg.toks (c : MnCfg) : Nat := ceilDiv c.nc 32

/-- An instruction under way. -/
def Matrix.op (m : Matrix) (id : Nat) : Option MnOp := m.ops.find? fun o => o.id == id

/-- An issued instruction of a context and frame still has tokens to send: an MNOUT, or a run with .OUT (R175, R321). -/
def Matrix.sends (m : Matrix) (k frame : Nat) : Bool :=
  m.ops.any fun o => o.ctx == k && o.frame == frame &&
    match o.work with
    | .run _ out _ _ _ _ _ => out
    | .out _ _ _ _ => true
    | _ => false

/-- Entries of the output queue that admitted row firings of runs with .OUT will take (R313). -/
def Matrix.promised (m : Matrix) : Nat :=
  m.window.foldl (fun n w => match m.op w.op with
    | some o => match o.work with
      | .run _ true _ _ _ _ _ => n + o.cfg.toks
      | _ => n
    | none => n) 0

/-- A Matrix Node. -/
def State.matrix (s : State) (c : Coord) : Matrix := s.matrices.get {} c

end Sys2Proof.Machine
end

