-- ==== Sys2Proof/Machine/Tokens.lean ====
section
/-! DEFINITION. Tokens: sending them through output queues and credits, accepting and matching them, and the places
where they wait (R26 to R43, R131 to R143, R173, R174). -/

namespace Sys2Proof.Machine

/-! ## Sending -/

/-- Output-queue entries of a node (R174, R254). -/
def queueSize : Nat := 8
/-- Entries that may hold tokens whose edge had no credit when they entered (R174). -/
def queueUncredited : Nat := 6

/-- An edge end has a free Chit, so its producer holds a credit (R140); the Sequencer's port takes none (R112). -/
def State.creditAt (s : State) (c : Coord) (k port : Nat) : Bool :=
  isSeqPort c port ||
    (let x := s.ctx c k
     decide (x.used.getD port 0 < x.dep port))

/-- Every edge of a routing word holds a credit. -/
def State.edgeCredit (s : State) (pos : Coord) (k rw : Nat) : Bool :=
  let w := (s.ctx pos k).rw rw
  w.resolved && !w.closed && w.targets.all fun i => s.creditAt (w.target i) w.ctx w.port

/-- The entries of an output queue that its room counts. -/
def Node.queued (n : Node) : List OutTok := n.outq.filter fun o => !o.reply

/-- Entries of a node's queue that are promised: those that the admitted row firings of a Matrix Node's runs with .OUT will take
(R313, R331). -/
def State.promised (s : State) (pos : Coord) : Nat := (s.matrix pos).promised

/-- The queue of a node has room for `count` tokens on a port, now, beside those promised (R174, R331). -/
def State.room (s : State) (pos : Coord) (k port count : Nat) : Bool :=
  let q := (s.node pos).queued
  let count := count + s.promised pos
  decide (q.length + count ≤ queueSize) &&
    (s.edgeCredit pos k port || decide ((q.filter fun o => o.uncredited).length + count ≤ queueUncredited))

/-- The queue of a node has room for tokens on several ports, given as port and number (R174). -/
def State.roomMany (s : State) (pos : Coord) (k : Nat) (l : List (Nat × Nat)) : Bool :=
  let q := (s.node pos).queued
  let without := (l.filter fun x => !s.edgeCredit pos k x.1).foldl (fun n x => n + x.2) 0
  let more := s.promised pos
  decide (q.length + l.foldl (fun n x => n + x.2) 0 + more ≤ queueSize) &&
    (without == 0 || decide ((q.filter fun o => o.uncredited).length + without + more ≤ queueUncredited))

/-- The tap slots bound to an output port, with the numbers of their bindings (R474, R477). -/
def State.tapsOf (s : State) (pos : Coord) (k port : Nat) : List (Nat × Nat) :=
  let d := pos.die.toNat
  ((List.range 16).filter fun t =>
    let b := s.taps.get {} (d, t)
    b.v && decide (b.pos = pos ∧ b.ctx = k ∧ b.port = port)).map fun t => (t, (s.taps.get {} (d, t)).binds)

/-- The region of a context's owner. -/
def State.regionOf (s : State) (pos : Coord) (k : Nat) : Nat :=
  match (s.ctx pos k).owner with
  | some o => o.region
  | none => 0

/-- A context has met the cut strobe (R461). -/
def State.cutAt (s : State) (pos : Coord) (k : Nat) : Bool := if kindOf pos = .link then (s.ctx pos k).cut else (s.node pos).cut

/-- A context has sent its position notices, and nothing leaves it (R461). -/
def State.noticedAt (s : State) (pos : Coord) (k : Nat) : Bool :=
  if kindOf pos = .link then (s.ctx pos k).noticed else (s.node pos).noticed

/-- Put a token on a routing word: TCNT gains each copy before it is sent (R147), and the token waits in the output
queue, or, when the word is unresolved, in the unresolved output buffer (R70). A word without V carries nothing. -/
def State.enqueue (s : State) (pos : Coord) (k rw : Nat) (reply prepaid : Bool) (t : Token) : State :=
  let w := (s.ctx pos k).rw rw
  if !w.present then s
  else
    let o : OutTok := { rw := rw, ctx := k, tok := { t with aux := if t.kind = .marker ∨ t.kind = .receipt then t.aux else w.edge },
                        todo := w.targets, uncredited := !s.edgeCredit pos k rw, reply := reply, prepaid := prepaid,
                        tap := if rw < 4 then s.tapsOf pos k rw else [] }
    let s := s.modNode pos fun n => { n with outq := n.outq ++ [o] }
    s.tcntAdd (s.regionOf pos k) t.frame w.targets.length

/-- The tokens of a run on one edge: one, or two when a 64-bit run is longer than 16 (R28). -/
def splitWide (t : Token) : List Token :=
  if t.wide ∧ 16 < t.len then
    [{ t with len := 16, mask := t.mask % 2 ^ 16, poison := t.poison % 2 ^ 16, lanes := t.lanes.take 16,
              scales := t.scales.take 16 },
     { t with iter := t.iter + 16, len := t.len - 16, mask := t.mask / 2 ^ 16, poison := t.poison / 2 ^ 16,
              lanes := t.lanes.drop 16, scales := t.scales.drop 16 }]
  else [t]

/-- Tokens that a run takes on one edge (R28). -/
def tokensOf (wide : Bool) (len : Nat) : Nat := if wide ∧ 16 < len then 2 else 1

/-- Enqueue a run's tokens in order. -/
def State.enqueueRun (s : State) (pos : Coord) (k rw : Nat) (reply prepaid : Bool) (t : Token) : State :=
  (splitWide t).foldl (fun s t => s.enqueue pos k rw reply prepaid t) s

/-- The payload slot of a receipt or marker (R41). -/
def receiptSlot (flags scope seq : Nat) : Word := BitVec.ofNat 64 (pack [(16, seq), (2, scope), (7, flags), (7, 0)])

/-- A receipt (R40, R41, R43): run 1, mask 1, one slot. -/
def receiptTok (frame iter flags scope seq : Nat) (poisoned : Bool) : Token :=
  { kind := .receipt, dst := mkCoord 0 0 0, ctx := 0, port := 0, frame := frame, iter := iter, len := 1,
    aux := seq % 2 ^ 13, mask := 1, poison := b2n poisoned, wide := false, lanes := [receiptSlot flags scope seq] }

/-- A marker (R37, R41, R138). -/
def markerTok (frame iter aux flags : Nat) (poisoned : Bool) : Token :=
  { kind := .marker, dst := mkCoord 0 0 0, ctx := 0, port := 0, frame := frame, iter := iter, len := 1,
    aux := aux % 2 ^ 13, mask := 1, poison := b2n poisoned, wide := false, lanes := [receiptSlot flags 0 0] }

/-- Send a receipt on RWX, when it names one. -/
def State.sendReceipt (s : State) (pos : Coord) (k rw frame iter flags scope seq : Nat) (poisoned : Bool) : State :=
  if rw = 0 then s
  else (s.enqueue pos k rw true false (receiptTok frame iter flags scope seq poisoned)).progress (s.regionOf pos k)

/-- An operation issued by a firing owes a receipt or a reply: it counts in TCNT and holds the context undrained (R117,
R147). -/
def State.owe (s : State) (pos : Coord) (k frame count : Nat) : State :=
  (s.modCtx pos k fun x => { x with owed := x.owed + count }).tcntAdd (s.regionOf pos k) frame count

/-- A debt of a firing ends. -/
def State.repay (s : State) (pos : Coord) (k frame count : Nat) : State :=
  (s.modCtx pos k fun x => { x with owed := x.owed - count }).tcntSub (s.regionOf pos k) frame count

/-- A value token with a firing's tag (R179). -/
def valueTok (f : Firing) (mask poison : Nat) (wide : Bool) (lanes : List Word) : Token :=
  { kind := .value, dst := mkCoord 0 0 0, ctx := 0, port := 0, frame := f.frame, iter := f.iter, len := f.len,
    aux := 0, mask := mask, poison := poison, wide := wide, lanes := lanes }

/-! ## Departure -/

/-- The header of a token as sent (R37, R38: PSN is 0 when the poison mask is all zero). -/
def Token.header (t : Token) : Word :=
  let k := match t.kind with | .value => 0 | .scale => 1 | .marker => 2 | .receipt => 3
  BitVec.ofNat 64 (pack [(13, t.aux), (5, t.dst.y.toNat), (6, t.dst.x.toNat), (1, 0), (2, t.port), (5, t.len - 1),
    (12, t.iter), (10, t.frame), (3, t.ctx), (4, t.dst.die.toNat), (1, b2n (t.poison != 0)), (2, k)])

/-- Payload bits [63:0] (R38, R482): slots 0 and 1. -/
def Token.pay (t : Token) : Nat :=
  if t.wide then (t.lanes.getD 0 0).toNat
  else (t.lanes.getD 0 0).toNat % 2 ^ 32 + 2 ^ 32 * ((t.lanes.getD 1 0).toNat % 2 ^ 32)

/-- A slot's buffer holds as many records as it can that nobody has consumed (R481). -/
def Tap.full (b : Tap) : Bool := decide (2 ^ b.lgsz * 128 ≤ b.wp - b.rp)

/-- A departure under a binding of a tap slot that still holds makes a record, or loses it: the collector is full, or the slot's
buffer (R480, R481). -/
def State.tapRecord (s : State) (die : Nat) (x : Nat × Nat) (t : Token) : State :=
  let key := (die, x.1)
  let b := s.taps.get {} key
  if b.v && b.binds == x.2 then
    let col := s.collectors.get [] die
    if 256 ≤ col.length ∨ b.full then { s with taps := s.taps.set key { b with lost := satAdd 64 b.lost 1 } }
    else
      let r : TapRec := { slot := x.1, words :=
        [BitVec.ofNat 64 (pack [(13, b.edge), (7, 0), (4, x.1), (40, s.cyc)]), t.header,
         BitVec.ofNat 64 (pack [(32, t.mask), (32, t.poison)]), BitVec.ofNat 64 t.pay] }
      { s with collectors := s.collectors.set die (col ++ [r]) }
  else s

/-- A departure leaves a record for each slot that taps its edge. -/
def State.tapRecords (s : State) (die : Nat) (l : List (Nat × Nat)) (t : Token) : State := l.foldl (fun s x => s.tapRecord die x t) s

/-- A copy of a queued token may leave for a multicast target now: its word is resolved and open, no earlier token of
the edge waits, and the edge has a credit; a load's reply has paid, the Sequencer's port takes none, and a marker may
land in a shared buffer instead (R70, R112, R118, R140, R174, R221). -/
def State.mayDepart (s : State) (pos : Coord) (o : OutTok) (i : Nat) : Bool :=
  let w := (s.ctx pos o.ctx).rw o.rw
  w.resolved && !w.closed &&
    (o.prepaid || s.creditAt (w.target i) w.ctx w.port ||
      (o.tok.kind == .marker && decide ((s.cluster (clusterOf (w.target i))).shared < s.sharedCap (w.target i))))

/-- Take a Chit of an edge end for a token under way (R140). -/
def State.takeChit (s : State) (c : Coord) (k port : Nat) : State :=
  if isSeqPort c port then s
  else s.modCtx c k fun x => { x with used := setNth x.used port (x.used.getD port 0 + 1) }

/-- A node's SENT and TAKEN for a block grow (R117). -/
def State.count (s : State) (pos : Coord) (key : Nat × Nat) (sent taken : Nat) : State :=
  s.modNode pos fun n =>
    let c := n.counts.get (0, 0) key
    { n with counts := n.counts.set key ((c.1 + sent) % 2 ^ 32, (c.2 + taken) % 2 ^ 32) }

/-- One copy leaves for a target: onto the token network, with SENT and the edge's count (R117, R461). -/
def State.depart (s : State) (pos : Coord) (o : OutTok) (i : Nat) : State :=
  let w := (s.ctx pos o.ctx).rw o.rw
  let c := w.target i
  let t := { o.tok with dst := c, ctx := w.ctx, port := w.port }
  let credit := o.prepaid || s.creditAt c w.ctx w.port
  let s := if credit then (if o.prepaid then s else s.takeChit c w.ctx w.port)
           else s.modCluster (clusterOf c) fun g => { g with shared := g.shared + 1 }
  let wire : Wire := { tok := t, region := s.regionOf pos o.ctx, credit := credit }
  let s : State := { s with wire := s.wire ++ [wire] }
  let s := if i = 0 then s.tapRecords pos.die.toNat o.tap t else s
  let s := match (s.ctx pos o.ctx).owner with
    | some w' => if isSeqPort c w.port then s else s.count pos (w'.region, w.tblk) 1 0
    | none => s
  s.modCtx pos o.ctx fun x =>
    (x.modRw o.rw fun r =>
      let l := r.sent ++ List.replicate (16 - r.sent.length) 0
      { r with sent := setNth l i (l.getD i 0 + 1) })

/-! ## Places -/

/-- A token takes a store entry and a shared buffer, which the cluster's next serial number names. -/
def State.intoShared (s : State) (st : Coord) (p : Piece) : State :=
  let g := clusterOf p.tok.dst
  let name := (s.cluster g).nextArr
  (s.modCluster g fun c => { c with shared := c.shared + 1, nextArr := name + 1 }).modStore st fun t =>
    { t with entries := t.entries ++ [{ p with buf := .shared name }] }

/-- Program slots of a Vault (R131). -/
def vaultMax : Nat := 960

/-- The youngest frame with a token in the Vault that is younger than `f`, if any (R143). -/
def State.youngest (s : State) (g : Cluster) (region f : Nat) : Option Nat :=
  let age (x : Nat) := (s.frame region x).age
  let fs := (g.vault.map fun v => v.piece.tok.frame).filter fun x => olderAge (age f) (age x)
  fs.foldl (fun acc x => match acc with
    | none => some x
    | some y => if olderAge (age y) (age x) then some x else some y) none

/-- The most recently arrived Vault token of a frame (R143). -/
def Cluster.latest (g : Cluster) (frame : Nat) : Option Stashed :=
  (sortBy (fun a b => decide (a.piece.arr < b.piece.arr ∨ (a.piece.arr = b.piece.arr ∧ a.piece.tok.iter ≤ b.piece.tok.iter)))
    (g.vault.filter fun v => v.piece.tok.frame == frame)).getLast?

/-- Move a token's payload to the Vault or, when it is full, to the spill map; none when neither has room (R140, R141,
R143). The piece has been taken out of its place, and leaves its old buffer, unless it is a `copy` of a part of it (R134).
TOVAULT counts what comes from the store or a Chit (R144), which is what lay in the token pool. -/
def State.stash (s : State) (region : Nat) (st : Coord) (copy : Bool) (p : Piece) : Option State :=
  let g := clusterOf p.tok.dst
  let cl := s.cluster g
  let leave (s : State) : State := if copy then s else s.leaveBuf p.tok.dst p.tok.ctx p.tok.port p.arr p.buf
  let toVault (s : State) : State :=
    leave (s.modCluster g fun c => { c with vault := c.vault ++ [{ store := st, piece := { p with buf := .vault } }],
                                            toVault := satAdd 32 c.toVault (b2n p.buf.inPool) })
  let toSpill (s : State) : State :=
    leave (s.modCluster g fun c => { c with spill := c.spill ++ [{ store := st, piece := { p with buf := .spill c.freeCell } }],
                                            toSmap := satAdd 32 c.toSmap 1 })
  if cl.vault.length < vaultMax then some (toVault s)
  else if cl.spillUsed < s.spillMax region then
    match s.youngest cl region p.tok.frame with
    | some y =>
      match cl.latest y with
      | some v =>
        let moved : Stashed := { v with piece := { v.piece with buf := .spill cl.freeCell } }
        let s := s.modCluster g fun c =>
          { c with vault := c.vault.erase v, spill := c.spill ++ [moved], toSmap := satAdd 32 c.toSmap 1 }
        some (toVault s)
      | none => some (toSpill s)
    | none => some (toSpill s)
  else none

/-- Place a token that found no partner (R141): a store entry, the Vault, the spill map, or its Chit, where it stays. A token
that has a Vault slot keeps it (R134, R142); a payload that comes from outside the token pool and the Vault takes a shared buffer
with the entry. -/
def State.place (s : State) (region : Nat) (st : Coord) (p : Piece) : State :=
  let room := decide ((s.store st).entries.length < storeSize st)
  if p.buf = .vault then
    s.modCluster (clusterOf p.tok.dst) fun c => { c with vault := c.vault ++ [{ store := st, piece := p }] }
  else if room && p.buf.inPool then s.modStore st fun t => { t with entries := t.entries ++ [p] }
  else if room && s.sharedFree p.tok.dst then s.intoShared st p
  else match s.stash region st false p with
    | some s => s
    | none => s.modStore st fun t => { t with held := t.held ++ [p] }

/-- Place a piece left over from a split (R134): the lowest keeps its token's buffer; any other is copied into a shared
buffer, a Vault slot or the spill map, and when none has room it stays in its parent's buffer, its header and masks in the
overflow register. DESIGN CHOICE (log 66): several pieces of one arrival may need the register at once; the manual names one
register a store and does not say what happens then, and the model holds them all in it, oldest first. -/
def State.placeLeft (s : State) (region : Nat) (st : Coord) (first : Bool) (p : Piece) : State :=
  if first then s.place region st p
  else if s.sharedFree p.tok.dst && decide ((s.store st).entries.length < storeSize st) then s.intoShared st p
  else match s.stash region st true p with
    | some s => s
    | none => s.modStore st fun t => { t with overflow := t.overflow ++ [p] }

/-- Take a piece out of the place where it waits: store, overflow register, Chit or Vault. -/
def State.take (s : State) (st : Coord) (p : Piece) : State :=
  let s := s.modStore st fun t =>
    { t with entries := t.entries.erase p, overflow := t.overflow.erase p, held := t.held.erase p }
  s.modCluster (clusterOf p.tok.dst) fun c => { c with vault := c.vault.erase { store := st, piece := p } }

/-- A port that has no free Chit moves its most recently arrived unmatched token, which may be a marker, to the Vault or the spill map
(R140). A scale token is none that a match could take, and stays (R256). -/
def State.relieve (s : State) (region : Nat) (dst : Coord) (k port : Nat) : State :=
  let x := s.ctx dst k
  if x.used.getD port 0 < x.dep port then s
  else
    let st := storeOf dst
    let mine := ((s.store st).entries ++ (s.store st).held).filter fun p =>
      decide (p.tok.dst = dst ∧ p.tok.ctx = k ∧ p.tok.port = port ∧ p.buf = .chit ∧ p.tok.kind ≠ .scale)
    match (sortBy (fun a b => decide (a.arr ≤ b.arr)) mine).getLast? with
    | none => s
    | some p =>
      match (s.take st p).stash region st false p with
      | some s => s
      | none => s

/-! ## Matching -/

/-- Part of a token's run: `len` lanes from lane `start` (R29). -/
def Token.sub (t : Token) (start len : Nat) : Token :=
  { t with iter := t.iter + start, len := len, mask := bits t.mask start len, poison := bits t.poison start len,
           lanes := (t.lanes.drop start).take len, scales := (t.scales.drop start).take len }

/-- The pieces of a store that an arrival may pair with: entries, the overflow register and the Vault (R141, R142),
by arrival. Markers wait but pair with nothing. DESIGN CHOICE (log 67): a token that stays in its Chit (case 4 of R141) is not
searched, as one in the spill map is not; and store and Vault are taken together by arrival, so that a Vault token that arrived
before a store entry goes first (R133, R134), although the store is searched before the Vault (R139). -/
def State.candidates (s : State) (st dst : Coord) (k frame port : Nat) : List Piece :=
  let t := s.store st
  let all := t.entries ++ t.overflow ++
    (((s.cluster (clusterOf dst)).vault.filter fun v => v.store == st).map (·.piece))
  let mine := all.filter fun p => decide (p.tok.dst = dst ∧ p.tok.ctx = k ∧ p.tok.frame = frame ∧ p.tok.port = port ∧
    p.tok.kind ≠ .marker ∧ p.tok.kind ≠ .scale)
  sortBy (fun a b => decide (a.arr < b.arr ∨ (a.arr = b.arr ∧ a.tok.iter ≤ b.tok.iter))) mine

/-- A port's lanes in a run-overlap firing: the interval's part of its token. -/
def portOverlap (p : Piece) (i0 n : Nat) : PortIn :=
  let t := p.tok.sub (i0 - p.tok.iter) n
  { port := t.port, wide := t.wide, lanes := t.lanes, mask := t.mask, poison := t.poison, scales := t.scales,
    arr := p.arr, buf := p.buf, tok := some t }

/-- A port's lanes in an exact-mode firing of run `n` (R133). -/
def portExact (p : Piece) (n : Nat) : PortIn :=
  let t := p.tok
  if t.len = 1 then
    { port := t.port, wide := t.wide, lanes := List.replicate n (t.lanes.getD 0 0),
      mask := if bit t.mask 0 then 2 ^ n - 1 else 0,
      poison := if bit t.poison 0 then 2 ^ n - 1 else 0, scales := List.replicate n (t.scales.getD 0 127),
      arr := p.arr, buf := p.buf, single := true, tok := some t }
  else
    { port := t.port, wide := t.wide, lanes := t.lanes.take n, mask := t.mask % 2 ^ n, poison := t.poison % 2 ^ n,
      scales := t.scales.take n, arr := p.arr, buf := p.buf, tok := some t }

/-- The MERGE or GATE of a sequence: opcode and the ports that A and B name (R137). -/
def mergeOrGate (seq : List Word) : Option (Nat × Nat × Nat) :=
  match seq.find? fun w => w.toNat / 2 ^ 56 == 0x86 || w.toNat / 2 ^ 56 == 0x88 with
  | some w => some (w.toNat / 2 ^ 56, bits w.toNat 42 5 - 8, bits w.toNat 37 5 - 8)
  | none => none

/-- The lane mask of a port among a firing's ports. -/
def maskOfPort (ps : List PortIn) (port : Nat) : Nat :=
  match ps.find? fun p => p.port == port with
  | some p => p.mask
  | none => 0

/-- The token mask of a firing (R29, R133, R137): the AND of the ports that constrain it, or MERGE's OR, or GATE's data
port. `free1` says that a port's run-1 token does not constrain the mask (exact mode). -/
def tokenMask (seq : List Word) (ps : List PortIn) (constrains : PortIn → Bool) (n : Nat) : Nat :=
  match mergeOrGate seq with
  | some (0x86, a, b) => (maskOfPort ps a) ||| (maskOfPort ps b)
  | some (_, a, _) => maskOfPort ps a
  | none => (ps.filter constrains).foldl (fun m p => m &&& p.mask) (2 ^ n - 1)

/-- Admit a firing (R29, R115): its words and constants are those of this moment. A firing that gave its inputs back goes on as its
record was answered (R449, R450). -/
def State.admitFiring (s : State) (dst : Coord) (k frame iter n tmask : Nat) (ps : List PortIn) : State :=
  let x := s.ctx dst k
  let region := s.regionOf dst k
  let key := (dst, k, frame, iter, n)
  let again := (s.region region).bind fun r => Table.find r.skips key
  let f : Firing := { region := region, ctx := k, frame := frame, iter := iter, len := n, tmask := tmask,
                      pmask := ps.foldl (fun m p => m ||| p.poison) 0, ports := ps, words := x.sequence,
                      consts := x.consts, consumed := ps.length, skipAll := decide (again = some .skipAll),
                      skip := decide (again = some .skip), ix := if again = some .after then 1 else 0,
                      patch := match again with | some (.patch v) => some v | _ => none }
  let s := s.modRegion region fun r => { r with wdog := 0, skips := Table.erase r.skips key }
  s.modNode dst fun nd => { nd with admitted := nd.admitted ++ [f] }

/-- The leftovers of a matched piece: what lies before and behind the interval (R29). -/
def leftovers (p : Piece) (i0 n : Nat) : List Piece :=
  let t := p.tok
  let head := if t.iter < i0 then [{ p with tok := t.sub 0 (i0 - t.iter) }] else []
  let tail := if i0 + n < t.iter + t.len then
    [{ p with tok := t.sub (i0 + n - t.iter) (t.iter + t.len - (i0 + n)) }] else []
  head ++ tail

/-- Place the leftovers of a waiting piece: the lowest keeps the buffer. -/
def State.placeLeftovers (s : State) (region : Nat) (st : Coord) (ps : List Piece) : State :=
  (ps.zipIdx).foldl (fun s q => s.placeLeft region st (q.2 == 0) q.1) s

/-- The lowest iteration covered by the arriving token and, on each other required port, by some waiting piece, with the
first-arrived piece on each (R134). -/
def State.overlap (s : State) (st : Coord) (t : Token) (others : List Nat) : Option (Nat × List Piece) :=
  let cands := others.map fun q => s.candidates st t.dst t.ctx t.frame q
  ((List.range t.len).map (t.iter + ·)).findSome? fun i =>
    let chosen := cands.map fun l => l.find? fun p => decide (p.tok.iter ≤ i ∧ i < p.tok.iter + p.tok.len)
    if chosen.all (·.isSome) then some (i, chosen.filterMap id) else none

/-- Match an arriving token in run-overlap mode (R134). Leftovers of the arrival are matched again at once; `fuel`
bounds the pieces, at most one a lane. -/
def State.arriveOverlap (s : State) (region : Nat) (st : Coord) (first : Bool) : Nat → Piece → State
  | 0, p => s.placeLeft region st first p
  | fuel + 1, p =>
    let t := p.tok
    let x := s.ctx t.dst t.ctx
    match s.overlap st t (x.reqPorts.filter (· != t.port)) with
    | none => s.placeLeft region st first p
    | some (i0, chosen) =>
      let stop := chosen.foldl (fun e q => min e (q.tok.iter + q.tok.len)) (t.iter + t.len)
      let n := stop - i0
      let s := chosen.foldl (fun s q => s.take st q) s
      let ps := sortBy (fun a b => decide (a.port ≤ b.port)) ((p :: chosen).map fun q => portOverlap q i0 n)
      let s := s.admitFiring t.dst t.ctx t.frame i0 n (tokenMask x.sequence ps (fun _ => true) n) ps
      let left := chosen.flatMap fun q => leftovers q i0 n
      let mine := leftovers p i0 n
      let s := s.tcntAdd region t.frame (left.length + mine.length)
      let s := chosen.foldl (fun s q => s.placeLeftovers region st (leftovers q i0 n)) s
      (mine.zipIdx).foldl (fun s q => State.arriveOverlap s region st (first && q.2 == 0) fuel q.1) s

/-- Match an arriving token in exact mode (R133). -/
def State.arriveExact (s : State) (region : Nat) (st : Coord) (p : Piece) : State :=
  let t := p.tok
  let x := s.ctx t.dst t.ctx
  let chosen := (x.reqPorts.filter (· != t.port)).map fun q =>
    (s.candidates st t.dst t.ctx t.frame q).find? fun c => c.tok.iter == t.iter
  if chosen.all (·.isSome) then
    let others := chosen.filterMap id
    let s := others.foldl (fun s q => s.take st q) s
    let all := sortBy (fun a b => decide (a.tok.port ≤ b.tok.port)) (p :: others)
    let n := (all.headD p).tok.len
    let ps := all.map fun q => portExact q n
    let lead := (all.headD p).tok.port
    let single := (all.filter fun q => q.tok.len == 1 && q.tok.port != lead).map (·.tok.port)
    s.admitFiring t.dst t.ctx t.frame t.iter n (tokenMask x.sequence ps (fun i => !single.contains i.port) n) ps
  else s.place region st p

/-- A value or receipt token arrives at the store under its context's mode (R133 to R135). -/
def State.arrive (s : State) (region : Nat) (st : Coord) (p : Piece) : State :=
  let t := p.tok
  let x := s.ctx t.dst t.ctx
  match x.mode with
  | 0 => s.arriveExact region st p
  | 1 => s.arriveOverlap region st true 32 p
  | _ =>
    let i := portOverlap p t.iter t.len
    s.admitFiring t.dst t.ctx t.frame t.iter t.len (tokenMask x.sequence [i] (fun _ => true) t.len) [i]

/-! ## Gathering -/

/-- The scale tokens whose value tokens have been consumed end: their shared buffers free and they leave TCNT (R256). -/
def State.endScales (s : State) (region : Nat) (pos : Coord) : State :=
  let st := storeOf pos
  let t := s.store st
  let g := clusterOf pos
  let live (h : HeldScale) : Bool :=
    match h.into with
    | none => true
    | some a =>
      let mine (p : Piece) : Bool := decide (p.arr = a ∧ p.tok.port = h.tok.port ∧ p.tok.ctx = h.tok.ctx)
      let fires (f : Firing) : Bool := !f.gathered && f.ports.any fun i => decide (i.arr = a ∧ i.port = h.tok.port)
      let n := s.node h.tok.dst
      t.entries.any mine || t.overflow.any mine || t.held.any mine || t.pend.any mine ||
        (s.cluster g).vault.any (fun v => decide (v.store = st) && mine v.piece) ||
        (s.cluster g).spill.any (fun v => decide (v.store = st) && mine v.piece) ||
        (s.cluster g).withdrawn.any (fun v => decide (v.store = st) && mine v.piece) ||
        n.admitted.any fires || n.slots.any fun o => match o with | some f => fires f | none => false
  let dead := t.scales.filter fun h => !live h
  let s := s.modStore st fun t => { t with scales := t.scales.filter live }
  let s := s.modCluster g fun c => { c with shared := c.shared - dead.length }
  dead.foldl (fun s h => s.tcntSub region h.tok.frame 1) s

/-- The firing gathers its operands, in the G stage of its first pass: the Chits and shared buffers of its tokens are returned,
and the scale tokens that they carry end (R140, R173, R256). -/
def State.gather (s : State) (pos : Coord) (slot : Nat) : State :=
  match (s.node pos).slot slot with
  | none => s
  | some f =>
    if f.gathered then s
    else
      let s := s.modSlot pos slot fun f => { f with gathered := true }
      (f.ports.foldl (fun s i => s.leaveBuf pos f.ctx i.port i.arr i.buf) s).endScales f.region pos

end Sys2Proof.Machine
end

