-- ==== Sys2Proof/Machine/Time.lean ====
section
/-! DEFINITION. The passing of time: the counters that count cycles (R458, R473, R490, R497). -/

namespace Sys2Proof.Machine

/-- A context's owner is a region. -/
def Ctx.ownedBy (x : Ctx) (r : Nat) : Bool :=
  match x.owner with
  | some o => o.region == r
  | none => false

/-- The device runs: DEV_STAT.STATE is READY (R498). -/
def State.ready (s : State) : Bool := s.dev.state == 3

/-- A region's partition lets it run: it is not frozen. -/
def State.canRun (s : State) (r : Nat) : Bool :=
  match s.region r with
  | some x => !x.frozen
  | none => false

/-- The task of a batch is in service: some iteration of it has not been retired at its pop source's Till (R399). -/
def Batch.serves (b : Batch) (j : Nat) : Bool := bits b.retired (j * b.fan) b.fan != 2 ^ b.fan - 1

/-- The tasks of a batch that are in service. -/
def Batch.inService (b : Batch) : List Task := (b.tasks.zipIdx.filter fun x => b.serves x.2).map (·.1)

/-- Tasks in service from a Till's pop sources. -/
def Till.inService (t : Till) : List Task := t.sources.flatMap fun p => p.2.batches.flatMap Batch.inService

/-- A Till holds a task, in its window, in its ring or in service (R370). -/
def Till.hasTasks (t : Till) : Bool := !t.tasks.isEmpty || decide (t.rHead < t.rTail) || !t.inService.isEmpty

/-- The Tills of a region hold a task, in a Till, in service or between Tills (R370, R458). -/
def State.hasTasks (s : State) (r : Region) : Bool :=
  (r.clusters.any fun g => (s.tills.get {} (clusterNode g 5)).hasTasks) ||
  s.transfers.any fun x => x.region == r.id && x.carry == .sent

/-- A context keeps its region live: it owes a receipt or reply, or its counter source is active (R458). -/
def Ctx.busy (x : Ctx) : Bool := decide (0 < x.owed) || x.source.isSome

/-- What a frame's TCNT counts beside tokens: the bindings of windows to it, which are no work (R436, R458). -/
def State.bindings (s : State) (r f : Nat) : Nat :=
  (s.windows.filter fun w => w.2.bound && w.2.bregion == r && w.2.bframe == f).length

/-- A frame has tokens (R111, R147, R458). -/
def State.hasTokens (s : State) (r : Nat) (f : Nat × Frame) : Bool := decide (s.bindings r f.1 < f.2.tcnt)

/-- A region holds live work (R458): a token of a frame that is not parked, an owed receipt or reply, an active counter
source, or a worklist task. -/
def State.liveWork (s : State) (r : Region) : Bool :=
  (r.frames.any fun f => !f.2.parked && s.hasTokens r.id f) ||
  (r.nodes.any fun c => (s.node c).ctxs.any fun x => x.ownedBy r.id && x.busy) ||
  (s.nodes.any fun n => decide (kindOf n.1 = .link) && n.2.ctxs.any fun x => x.ownedBy r.id && x.busy) ||
  s.hasTasks r

/-- A cluster of a region holds live work (R458, R497): a token of a frame that is not parked, held, under way to it or taken by a
firing; an owed receipt or reply; an active counter source; or a worklist task. -/
def State.liveCluster (s : State) (r : Region) (g : Nat) : Bool :=
  let live (f : Nat) : Bool := !(r.frame f).parked
  let c := s.cluster g
  (c.vault ++ c.spill).any (fun v => live v.piece.tok.frame) ||
  (s.wire.any fun w => w.region == r.id && decide (clusterOf w.tok.dst = g ∧ kindOf w.tok.dst ≠ .link) && live w.tok.frame) ||
  (s.tills.get {} (clusterNode g 5)).hasTasks ||
  (clusterNodes g).any fun p =>
    let n := s.node p
    let t := s.store p
    ((t.entries ++ t.overflow ++ t.held ++ t.pend).any fun q => live q.tok.frame) || (t.scales.any fun h => live h.tok.frame) ||
    ((n.admitted ++ n.slots.filterMap id).any fun f => live f.frame) || (n.outq.any fun o => live o.tok.frame) ||
    n.ctxs.any fun x => x.ownedBy r.id && x.busy

/-- A region is frozen, or on its way there, or aborting (R453, R458, R461). -/
def Region.stopped (r : Region) : Bool := r.frozen || r.cut.isSome || r.aborting

/-- A partition's budget stalls it (R49, R497). -/
def State.stalled (s : State) (part : Nat) : Bool := (s.partOf part).stalled

/-- A partition's budget stalls new requests of a region; a cut proceeds (R49, R497, R504). -/
def State.stallsNew (s : State) (r : Region) : Bool := s.stalled r.part && r.cut.isNone

/-- A region's watchdog after `k` cycles (R458): it counts while the region holds live work, is neither frozen nor
stalled, and its control stream waits on no open record; a cut in progress does not hold it. -/
def State.watch (s : State) (k : Nat) (r : Region) : Region :=
  if s.liveWork r && !r.frozen && !s.stalled r.part && r.stat != 4 then { r with wdog := r.wdog + k } else r

/-- Beat counters of a node after `k` cycles (R473): LEFT falls while the region is neither frozen nor stalled. -/
def State.beats (s : State) (k : Nat) (n : Node) : Node :=
  { n with ctxs := n.ctxs.map fun x =>
      match x.owner with
      | some o =>
        match s.region o.region with
        | some r => if x.beat.arm && !r.frozen && !s.stalled r.part then
            { x with beat := { x.beat with left := x.beat.left - k } } else x
        | none => x
      | none => x }

/-- Use of a budget grows (R497), while budgets are enforced. -/
def Partition.charge (p : Partition) (i k : Nat) : Partition :=
  if p.budEn then { p with uses := setNth p.uses i (satAdd 64 (p.uses.getD i 0) k) } else p

/-- A partition's metered use of the passing cycles (R497): clusters with live work, and Vault slots; a cut proceeds unmetered (R504). -/
def State.meter (s : State) (k p : Nat) (x : Partition) : Partition :=
  let rs := s.regions.filter fun r => r.part == p && r.cut.isNone
  let live := rs.foldl (fun n r => n + (r.clusters.filter fun g => s.liveCluster r g).length) 0
  let slots := rs.foldl (fun n r => n + r.clusters.foldl (fun n g => n + (s.cluster g).vault.length) 0) 0
  let c := x.slotCyc + slots * k
  ({ x with slotCyc := c % 1024 }.charge 0 (live * k)).charge 4 (c / 1024)

/-- A node is a producer of an edge end: a resolved word of one of its contexts names it. -/
def Node.feeds (n : Node) (dst : Coord) (k port : Nat) : Bool :=
  n.ctxs.any fun x => x.rws.any fun w =>
    w.present && w.resolved && decide (w.ctx = k ∧ w.port = port) && w.targets.any fun i => decide (w.target i = dst)

/-- The clusters in which a producer is back-pressured (R141 case 4, R144): those of the producers of an edge end at which a token that
found no partner stays in its Chit, and which has no credit left. -/
def State.pressed (s : State) : List Nat :=
  let ends := (s.stores.flatMap fun t => t.2.held.map fun p => (p.tok.dst, p.tok.ctx, p.tok.port)).eraseDups
  let full := ends.filter fun e => !s.creditAt e.1 e.2.1 e.2.2
  if full.isEmpty then []
  else ((s.nodes.filter fun n => decide (kindOf n.1 ≠ .link) && full.any fun e => n.2.feeds e.1 e.2.1 e.2.2).map fun n =>
    clusterOf n.1).eraseDups

/-- WAITC counts the cycles while a poster waits (R495). -/
def Partition.waited (p : Partition) (cycles : Nat) : Partition :=
  if p.waiting then { p with waitc := satAdd 32 p.waitc cycles } else p

/-- Cycles and microseconds pass: DEV_CYC and DEV_USEC advance (R490), and every counter that counts cycles with them. -/
def State.tick (s : State) (cycles usec : Nat) : State :=
  if cycles = 0 ∧ usec = 0 then s
  else
    let s := s.pressed.foldl (fun s g => s.modCluster g fun c => { c with bpc := satAdd 64 c.bpc cycles }) s
    { s with
      cyc := (s.cyc + cycles) % 2 ^ 64, usec := (s.usec + usec) % 2 ^ 64,
      regions := s.regions.map (s.watch cycles),
      nodes := s.nodes.map fun n => (n.1, s.beats cycles n.2),
      parts := s.parts.map fun p => (p.1, (s.meter cycles p.1 p.2).waited cycles) }

end Sys2Proof.Machine
end

