-- ==== Sys2Proof/Machine/Operands.lean ====
section
/-! DEFINITION. Operands: what a selector gives a lane (R58, R59), which lanes are active (R178), how a result is written
and poisoned (R179, R180), and how a firing moves on to its next instruction and leaves its slot (R173, R181). -/

namespace Sys2Proof.Machine

/-! ## Reading -/

/-- A value and its poison. -/
abbrev PVal := Nat × Bool

/-- An integer that a selector supplies, converted to the type (R59). -/
def intAs (ty : Ty) (x : Int) : Nat :=
  if ty.isInt then wrap x ty.width else (rnd ty .rne false false 0 (Exact.ofInt x)).1

/-- The partition of a region. -/
def State.partIdOf (s : State) (region : Nat) : Nat := match s.region region with | some r => r.part | none => 0

/-- The values that a lane of some temporary held in earlier firings of the node in the same partition (R177): in those that have
left their slots, and in those that are in one still; of either, those that entered earlier. -/
def State.past (s : State) (pos : Coord) (f : Firing) (l : Nat) : List Word :=
  let n := s.node pos
  let part := s.partIdOf f.region
  let here := (n.slots.filterMap id).filter fun g => decide (g.entry < f.entry) && s.partIdOf g.region == part
  ((n.hist.filter fun h => h.1 == part && h.2.1 == l && decide (h.2.2.1 < f.entry)).map (·.2.2.2)) ++
    here.flatMap fun g => (g.temps.filter fun t => t.1.2 == l).map (·.2.1)

/-- A lane of a temporary. A lane that no instruction of the firing has written reads 0 or a value that the lane held in
an earlier firing, which of them is a free choice (R177, log 1). `use` tells the reads of one step apart. -/
def State.readTemp (s : State) (pos : Coord) (f : Firing) (use r l : Nat) : Word × Bool :=
  match f.temps.find (r, l) with
  | some v => v
  | none =>
    let c := (0 : Word) :: s.past pos f l
    (c.getD (s.free (use * 256 + r * 32 + l) % c.length) 0, false)

/-- The port of a firing. -/
def Firing.portIn (f : Firing) (p : Nat) : Option PortIn := f.ports.find? fun i => i.port == p

/-- A lane of a port. The upper slot of a narrow lane read as a 64-bit type is a free value (R28 states none). -/
def State.readPort (s : State) (f : Firing) (ty : Ty) (use p l : Nat) : PVal :=
  match f.portIn p with
  | none => (0, false)
  | some i =>
    let v := (i.lanes.getD l 0).toNat
    let v := if ty.isWide ∧ ¬ i.wide then v % 2 ^ 32 + 2 ^ 32 * (s.free (use * 256 + 128 + l) % 2 ^ 32) else v
    (v % 2 ^ ty.slot, bit i.poison l)

/-- The value that a selector gives lane `l`, as a pattern of the type (R58, R59), and its poison (R180). DEDUCED (log 101): of an E2M3
lane it takes the whole byte from a temporary and a port (R243), and the 6 bits of the width from a constant (R58, R240). -/
def State.readSel (s : State) (pos : Coord) (f : Firing) (n : Niw) (ty : Ty) (use : Nat) (sel : Sel) (l : Nat) : PVal :=
  match sel with
  | .t r => let v := s.readTemp pos f use r l; (v.1.toNat % 2 ^ ty.slot, v.2)
  | .p p => s.readPort f ty use p l
  | .k k => ((f.consts.getD k 0).toNat % 2 ^ ty.width, false)
  | .m m => let v := f.masks.getD m (0, 0); (intAs ty (b2n (bit v.1 l)), bit v.2 l)
  | .zero => (0, false)
  | .one => (intAs ty 1, false)
  | .lane => (intAs ty l, false)
  | .iter => (intAs ty ((f.iter + l : Nat) : Int), false)
  | .frame => (intAs ty (f.frame : Int), false)
  | .imm => (intAs ty (sx n.imm.toNat 16), false)
  | .immf => ((rndVal ty .rne false false 0 (fval .f16 n.imm.toNat)).1, false)
  | .none => (0, false)

/-- An operand read as the N32 slot (R194, R196): an integer, or bits [31:0] of the pattern that IMMF gives of the instruction's
type (DEDUCED, log 69). -/
def State.readSlot (s : State) (pos : Coord) (f : Firing) (n : Niw) (use : Nat) (sel : Sel) (l : Nat) : PVal :=
  match sel with
  | .immf => let v := s.readSel pos f n n.ty use sel l; (v.1 % 2 ^ 32, v.2)
  | _ => s.readSel pos f n .n32 use sel l

/-- A pattern read as an integer of the type (R8). -/
def asInt (ty : Ty) (v : Nat) : Int := if ty.isSigned then sx v ty.width else (v % 2 ^ ty.width : Nat)

/-! ## Lanes -/

/-- The lanes of the run. -/
def Firing.runMask (f : Firing) : Nat := 2 ^ f.len - 1

/-- The effective mask of an instruction (R178). -/
def Firing.eff (f : Firing) (p : Pred) : Nat :=
  match p with
  | .token => f.tmask % 2 ^ f.len
  | .mask m inv =>
    let v := (f.masks.getD m (0, 0)).1
    maskOf f.len fun l => bit f.tmask l && (bit v l != inv)

/-- The predicate bit of a lane is poisoned (R178, R180). -/
def Firing.predPoison (f : Firing) (p : Pred) (l : Nat) : Bool :=
  match p with
  | .token => false
  | .mask m _ => bit (f.masks.getD m (0, 0)).2 l

/-- The active lanes of an instruction, ascending (R10). -/
def Firing.active (f : Firing) (p : Pred) : List Nat := maskLanes (f.eff p) f.len

/-- The lowest active lane. -/
def Firing.lane0 (f : Firing) (p : Pred) : Option Nat := (f.active p).head?

/-- The rounding mode of an instruction in its context (R62). -/
def State.mode (s : State) (pos : Coord) (f : Firing) (rm : Rnd) : Rnd := rm.resolve (s.ctx pos f.ctx).drm

/-- The stochastic draw of a lane (R252). -/
def State.draw (s : State) (pos : Coord) (f : Firing) (l : Nat) : Nat :=
  prDraw (s.ctx pos f.ctx).srk ((f.iter + l) * 16 + f.ix)

/-! ## Writing -/

/-- A result lane: its pattern, its poison and the flags that it raises. -/
structure Lane where
  v : Nat
  psn : Bool
  fl : Nat := 0
deriving DecidableEq, Repr

/-- The flags that lanes raise: poisoned lanes set none (R180). -/
def laneFlags (ls : List (Nat × Lane)) : Nat := ls.foldl (fun a x => if x.2.psn then a else a ||| x.2.fl) 0

/-- Raise sticky flags of a context (R181). An ME and a Till set none (R457). -/
def State.raise (s : State) (pos : Coord) (k fl : Nat) : State :=
  if kindOf pos = .me ∨ kindOf pos = .till then s else s.modCtx pos k fun x => { x with sf := x.sf ||| fl }

/-- Write lanes of a temporary (R176, R179). -/
def Firing.writeTemp (f : Firing) (r : Nat) (ls : List (Nat × Lane)) : Firing :=
  { f with temps := ls.map (fun x => ((r, x.1), (BitVec.ofNat 64 x.2.v, x.2.psn))) ++ f.temps }

/-- Write bits of a mask register (R179). -/
def Firing.writeMask (f : Firing) (m : Nat) (ls : List (Nat × Lane)) : Firing :=
  let v := f.masks.getD m (0, 0)
  let set (w : Nat) (g : Lane → Bool) : Nat := ls.foldl (fun w x => setBits w x.1 1 (b2n (g x.2))) w
  { f with masks := setNth f.masks m (set v.1 (fun x => x.v % 2 == 1), set v.2 (fun x => x.psn)) }

/-- The token that an instruction sends for its result lanes (R179). -/
def resultTok (f : Firing) (wide : Bool) (mask : Nat) (ls : List (Nat × Lane)) : Token :=
  let t : Table Nat Lane := ls
  let zero : Lane := { v := 0, psn := false }
  valueTok f mask (maskOf f.len fun l => bit mask l && (t.get zero l).psn) wide
    ((List.range f.len).map fun l => if bit mask l then BitVec.ofNat 64 (t.get zero l).v else 0)

/-- Write a result (R179): to temporaries or mask bits, as a token on a port, or nowhere. -/
def State.writeDst (s : State) (pos : Coord) (slot : Nat) (f : Firing) (d : Dst) (wide : Bool) (mask : Nat)
    (ls : List (Nat × Lane)) : State :=
  match d with
  | .t r => s.modSlot pos slot fun f => f.writeTemp r ls
  | .m m => s.modSlot pos slot fun f => f.writeMask m ls
  | .o o => s.enqueueRun pos f.ctx o false false (resultTok f wide mask ls)
  | .none => s

/-- The output queue has room for what the instruction sends (R174). -/
def State.roomFor (s : State) (pos : Coord) (f : Firing) (d : Dst) (wide : Bool) : Bool :=
  match d with
  | .o o => s.room pos f.ctx o (tokensOf wide f.len)
  | _ => true

/-! ## Going on -/

/-- What a firing's temporaries held becomes past as it leaves a slot (R177). -/
def Node.remember (n : Node) (part : Nat) (f : Firing) : Node :=
  let new := (f.temps.map fun t => (part, t.1.2, f.entry, t.2.1)).filter fun h =>
    !n.hist.any fun g => decide (g.1 = h.1 ∧ g.2.1 = h.2.1 ∧ g.2.2.1 ≤ h.2.2.1 ∧ g.2.2.2 = h.2.2.2)
  { n with hist := n.hist ++ new.eraseDups }

/-- A firing leaves its slot (R173): the tokens it consumed leave TCNT (R147), the node counts it, and what its
temporaries held becomes past (R177). -/
def State.leaveSlot (s : State) (pos : Coord) (slot : Nat) (f : Firing) : State :=
  let part := s.partIdOf f.region
  let s := s.tcntSub f.region f.frame f.consumed
  s.modNode pos fun n =>
    { (n.remember part f).setSlot slot none with
      fires := satAdd 32 n.fires 1, zfires := if f.tmask = 0 then satAdd 32 n.zfires 1 else n.zfires }

/-- The instruction word reads or writes a 64-bit type, in TY or as the source of a conversion (R171, R254). -/
def widePass (w : Nat) : Bool :=
  let wide (c : Nat) : Bool := c == 3 || c == 7 || c == 11
  wide (bits w 52 4) || decide (0x60 ≤ w / 2 ^ 56 ∧ w / 2 ^ 56 ≤ 0x62) && wide (bits w 16 4)

/-- Passes of the current instruction over the run (R171, R254): 16 lanes a pass, 8 for a 64-bit type; one for a Token
Engine or Escrow instruction but POISON; a zero-mask firing takes one issue cycle in all (R173). -/
def Firing.passes (f : Firing) : Nat :=
  let w := (f.words.getD f.ix 0).toNat
  let opc := w / 2 ^ 56
  if f.tmask = 0 then (if f.ix = 0 then 1 else 0)
  else if (0x80 ≤ opc ∧ opc < 0x90) ∨ (0xf0 ≤ opc ∧ opc ≠ 0xfc) then 1
  else ceilDiv f.len (if widePass w then 8 else 16)

/-- A cross-lane instruction by its opcode (R172, R254), whose result comes from its last pass. -/
def crossLane (opc : Nat) : Bool := [0x2c, 0x2d, 0x30, 0x31, 0x32, 0x37, 0x38, 0x3b, 0x5b, 0x63, 0x65].contains opc

/-- A lane belongs to a pass before the current instruction's last one (R171, R174). -/
def Firing.earlyLane (f : Firing) (l : Nat) : Bool :=
  let w := (f.words.getD f.ix 0).toNat
  !crossLane (w / 2 ^ 56) && decide (l < (f.passes - 1) * (if widePass w then 8 else 16))

/-- The instruction is complete: the firing, which has gathered its operands, goes on to the next, or leaves its slot after the
last. -/
def State.advance (s : State) (pos : Coord) (slot : Nat) : State :=
  match (s.node pos).slot slot with
  | none => s
  | some f =>
    let s := s.gather pos slot
    let s := s.modNode pos fun n =>
      { n with passes := n.passes + (if f.early then 1 else f.passes), lastIssue := if f.opid = 0 then f.ctx else n.lastIssue }
    if f.ix + 1 < f.words.length then
      s.modSlot pos slot fun f =>
        { f with ix := f.ix + 1, part := 0, early := false, opid := 0, skip := false, patch := none, stalled := false, xl := [],
                 readmitted := false }
    else s.leaveSlot pos slot f

/-- A firing enters a slot, or goes on in it when it has been answered; one that trapped at its last instruction has ended (R450,
R451). One that comes from another node's image counts as an entry of its own (R177). -/
def State.reenter (s : State) (pos : Coord) (slot : Nat) (f : Firing) : State :=
  let f := if f.entry = 0 then { f with entry := (s.node pos).entries + 1 } else f
  let s := s.modNode pos fun n => { n.setSlot slot (some f) with entries := max n.entries f.entry }
  if f.ix < f.words.length then s else (s.gather pos slot).leaveSlot pos slot f

/-- The firing that the current step executes. -/
def State.firing (s : State) : Option Firing := (s.node s.cur.pos).slot s.cur.slot

/-- A step of a firing: nothing happens when the slot is empty or its firing is held; one that has faulted posts its record (R495). -/
def State.withFiring (s : State) (k : Firing → Out) : Out :=
  match s.firing with
  | some f =>
    if f.held then .next s
    else match f.due with
      | some x => s.takeFrameFault s.cur.pos s.cur.slot x.1 x.2
      | none => k f
  | none => .next s

/-- Lanes that SKIP suppresses, counted at a cluster (R449, R455). -/
def State.countSkip (s : State) (pos : Coord) (k : Nat) : State :=
  match kindOf pos with
  | .link | .reserved => s
  | _ => s.modCluster (clusterOf pos) fun g => { g with psup := satAdd 32 g.psup k }

/-- The instruction acts under SKIP. -/
def Firing.skipped (f : Firing) : Bool := f.skip || f.skipAll

/-- The current firing waits for its record to have room (R456, R495). -/
def State.stall (s : State) (part : Nat) : State :=
  (s.waitToPost part).modSlot s.cur.pos s.cur.slot fun f => { f with stalled := true }

/-- A part of an instruction that emits in parts has gone out: the firing has gathered its operands, and its progress is `part`
(R173, R174). -/
def State.partDone (s : State) (part : Nat) : State :=
  let s := s.modNode s.cur.pos fun n => { n with lastIssue := ((n.slot s.cur.slot).map (·.ctx)).getD n.lastIssue }
  (s.modSlot s.cur.pos s.cur.slot fun f => { f with part := part }).gather s.cur.pos s.cur.slot

/-- An instruction waits for output-queue room: its passes but the last issue, and raise the flags of their lanes (R173, R174,
R181, R210). -/
def State.issueEarly (s : State) (f : Firing) (ls : List (Nat × Lane)) : State :=
  if f.early ∨ f.passes ≤ 1 then s
  else
    let s := s.raise s.cur.pos f.ctx (laneFlags (ls.filter fun x => f.earlyLane x.1))
    let s := s.modNode s.cur.pos fun n => { n with passes := n.passes + (f.passes - 1) }
    (s.modSlot s.cur.pos s.cur.slot fun f => { f with early := true }).gather s.cur.pos s.cur.slot

/-- Complete an instruction with its result lanes: flags, of the lanes whose passes have not issued before, destination, next
instruction. -/
def State.complete (s : State) (f : Firing) (d : Dst) (wide : Bool) (mask : Nat) (ls : List (Nat × Lane)) : State :=
  let pos := s.cur.pos
  let slot := s.cur.slot
  let s := s.raise pos f.ctx (laneFlags (ls.filter fun x => !(f.early && f.earlyLane x.1)))
  let s := s.writeDst pos slot f d wide mask ls
  s.advance pos slot

/-- The result lanes of an instruction (R449): under SKIP its active lanes are poisoned zeros; under PATCH they take the pattern,
cut to the width `w` of the result (R176); else they are what it computes. -/
def Firing.resultLanes (f : Firing) (n : Niw) (w : Nat) (g : Firing → List (Nat × Lane)) : List (Nat × Lane) :=
  if f.skipped then (f.active n.pred).map fun l => (l, { v := 0, psn := true })
  else match f.patch with
    | some v => (f.active n.pred).map fun l => (l, { v := v.toNat % 2 ^ w, psn := false })
    | none => g f

/-- An instruction whose only effect is its result (R178 to R181, R449): while the output queue has no room, all its passes but the
last issue (R174); then it writes its result lanes. -/
def State.result (s : State) (n : Niw) (wide : Bool) (w : Nat) (g : Firing → List (Nat × Lane)) : Out :=
  s.withFiring fun f =>
    let ls := f.resultLanes n w g
    if !s.roomFor s.cur.pos f n.d wide then .next (s.issueEarly f ls)
    else
      let s := if f.skipped then s.countSkip s.cur.pos (f.active n.pred).length else s
      .next (s.complete f n.d wide (f.eff n.pred) ls)

/-- A lane-wise instruction: each active lane computes its value and flags from the operands' patterns in that lane, and
is poisoned when one of them or its predicate bit is (R180). -/
def State.laneWise (s : State) (n : Niw) (wide : Bool) (w : Nat) (srcs : List (Ty × Sel))
    (g : Firing → Nat → List Nat → Nat × Nat) : Out :=
  s.result n wide w fun f =>
    (f.active n.pred).map fun l =>
      let vs := srcs.zipIdx.map fun q => s.readSel s.cur.pos f n q.1.1 q.2 q.1.2 l
      let r := g f l (vs.map (·.1))
      (l, { v := r.1, psn := f.predPoison n.pred l || vs.any (·.2), fl := r.2 })

/-- The operand patterns of every active lane of one selector, with poison. -/
def State.column (s : State) (n : Niw) (f : Firing) (ty : Ty) (use : Nat) (sel : Sel) : List (Nat × PVal) :=
  (f.active n.pred).map fun l => (l, s.readSel s.cur.pos f n ty use sel l)

/-- A predicate bit of a lane that a cross-lane instruction combines is poisoned: lanes 0 to n − 1 count whether their bit
makes them active or not (R180, R209). -/
def Firing.anyPredPoison (f : Firing) (p : Pred) (among : Nat → Bool) : Bool :=
  (List.range f.len).any fun l => among l && f.predPoison p l

end Sys2Proof.Machine
end

