-- ==== Sys2Proof/Machine/CeInt.lean ====
section
/-! DEFINITION. The Compute Element's integer, lane and mask instructions (R183, R187 to R200). -/

namespace Sys2Proof.Machine

/-- Operand `i` of a lane. -/
def arg (vs : List Nat) (i : Nat) : Nat := vs.getD i 0

/-- An integer instruction of one, two or three operands: x := op(a, b, c), then ires (R187). -/
def State.intOp (s : State) (n : Niw) (op : Int → Int → Int → Int) : Out :=
  s.laneWise n n.ty.isWide n.ty.width [(n.ty, n.a), (n.ty, n.b), (n.ty, n.c)] fun _ _ v =>
    ires n.ty n.sat (op (asInt n.ty (arg v 0)) (asInt n.ty (arg v 1)) (asInt n.ty (arg v 2)))

/-- ADD (R187). -/
def execAdd (n : Niw) (s : State) : Out := s.intOp n fun a b _ => a + b
/-- SUB (R187). -/
def execSub (n : Niw) (s : State) : Out := s.intOp n fun a b _ => a - b
/-- MUL (R187). -/
def execMul (n : Niw) (s : State) : Out := s.intOp n fun a b _ => a * b
/-- MULH (R187): floor(a · b / 2^w). -/
def execMulh (n : Niw) (s : State) : Out := s.intOp n fun a b _ => a * b / 2 ^ n.ty.width
/-- MAD (R187). -/
def execMad (n : Niw) (s : State) : Out := s.intOp n fun a b c => a * b + c
/-- SAD (R187). -/
def execSad (n : Niw) (s : State) : Out := s.intOp n fun a b c => (a - b).natAbs + c
/-- MIN (R187). -/
def execMin (n : Niw) (s : State) : Out := s.intOp n fun a b _ => min a b
/-- MAX (R187). -/
def execMax (n : Niw) (s : State) : Out := s.intOp n fun a b _ => max a b
/-- ABS (R187). -/
def execAbs (n : Niw) (s : State) : Out := s.intOp n fun a _ _ => a.natAbs
/-- NEG (R187). -/
def execNeg (n : Niw) (s : State) : Out := s.intOp n fun a _ _ => -a
/-- CLAMP (R187): with b > c it gives c. -/
def execClamp (n : Niw) (s : State) : Out := s.intOp n fun a b c => min (max a b) c

/-- ADDC and SUBB (R188): the sum or difference with the mask bit, and the carry or borrow that goes back into it. -/
def State.carryOp (s : State) (n : Niw) (k : Nat) (op : Nat → Nat → Nat → Nat × Bool) : Out :=
  s.withFiring fun f =>
    if !s.roomFor s.cur.pos f n.d n.ty.isWide then .next (s.issueEarly f [])
    else
      let lanes := f.active n.pred
      let m := f.masks.getD k (0, 0)
      let res := lanes.map fun l =>
        let a := s.readSel s.cur.pos f n n.ty 0 n.a l
        let b := s.readSel s.cur.pos f n n.ty 1 n.b l
        let r := op a.1 b.1 (b2n (bit m.1 l))
        let src := a.2 || b.2 || bit m.2 l
        (l, r, src, src || f.predPoison n.pred l)
      let carry := res.map fun x => (x.1, ({ v := b2n x.2.1.2, psn := x.2.2.2 } : Lane))
      let put (s : State) (ls : List (Nat × Lane)) : State := s.modSlot s.cur.pos s.cur.slot fun f => f.writeMask k ls
      let lost := lanes.map fun l => (l, ({ v := 0, psn := true } : Lane))
      if f.skipped then
        .next ((put (s.countSkip s.cur.pos lanes.length) lost).complete f n.d n.ty.isWide (f.eff n.pred) lost)
      else
        .next ((put s carry).complete f n.d n.ty.isWide (f.eff n.pred)
          (res.map fun x => (x.1, ({ v := x.2.1.1, psn := x.2.2.2 } : Lane))))

/-- The mask register that a selector names. -/
def maskReg (x : Sel) : Nat := match x with | .m k => k | _ => 0

/-- ADDC (R188). -/
def execAddc (n : Niw) (s : State) : Out :=
  s.carryOp n (maskReg n.c) fun a b m =>
    let w := 2 ^ n.ty.width
    ((a + b + m) % w, decide (w ≤ a + b + m))
/-- SUBB (R188). -/
def execSubb (n : Niw) (s : State) : Out :=
  s.carryOp n (maskReg n.c) fun a b m =>
    let w := 2 ^ n.ty.width
    ((2 * w + a - b - m) % w, decide (a < b + m))

/-- DOT4 (R189): the accumulator and the result are 32 bits wide. -/
def execDot4 (n : Niw) (s : State) : Out :=
  let sg := n.ty.isSigned
  let t32 : Ty := if sg then .i32 else .n32
  let byte (x i : Nat) : Int := if sg then sx (bits x (8 * i) 8) 8 else (bits x (8 * i) 8 : Nat)
  s.laneWise n false 32 [(.n32, n.a), (.n32, n.b), (t32, n.c)] fun _ _ v =>
    ires t32 n.sat ((List.range 4).foldl (fun acc i => acc + byte (arg v 0) i * byte (arg v 1) i) (asInt t32 (arg v 2)))

/-- A logic instruction on patterns (R190). -/
def State.bitOp (s : State) (n : Niw) (op : Nat → Nat → Nat → Nat → Nat) : Out :=
  s.laneWise n n.ty.isWide n.ty.width [(n.ty, n.a), (n.ty, n.b), (n.ty, n.c)] fun _ _ v =>
    (op n.ty.width (arg v 0) (arg v 1) (arg v 2) % 2 ^ n.ty.width, 0)

/-- The complement of a pattern. -/
def notW (w x : Nat) : Nat := 2 ^ w - 1 - x % 2 ^ w

/-- AND (R190). -/
def execAnd (n : Niw) (s : State) : Out := s.bitOp n fun _ a b _ => a &&& b
/-- OR (R190). -/
def execOr (n : Niw) (s : State) : Out := s.bitOp n fun _ a b _ => a ||| b
/-- XOR (R190). -/
def execXor (n : Niw) (s : State) : Out := s.bitOp n fun _ a b _ => a ^^^ b
/-- ANDN (R190). -/
def execAndn (n : Niw) (s : State) : Out := s.bitOp n fun w a b _ => a &&& notW w b
/-- NOT (R190). -/
def execNot (n : Niw) (s : State) : Out := s.bitOp n fun w a _ _ => notW w a

/-- SHL (R190): the count is B's low byte; 0 when it reaches the width. -/
def execShl (n : Niw) (s : State) : Out := s.bitOp n fun w a b _ => if w ≤ b % 256 then 0 else a * 2 ^ (b % 256)
/-- SHR (R190). -/
def execShr (n : Niw) (s : State) : Out := s.bitOp n fun _ a b _ => a / 2 ^ (b % 256)
/-- SAR (R190): fills with bit w − 1 whatever the signedness. -/
def execSar (n : Niw) (s : State) : Out := s.bitOp n fun w a b _ => wrap (sx a w / 2 ^ (b % 256)) w
/-- ROT (R190). -/
def execRot (n : Niw) (s : State) : Out :=
  s.bitOp n fun w a b _ =>
    let k := b % 256 % w
    a * 2 ^ k + a / 2 ^ (w - k)
/-- FUNNEL (R190). -/
def execFunnel (n : Niw) (s : State) : Out := s.bitOp n fun w a b c => (a * 2 ^ w + b) / 2 ^ (c % w)

/-- CLZ (R191). -/
def execClz (n : Niw) (s : State) : Out := s.bitOp n fun w a _ _ => if a = 0 then w else w - 1 - lg a
/-- CTZ (R191). -/
def execCtz (n : Niw) (s : State) : Out :=
  s.bitOp n fun w a _ _ => ((List.range w).find? (bit a)).getD w
/-- POPC (R191). -/
def execPopc (n : Niw) (s : State) : Out := s.bitOp n fun w a _ _ => popcount a w
/-- BREV (R191). -/
def execBrev (n : Niw) (s : State) : Out := s.bitOp n fun w a _ _ => maskOf w fun i => bit a (w - 1 - i)

/-- BFE (R192). -/
def execBfe (n : Niw) (s : State) : Out :=
  s.bitOp n fun w a b c =>
    let pos := b % 256
    let len := c % 256
    if len = 0 ∨ w ≤ pos then 0
    else
      let m := min len (w - pos)
      let f := bits a pos m
      if n.ty.isSigned then wrap (sx f m) w else f
/-- BFI (R192). -/
def execBfi (n : Niw) (s : State) : Out :=
  s.bitOp n fun _ a b _ => setBits b (n.imm.toNat % 256) (n.imm.toNat / 256) a

/-- PERM (R193). -/
def execPerm (n : Niw) (s : State) : Out :=
  s.laneWise n false 32 [(.n32, n.a), (.n32, n.b), (.n32, n.c)] fun _ _ v =>
    let x := arg v 1 * 2 ^ 32 + arg v 0
    (pack ((List.range 4).map fun i =>
      let k := bits (arg v 2) (4 * i) 4
      (8, if k < 8 then bits x (8 * k) 8 else 0)), 0)

/-- The type that PACK reads its elements as (R193). -/
def packSrc (ty : Ty) : Ty := if ty.isInt then (if ty.isSigned then .i32 else .n32) else ty
/-- PACK (R193). -/
def execPack (n : Niw) (s : State) : Out :=
  let src := packSrc n.ty
  let narrow (x : Nat) : Nat × Nat := if n.ty.isInt then ires n.ty n.sat (asInt src x) else (x, 0)
  s.laneWise n false 32 [(src, n.a), (src, n.b), (.n32, n.c)] fun _ _ v =>
    let a := narrow (arg v 0)
    let b := narrow (arg v 1)
    (if n.ty.width = 16 then pack [(16, a.1), (16, b.1)] else pack [(8, a.1), (8, b.1), (16, arg v 2)], a.2 ||| b.2)

/-- UNPK (R193). -/
def execUnpk (n : Niw) (s : State) : Out :=
  s.laneWise n false 32 [(.n32, n.a)] fun _ _ v =>
    let w := n.ty.width
    let e := bits (arg v 0) (n.imm.toNat * w) w
    (if n.ty.isSigned then wrap (sx e w) 32 else e, 0)

/-- SEL (R194): the result is poisoned with C or with the chosen operand. -/
def execSel (n : Niw) (s : State) : Out :=
  s.result n n.ty.isWide n.ty.width fun f =>
    (f.active n.pred).map fun l =>
      let c := s.readSlot s.cur.pos f n 2 n.c l
      let v := if c.1 ≠ 0 then s.readSel s.cur.pos f n n.ty 0 n.a l else s.readSel s.cur.pos f n n.ty 1 n.b l
      (l, { v := v.1, psn := c.2 || v.2 || f.predPoison n.pred l })

/-- A comparison, as 1 or 0 in each lane (R65, R194). -/
def State.cmpOp (s : State) (n : Niw) : Out :=
  s.laneWise n false 32 [(n.ty, n.a), (n.ty, n.b)] fun _ _ v =>
    (b2n (compareAs n.ty false n.opt.toNat (arg v 0) (arg v 1)), 0)
/-- CMP (R194). -/
def execCmp (n : Niw) (s : State) : Out := s.cmpOp n
/-- CMPM (R194). -/
def execCmpm (n : Niw) (s : State) : Out := s.cmpOp n

/-- MOV (R195): the pattern of A. -/
def execMov (n : Niw) (s : State) : Out := s.laneWise n n.ty.isWide n.ty.width [(n.ty, n.a)] fun _ _ v => (arg v 0, 0)
/-- MOVI with .LO (R195). -/
def execMovi (n : Niw) (s : State) : Out := s.laneWise n false 32 [] fun _ _ _ => (wrap (sx n.imm.toNat 16) 32, 0)
/-- MOVI with .HI (R195). -/
def execMoviHi (n : Niw) (s : State) : Out :=
  s.laneWise n false 32 [(.n32, n.a)] fun _ _ v => (n.imm.toNat * 2 ^ 16 + arg v 0 % 2 ^ 16, 0)
/-- LEA (R195). -/
def execLea (n : Niw) (s : State) : Out :=
  s.intOp n fun a b _ => a + b * 2 ^ (n.imm.toNat % 16)
/-- LEA2 (R195). -/
def execLea2 (n : Niw) (s : State) : Out :=
  s.intOp n fun a b c => a + b * 2 ^ (n.imm.toNat % 16) + c * 2 ^ (n.imm.toNat / 16 % 16)
/-- NOP (R195): one pass, no effect. -/
def execNop (_n : Niw) (s : State) : Out := s.withFiring fun _ => .next (s.advance s.cur.pos s.cur.slot)

/-- A lane move (R196): each active lane takes A of the lane that `src` names, when that lane is active; else 0. A
poisoned predicate bit of the source lane poisons the result whether it makes the lane active or not (R180). -/
def State.laneMove (s : State) (n : Niw) (useB : Bool) (src : Nat → Nat → Int) : Out :=
  s.result n n.ty.isWide n.ty.width fun f =>
    let eff := f.eff n.pred
    (f.active n.pred).map fun l =>
      let b : PVal := if useB then s.readSlot s.cur.pos f n 1 n.b l else (0, false)
      let j := src l b.1
      let psn := b.2 || f.predPoison n.pred l
      if 0 ≤ j ∧ j < f.len then
        let p := psn || f.predPoison n.pred j.toNat
        if bit eff j.toNat then
          let a := s.readSel s.cur.pos f n n.ty 0 n.a j.toNat
          (l, { v := a.1, psn := a.2 || p })
        else (l, { v := 0, psn := p })
      else (l, { v := 0, psn := psn })
/-- SHFL (R196). -/
def execShfl (n : Niw) (s : State) : Out :=
  s.laneMove n true fun l b =>
    let j := b % 32
    match n.opt.toNat with
    | 0 => j
    | 1 => ((l ^^^ j : Nat) : Int)
    | 2 => (l : Int) - j
    | _ => (l : Int) + j
/-- BCAST (R196). -/
def execBcast (n : Niw) (s : State) : Out := s.laneMove n false fun _ _ => (n.imm.toNat % 32 : Nat)

/-- The operations of LRED and LSCAN and their identities (R197). -/
def redOp (ty : Ty) (op : Nat) (a b : Int) : Int :=
  let w := ty.width
  match op with
  | 0 => a + b
  | 1 => min a b
  | 2 => max a b
  | 3 => asInt ty (wrap a w &&& wrap b w)
  | 4 => asInt ty (wrap a w ||| wrap b w)
  | _ => asInt ty (wrap a w ^^^ wrap b w)
def redId (ty : Ty) (op : Nat) : Int :=
  match op with
  | 1 => Ty.hi ty
  | 2 => Ty.lo ty
  | 3 => asInt ty (2 ^ ty.width - 1)
  | _ => 0

/-- LRED (R197). -/
def execLred (n : Niw) (s : State) : Out :=
  s.result n n.ty.isWide n.ty.width fun f =>
    let op := n.opt.toNat % 8
    let col := s.column n f n.ty 0 n.a
    let x := col.foldl (fun a c => redOp n.ty op a (asInt n.ty c.2.1)) (redId n.ty op)
    let r := ires n.ty n.sat x
    let psn := col.any (fun c => c.2.2) || f.anyPredPoison n.pred fun _ => true
    col.map fun c => (c.1, { v := r.1, psn := psn, fl := r.2 })
/-- LSCAN (R197). -/
def execLscan (n : Niw) (s : State) : Out :=
  s.result n n.ty.isWide n.ty.width fun f =>
    let op := n.opt.toNat % 8
    let exc := bit n.opt.toNat 3
    let col := s.column n f n.ty 0 n.a
    col.map fun c =>
      let before (j : Nat) : Bool := if exc then decide (j < c.1) else decide (j ≤ c.1)
      let part := col.filter fun d => before d.1
      let r := ires n.ty n.sat (part.foldl (fun a d => redOp n.ty op a (asInt n.ty d.2.1)) (redId n.ty op))
      (c.1, { v := r.1, fl := r.2,
              psn := part.any (fun d => d.2.2) || f.predPoison n.pred c.1 || f.anyPredPoison n.pred before })

/-- LPACK (R198): the active lanes' values move to the lowest lanes. A lane that a poisoned predicate bit leaves out
poisons the result lane that it would move to (R180). -/
def execLpack (n : Niw) (s : State) : Out :=
  s.withFiring fun f =>
    let wide := n.ty.isWide
    if !s.roomFor s.cur.pos f n.d wide then .next (s.issueEarly f [])
    else
      let col := s.column n f n.ty 0 n.a
      let k := col.length
      let eff := f.eff n.pred
      let ls := col.zipIdx.map fun c =>
        (c.2, if f.skipped then ({ v := 0, psn := true } : Lane)
              else { v := c.1.2.1,
                     psn := c.1.2.2 || f.predPoison n.pred c.1.1 ||
                       f.anyPredPoison n.pred fun j => !bit eff j && popcount eff j == c.2 })
      let s := if f.skipped then s.countSkip s.cur.pos k else s
      .next (s.complete f n.d wide (2 ^ k - 1) ls)

/-- CNT (R198). -/
def execCnt (n : Niw) (s : State) : Out :=
  s.result n false 32 fun f =>
    let col := s.column n f n.ty 0 n.a
    col.map fun c =>
      let among (j : Nat) : Bool := !bit n.opt.toNat 0 || decide (j < c.1)
      let part := col.filter fun d => among d.1
      (c.1, { v := (part.filter fun d => d.2.1 == c.2.1).length,
              psn := c.2.2 || part.any (fun d => d.2.2) || f.predPoison n.pred c.1 || f.anyPredPoison n.pred among })

/-- A mask instruction (R199): bit by bit, with the poison of the bits it reads. -/
def State.maskOp (s : State) (n : Niw) (two : Bool) (op : Bool → Bool → Bool) : Out :=
  s.result n false 32 fun f =>
    let a := f.masks.getD (maskReg n.a) (0, 0)
    let b := f.masks.getD (maskReg n.b) (0, 0)
    (f.active n.pred).map fun l =>
      (l, { v := b2n (op (bit a.1 l) (bit b.1 l)),
            psn := bit a.2 l || (two && bit b.2 l) || f.predPoison n.pred l })
/-- MAND (R199). -/
def execMand (n : Niw) (s : State) : Out := s.maskOp n true fun a b => a && b
/-- MOR (R199). -/
def execMor (n : Niw) (s : State) : Out := s.maskOp n true fun a b => a || b
/-- MXOR (R199). -/
def execMxor (n : Niw) (s : State) : Out := s.maskOp n true fun a b => a != b
/-- MNOT (R199). -/
def execMnot (n : Niw) (s : State) : Out := s.maskOp n false fun a _ => !a

/-- A count over a whole mask register (R199). -/
def State.maskCount (s : State) (n : Niw) (g : Nat → Nat → Nat) : Out :=
  s.result n false 32 fun f =>
    let m := f.masks.getD (maskReg n.a) (0, 0)
    (f.active n.pred).map fun l =>
      (l, { v := g f.len (m.1 % 2 ^ f.len), psn := decide (m.2 % 2 ^ f.len ≠ 0) || f.predPoison n.pred l })
/-- MPOP (R199). -/
def execMpop (n : Niw) (s : State) : Out := s.maskCount n fun len m => popcount m len
/-- MFIRST (R199). -/
def execMfirst (n : Niw) (s : State) : Out := s.maskCount n fun len m => ((List.range len).find? (bit m)).getD 32
/-- MSET (R199): the bits are not poisoned. -/
def execMset (n : Niw) (s : State) : Out :=
  s.result n false 32 fun f =>
    (f.active n.pred).map fun l =>
      (l, { v := b2n (bit (s.readSel s.cur.pos f n .n32 0 n.a l).1 l), psn := false })

/-- TAGRD (R200): never poisoned. -/
def execTagrd (n : Niw) (s : State) : Out :=
  s.result n false 32 fun f =>
    (f.active n.pred).map fun l =>
      let v := match n.opt.toNat with
        | 0 => f.frame
        | 1 => f.iter + l
        | 2 => f.iter
        | 3 => f.len
        | 4 => f.ctx
        | 5 => s.cur.pos.die.toNat
        | 6 => f.tmask
        | _ => f.pmask
      (l, { v := v, psn := false })

/-- HASH of R200 on 32-bit values. -/
def hash32 (a b : Nat) : Nat :=
  let x := (a ^^^ b) % 2 ^ 32
  let x := (x ^^^ (x >>> 16)) * 0x9E3779B1 % 2 ^ 32
  let x := (x ^^^ (x >>> 13)) * 0x6C8E9CF5 % 2 ^ 32
  x ^^^ (x >>> 16)
/-- HASH (R200). -/
def execHash (n : Niw) (s : State) : Out :=
  s.laneWise n false 32 [(.n32, n.a), (.n32, n.b)] fun _ _ v => (hash32 (arg v 0) (arg v 1), 0)

end Sys2Proof.Machine
end

