-- ==== Sys2Proof/Machine/TillBase.lean ====
section
/-! DEFINITION. A Till's bound and buckets (R371, R379, R385), which other nodes' arbitration reads. -/

namespace Sys2Proof.Machine

/-- A Till. -/
def State.till (s : State) (c : Coord) : Till := s.tills.get {} c
/-- Change a Till. -/
def State.modTill (s : State) (c : Coord) (f : Till → Till) : State := { s with tills := s.tills.set c (f (s.till c)) }
/-- W (R372). -/
def Till.w (t : Till) : Nat := bits t.cfg.toNat 59 5
/-- DELTA. -/
def Till.delta (t : Till) : Nat := bits t.cfg.toNat 53 6
/-- L_eff (R379). -/
def Till.leff (t : Till) : Nat := min t.lpkg (min t.ldie t.locLow)
/-- bkt(p) (R371). -/
def Till.bkt (t : Till) (p : Nat) : Nat := p / 2 ^ t.w
/-- A task of priority p is eligible (R380). -/
def Till.eligible (t : Till) (p : Nat) : Bool := decide (t.bkt p ≤ t.bkt t.leff + t.delta)
/-- A Till's pop source of a context. -/
def Till.source (t : Till) (k : Nat) : Pop := t.sources.get {} k
/-- Change a pop source. -/
def Till.modSource (t : Till) (k : Nat) (f : Pop → Pop) : Till := { t with sources := t.sources.set k (f (t.source k)) }

/-! ## The Mint's order (R146, R382) -/

/-- The request at the head of the Mint's order is granted, if the budget allows (R146). -/
def State.serveHead (s : State) (r : Region) : Option State :=
  if r.budget ≤ r.liveFrames then none
  else match r.requests with
    | .run ic blk :: rest =>
      (r.grant blk).map fun g => s.modRegion r.id fun _ => { g.1 with requests := rest, granted := some (ic, g.2) }
    | .pop pos k :: rest =>
      let blk := match (s.ctx pos k).owner with | some o => o.blk | none => 0
      (r.grant blk).map fun g => (s.modRegion r.id fun _ => { g.1 with requests := rest }).modTill pos fun t =>
        t.modSource k fun p => { p with frames := p.frames ++ [g.2], asked := p.asked - 1 }
    | [] => none

/-- The Mint grants the requests that it has received, in order, as far as the budget goes (R146); `fuel` bounds them. -/
def State.serveMint (s : State) (region : Nat) : Nat → State
  | 0 => s
  | fuel + 1 =>
    match (s.region region).bind s.serveHead with
    | some s => State.serveMint s region fuel
    | none => s

/-- The iterations of a batch as a mask. -/
def Batch.full (b : Batch) : Nat := 2 ^ b.run - 1

/-- A batch's frame has returned to its pop source's free frames: every iteration is covered and its TCNT is 0 (R384). -/
def Batch.over (b : Batch) (r : Region) : Bool := b.gone || (b.cov == b.full && (r.frame b.frame).tcnt == 0)

/-- The pop source serves the lowest bucket (R385). -/
def Till.urgent (t : Till) (r : Region) (k : Nat) : Bool :=
  (t.source k).batches.any fun b => decide (b.bucket ≤ t.bkt t.leff) && !b.over r

/-- A block holds a pop source that serves the lowest bucket: its contexts take precedence (R48, R385). -/
def State.urgent (s : State) (r : Region) (blk : Nat) : Bool :=
  r.clusters.any fun g =>
    let c := clusterNode g 5
    (List.range 8).any fun k =>
      let x := s.ctx c k
      x.mode == 3 && (match x.owner with | some o => o.region == r.id && o.blk == blk | none => false) && (s.till c).urgent r k

end Sys2Proof.Machine
end

