-- ==== Sys2Proof/Machine/TokenEngine.lean ====
section
/-! DEFINITION. The Token Engine's instructions (R148 to R169). -/

namespace Sys2Proof.Machine

/-- The edge id of a destination port, or 0 (R153). -/
def State.edgeOf (s : State) (pos : Coord) (k : Nat) (d : Dst) : Nat :=
  match d with
  | .o o => ((s.ctx pos k).rw o).edge
  | _ => 0

/-- A Token Engine instruction faults (R153). -/
def State.teFault (s : State) (f : Firing) (n : Niw) (cause detail auxv : Nat) : Out :=
  s.takeFrameFault s.cur.pos s.cur.slot .firing
    { s.infoOf s.cur.pos f cause detail with akind := 3, addr := s.edgeOf s.cur.pos f.ctx n.d, auxv := auxv % 2 ^ 64 }

/-- Lanes whose names are poisoned are suppressed: counted at the cluster, and recorded once for the frame (R154, R455,
R456). `all` is how many the instruction suppresses. -/
def State.sinkNames (s : State) (f : Firing) (n : Niw) (lanes : List Nat) (all : Nat) : State :=
  match lanes.head? with
  | none => s
  | some l => (s.countSkip s.cur.pos lanes.length).reportSink s.cur.pos f 3 (s.edgeOf s.cur.pos f.ctx n.d) l all

/-- Lanes are to be suppressed, and the record of the first has to wait (R456, R495). -/
def State.sinkNamesWait (s : State) (f : Firing) (lanes : List Nat) : Bool := !lanes.isEmpty && s.sinkMustWait f

/-- The region of the current firing. -/
def State.withRegion (s : State) (f : Firing) (k : Region → Out) : Out :=
  match s.region f.region with
  | some r => k r
  | none => .next s

/-- STATE of a frame is 1 or 2 (R148). -/
def Region.live (r : Region) (f : Nat) : Bool := decide (f < 1024) && ((r.frame f).state == 1 || (r.frame f).state == 2)

/-- Tag space of a frame: iterations 0 to 2^S − 1. -/
def Region.space (r : Region) (f : Nat) : Nat := 2 ^ (r.frame f).s

/-- Go on to the next instruction. -/
def State.goOn (s : State) : State := s.advance s.cur.pos s.cur.slot

/-! ## Frames (R155, R156) -/

/-- ALLOC (R155): one frame for each active lane, all or nothing. The Mint serves the requests that it received before, and refuses
while one of them still waits (R146). -/
def execAlloc (n : Niw) (s : State) : Out :=
  s.withFiring fun f => s.withRegion f fun r =>
    let pos := s.cur.pos
    if !s.roomFor pos f n.d false then .next s
    else
      let eff := f.eff n.pred
      let lanes := f.active n.pred
      let write (s : State) (g : Nat → Nat × Bool) : Out :=
        .next (s.complete f n.d false eff (lanes.zipIdx.map fun x => (x.1, { v := (g x.2).1, psn := (g x.2).2 })))
      if f.skipped then write (s.countSkip pos lanes.length) fun _ => (0, true)
      else match f.patch with
        | some v => write s fun _ => (v.toNat % 2 ^ 32, false)
        | none =>
          if lanes.isEmpty then write s fun _ => (0, false)
          else
            let s := s.serveMint r.id r.requests.length
            s.withRegion f fun r =>
              if !r.requests.isEmpty || decide (r.budget < r.liveFrames + lanes.length) then
                s.teFault f n Cause.frameBudget 1 (r.liveFrames + lanes.length)
              else match r.grantMany n.imm.toNat lanes.length with
                | none => s.teFault f n Cause.frameBudget 1 (r.liveFrames + lanes.length)
                | some (r', fs) =>
                  write (s.modRegion r.id fun _ => r') fun i => (fs.getD i 0, f.predPoison n.pred (lanes.getD i 0))

/-- FREE (R156): every named frame goes to STATE 2; a poisoned lane names none. -/
def execFree (n : Niw) (s : State) : Out :=
  s.withFiring fun f => s.withRegion f fun r =>
    if f.skipped then .next ((s.countSkip s.cur.pos (f.active n.pred).length).goOn)
    else
      let col := (s.column n f .n32 0 n.a).map fun c => (c.1, c.2.1, c.2.2 || f.predPoison n.pred c.1)
      let fr := ((col.filter fun c => !c.2.2).map fun c => c.2.1).eraseDups
      let sunk := (col.filter fun c => c.2.2).map fun c => c.1
      match fr.find? fun x => !(decide (x < 1024) && (r.frame x).state == 1) with
      | some x => s.teFault f n Cause.frameBudget 2 x
      | none =>
        if s.sinkNamesWait f sunk then .next (s.stall r.part)
        else
        let s := s.sinkNames f n sunk sunk.length
        .next ((fr.foldl (fun s x => s.modFrame r.id x fun y => { y with state := 2 }) s).goOn)

/-! ## Tokens with other tags (R157 to R160) -/

/-- The lanes that an instruction sends: each active lane's pattern and poison; poisoned zeros under SKIP, the pattern of
PATCH under that. -/
def State.sendLanes (s : State) (n : Niw) (f : Firing) : List (Nat × Lane) :=
  if f.skipped then (f.active n.pred).map fun l => (l, { v := 0, psn := true })
  else match f.patch with
  | some v => (f.active n.pred).map fun l => (l, { v := v.toNat % 2 ^ n.ty.width, psn := false })
  | none => (s.column n f n.ty 0 n.a).map fun c => (c.1, { v := c.2.1, psn := c.2.2 || f.predPoison n.pred c.1 })

/-- Suppressed lanes of an instruction under SKIP are counted at the cluster. -/
def State.countIfSkipped (s : State) (n : Niw) (f : Firing) : State :=
  if f.skipped then s.countSkip s.cur.pos (f.active n.pred).length else s

/-- EMIT (R157): the firing's run at base b + d. Under SKIP or PATCH a token whose base would be illegal carries the
firing's own tag (log 6). -/
def execEmit (n : Niw) (s : State) : Out :=
  s.withFiring fun f => s.withRegion f fun r =>
    let pos := s.cur.pos
    if !s.roomFor pos f n.d n.ty.isWide then .next s
    else
      let b : Int := f.iter + sx n.imm.toNat 16
      let legal := decide (0 ≤ b ∧ b + f.len ≤ (r.space f.frame : Int))
      if !legal && !f.skipped && f.patch.isNone then s.teFault f n Cause.tagRange 1 (wrap b 64)
      else match n.d with
        | .o o =>
          let t := resultTok f n.ty.isWide (f.eff n.pred) (s.sendLanes n f)
          let t := if legal then { t with iter := b.toNat } else t
          .next (((s.countIfSkipped n f).enqueueRun pos f.ctx o false false t).goOn)
        | _ => .next s

/-- What a lane of EMITT asks for (R158). -/
inductive Named where
  /-- The name is poisoned: the lane is suppressed. -/
  | sunk
  /-- The check fails: cause, DETAIL and AUXV. -/
  | bad (cause detail auxv : Nat)
  | to (frame iter : Nat)
deriving DecidableEq, Repr

/-- The name of a lane of EMITT. -/
def State.named (s : State) (n : Niw) (f : Firing) (r : Region) (l : Nat) : Named :=
  let b := s.readSel s.cur.pos f n .n32 1 n.b l
  let c := s.readSel s.cur.pos f n .n32 2 n.c l
  if b.2 || c.2 || f.predPoison n.pred l then .sunk
  else if !r.live b.1 then .bad Cause.frameBudget 3 b.1
  else if r.space b.1 < c.1 + 1 then .bad Cause.tagRange 2 c.1
  else .to b.1 c.1

/-- The lanes that join the token of a lane: active lanes in order with the same frame and consecutive iterations. -/
def joinLanes (frame : Nat) : Nat → List (Nat × Named) → List Nat
  | next, (l, .to f i) :: rest => if f = frame ∧ i = next then l :: joinLanes frame (next + 1) rest else []
  | _, _ => []

/-- The fault of a lane of an instruction that emits in parts (R153): the poisoned names that it has passed are suppressed; its progress
moves only with them, so that an instruction without an effect has none (R445). -/
def State.laneFault (s : State) (f : Firing) (n : Niw) (sunk : List Nat) (all part cause detail auxv : Nat) : Out :=
  if sunk.isEmpty then s.teFault f n cause detail auxv
  else ((s.sinkNames f n sunk all).modSlot s.cur.pos s.cur.slot fun f => { f with part := part }).teFault { f with part := part } n
    cause detail auxv

/-- EMITT (R158): one token a step, in ascending lane order, a run of 64-bit lanes beyond 16 as two (R28); the firing's progress is the
next lane (R174). Lanes with poisoned names are suppressed as they are passed (R455). -/
def execEmitt (n : Niw) (s : State) : Out :=
  s.withFiring fun f => s.withRegion f fun r =>
    let pos := s.cur.pos
    if f.skipped then .next ((s.countSkip pos ((f.active n.pred).filter fun l => decide (f.part ≤ l)).length).goOn)
    else if f.patch.isSome then s.result n n.ty.isWide n.ty.width fun _ => []
    else
      let names := (f.active n.pred).map fun l => (l, s.named n f r l)
      let left := names.filter fun x => decide (f.part ≤ x.1) && decide (x.2 ≠ .sunk)
      let all := (names.filter fun x => x.2 == .sunk).map (·.1)
      let sunk := all.filter fun l => decide (f.part ≤ l) && match left with | x :: _ => decide (l < x.1) | [] => true
      if s.sinkNamesWait f sunk then .next (s.stall r.part)
      else match left, n.d with
      | [], _ => .next ((s.sinkNames f n sunk all.length).goOn)
      | (l, .bad cause detail auxv) :: _, _ => s.laneFault f n sunk all.length l cause detail auxv
      | (l, .to frame iter) :: _, .o o =>
        let ls := joinLanes frame iter (names.filter fun x => decide (l ≤ x.1))
        let ls := if n.ty.isWide then ls.take 16 else ls
        if !s.room pos f.ctx o 1 then .next s
        else
          let s := s.sinkNames f n sunk all.length
          let vs := ls.map fun l => s.readSel pos f n n.ty 0 n.a l
          let t : Token := { valueTok f (2 ^ ls.length - 1) (maskOf ls.length fun i => (vs.getD i (0, false)).2)
                               n.ty.isWide (vs.map fun v => BitVec.ofNat 64 v.1) with
                             frame := frame, iter := iter, len := ls.length }
          let s := s.enqueue pos f.ctx o false false t
          .next (s.partDone (ls.getLastD l + 1))
      | _, _ => .next s

/-- ITER (R159): one token a step; the firing's progress is lane · 2^13 + runs sent. The count is checked before the lane's first
token, and each token as it is sent (R148). -/
def execIter (n : Niw) (s : State) : Out :=
  s.withFiring fun f => s.withRegion f fun r =>
    let pos := s.cur.pos
    if f.skipped then
      .next ((s.countSkip pos ((f.active n.pred).filter fun l => decide (f.part / 2 ^ 13 ≤ l)).length).goOn)
    else if f.patch.isSome then s.result n n.ty.isWide n.ty.width fun _ => []
    else
      let run := n.imm.toNat
      let at0 := f.part / 2 ^ 13
      let k := f.part % 2 ^ 13
      let vals := (f.active n.pred).map fun l =>
        let a := s.readSel pos f n .n32 0 n.a l
        let b := s.readSel pos f n .n32 1 n.b l
        (l, a.1, b.1, a.2 || b.2 || f.predPoison n.pred l)
      let left := vals.filter fun v => decide (at0 ≤ v.1) && !v.2.2.2
      let all := (vals.filter fun v => v.2.2.2).map (·.1)
      let sunk := all.filter fun l => decide (at0 ≤ l) && match left with | x :: _ => decide (l < x.1) | [] => true
      if s.sinkNamesWait f sunk then .next (s.stall r.part)
      else match left, n.d with
      | [], _ => .next ((s.sinkNames f n sunk all.length).goOn)
      | (l, count, frame, _) :: _, .o o =>
        let k := if l = at0 then k else 0
        let b := k * run
        let m := min run (count - b)
        let fault (detail cause auxv : Nat) : Out := s.laneFault f n sunk all.length (l * 2 ^ 13) cause detail auxv
        if !r.live frame then fault 3 Cause.frameBudget frame
        else if r.space frame < (if k = 0 then count else if b < count then b + m else 0) then fault 3 Cause.tagRange count
        else if !s.room pos f.ctx o 1 then .next s
        else if b < count then
          let t : Token := { valueTok f (2 ^ m - 1) 0 false ((List.range m).map fun i => BitVec.ofNat 64 (b + i)) with
                             frame := frame, iter := b, len := m }
          .next (((s.sinkNames f n sunk all.length).enqueue pos f.ctx o false false t).partDone (l * 2 ^ 13 + k + 1))
        else
          let t := markerTok frame (count % 4096) 0 (s.ctx pos f.ctx).sf false
          .next (((s.sinkNames f n sunk all.length).enqueue pos f.ctx o false false t).partDone ((l + 1) * 2 ^ 13))
      | _, _ => .next s

/-- The lanes of the tokens that a run of pieces takes, as first lane and number: a piece of more than 16 lanes of 64 bits is two
(R28, R160). -/
def splitRanges (wide : Bool) (piece len : Nat) : List (Nat × Nat) :=
  (List.range (ceilDiv len piece)).flatMap fun i =>
    let m := min piece (len - i * piece)
    if wide ∧ 16 < m then [(i * piece, 16), (i * piece + 16, m - 16)] else [(i * piece, m)]

/-- SPLIT (R160, R174): one token a step; the firing's progress is the tokens sent. A zero-mask firing sends one piece. -/
def execSplit (n : Niw) (s : State) : Out :=
  s.withFiring fun f =>
    let pos := s.cur.pos
    let ranges := splitRanges n.ty.isWide (if f.tmask = 0 then f.len else n.imm.toNat) f.len
    match n.d, ranges[f.part]? with
    | .o o, some (start, m) =>
      if !s.room pos f.ctx o 1 then .next s
      else
        let t := (resultTok f n.ty.isWide (f.eff n.pred) (s.sendLanes n f)).sub start m
        let s := s.enqueue pos f.ctx o false false t
        if f.part + 1 < ranges.length then .next (s.partDone (f.part + 1))
        else .next ((s.countIfSkipped n f).goOn)
    | .o _, none => .next s.goOn
    | _, _ => .next s

/-! ## Routing lanes (R161 to R163) -/

/-- B is not zero, as a value of the type (R161). -/
def nonZero (ty : Ty) (v : Nat) : Bool :=
  if ty.isInt then v != 0
  else match fval ty v with
    | .fin _ m _ => m != 0
    | _ => true

/-- STEER (R161): lanes with a true condition on On, the others on On+1, both tokens at once. -/
def execSteer (n : Niw) (s : State) : Out :=
  s.withFiring fun f =>
    let pos := s.cur.pos
    match n.d with
    | .o o =>
      let c := tokensOf n.ty.isWide f.len
      if !s.roomMany pos f.ctx [(o.val, c), (o.val + 1, c)] then .next s
      else
        let eff := f.eff n.pred
        let bs := s.column n f n.ty 1 n.b
        let cond (l : Nat) : Bool := bs.any fun x => x.1 == l && nonZero n.ty x.2.1
        let psn (l : Nat) : Bool := bs.any fun x => x.1 == l && x.2.2
        let ls := (s.sendLanes n f).map fun x => (x.1, { x.2 with psn := x.2.psn || psn x.1 })
        let send (s : State) (port mask : Nat) : State :=
          s.enqueueRun pos f.ctx port false false (resultTok f n.ty.isWide mask ls)
        let yes := maskOf f.len fun l => bit eff l && cond l
        let no := maskOf f.len fun l => bit eff l && !cond l
        .next ((s.countIfSkipped n f |> (send · o.val yes) |> (send · (o.val + 1) no)).goOn)
    | _ => .next s

/-- The lane mask bit of the port that a selector names. -/
def Firing.portLane (f : Firing) (a : Sel) (l : Nat) : Bool :=
  match a with
  | .p p => (match f.portIn p with | some i => bit i.mask l | none => false)
  | _ => false

/-- MERGE (R162): A's lane where A's port mask has it, else B's; poison as the firing's (R29). -/
def execMerge (n : Niw) (s : State) : Out :=
  s.result n n.ty.isWide n.ty.width fun f =>
    (f.active n.pred).map fun l =>
      let a := s.readSel s.cur.pos f n n.ty 0 n.a l
      let b := s.readSel s.cur.pos f n n.ty 1 n.b l
      (l, { v := if f.portLane n.a l then a.1 else b.1, psn := bit f.pmask l })

/-- GATE (R163): A's lanes; poison as the firing's (R29, R133). -/
def execGate (n : Niw) (s : State) : Out :=
  s.result n n.ty.isWide n.ty.width fun f =>
    (f.active n.pred).map fun l =>
      let a := s.readSel s.cur.pos f n n.ty 0 n.a l
      (l, { v := a.1, psn := bit f.pmask l })

/-- EOS (R164): one marker, whatever the mask. -/
def execEos (n : Niw) (s : State) : Out :=
  s.withFiring fun f =>
    match n.d with
    | .o o =>
      if !s.room s.cur.pos f.ctx o 1 then .next s
      else
        let t := markerTok f.frame ((f.iter + f.len) % 4096) (n.imm.toNat % 2 ^ 13) (s.ctx s.cur.pos f.ctx).sf f.skipped
        .next ((s.enqueue s.cur.pos f.ctx o false false t).goOn)
    | _ => .next s

/-! ## Party sets (R165 to R168) -/

/-- A receipt that a party operation owes: node, context, RW, frame, iteration. -/
abbrev Owed := Coord × Nat × Nat × Nat

/-- Send an owed party receipt and end its debt. -/
def State.payParty (s : State) (frame : Nat) (o : Owed) (scope : Nat) (poisoned : Bool) : State :=
  let (pos, k, rw, iter) := o
  if rw = 0 then s else (s.sendReceipt pos k rw frame iter 0 scope 0 poisoned).repay pos k frame 1

/-- Arrivals held for the next phase enter it: those of members that have not arrived in it; the others stay held. -/
def PartySet.enter (p : PartySet) : PartySet :=
  p.nextPhase.foldl (fun p h =>
    let (f, pos, k, rw, it, psn) := h
    if p.members.contains f && !p.arrived.any (fun a => a.1 == f) then
      { p with arrived := p.arrived ++ [(f, pos, k, rw, it)], poison := p.poison || psn }
    else { p with nextPhase := p.nextPhase ++ [h] }) { p with nextPhase := [] }

/-- R167's completion test: the phase's receipts, then held leaves, then held arrivals, and the test again. DESIGN CHOICE (log 82): a
BARR that a leaving member has held for the next phase ends with its membership, without a receipt; the spec does not say what becomes
of it. -/
def State.phaseTest (s : State) (r k : Nat) : Nat → State
  | 0 => s
  | fuel + 1 =>
    match s.region r with
    | none => s
    | some x =>
      let p := x.pset k
      if p.members.isEmpty ∨ p.arrived.length ≠ p.members.length then s
      else
        let s := p.arrived.foldl (fun s a => s.payParty a.1 (a.2.1, a.2.2.1, a.2.2.2.1, a.2.2.2.2) p.scope p.poison) s
        let s := p.leaving.foldl (fun s a => s.payParty a.1 (a.2.1, a.2.2.1, a.2.2.2.1, a.2.2.2.2) p.scope false) s
        let gone (f : Nat) : Bool := p.leaving.any fun a => a.1 == f
        let s := (p.nextPhase.filter fun a => gone a.1).foldl (fun s a =>
          if a.2.2.2.1 = 0 then s else s.repay a.2.1 a.2.2.1 a.1 1) s
        let q : PartySet := { p with
          members := p.members.filter fun f => !gone f, nextPhase := p.nextPhase.filter fun a => !gone a.1,
          arrived := [], poison := false, leaving := [], phase := (p.phase + 1) % 2 ^ 32 }
        State.phaseTest (s.modPset r k fun _ => q.enter) r k fuel

/-- Nothing of a frame is left in a set. -/
def PartySet.without (p : PartySet) (f : Nat) : PartySet :=
  { p with members := p.members.filter (· != f), arrived := p.arrived.filter fun a => a.1 != f,
           nextPhase := p.nextPhase.filter fun a => a.1 != f, leaving := p.leaving.filter fun a => a.1 != f }

/-- Tests that suffice after an operation on a set: each phase that completes takes one arrival that was held. -/
def PartySet.tests (p : PartySet) : Nat := p.nextPhase.length + 2

/-- A member that is not held leaves the set, and the completion test runs (R166). -/
def State.leaveSet (s : State) (r k f : Nat) : State :=
  let tests := match s.region r with | some x => (x.pset k).tests | none => 0
  (s.modPset r k fun p => { p with members := p.members.filter (· != f), arrived := p.arrived.filter fun a => a.1 != f }).phaseTest
    r k tests

/-- A frame that returns leaves the set with all that is held for it, and the completion test runs (R147). -/
def State.quitSet (s : State) (r k f : Nat) : State :=
  let tests := match s.region r with | some x => (x.pset k).tests | none => 0
  (s.modPset r k fun p => p.without f).phaseTest r k tests

/-- JOINP, LEAVEP and BARR: the set id, the checks they share, and the act at the Mint (R166). `act` gives the DETAIL and
AUXV of a refusal, or the state after it. -/
def State.party (s : State) (n : Niw)
    (act : State → Firing → Region → Nat → PartySet → Sum (Nat × Nat) State) : Out :=
  s.withFiring fun f => s.withRegion f fun r =>
    let pos := s.cur.pos
    let rw := n.opt.toNat % 8
    let k := (s.readSel pos f n .n32 0 n.a 0).1
    let p := r.pset k
    if f.skipped then
      .next (((s.countIfSkipped n f).sendReceipt pos f.ctx rw f.frame f.iter 0 p.scope 0 true).goOn)
    else if r.parties ≤ k then s.teFault f n Cause.partyBudget 1 k
    else match act s f r k p with
      | .inl (detail, auxv) => s.teFault f n Cause.partyBudget detail auxv
      | .inr t => .next t

/-- JOINP (R166). -/
def execJoinp (n : Niw) (s : State) : Out :=
  s.party n fun s f r k p =>
    let scope := if p.members.isEmpty then n.opt.toNat / 32 else p.scope
    if n.opt.toNat / 32 ≠ scope then .inl (3, n.opt.toNat / 32)
    else
      let s := s.modPset r.id k fun p => { p with
        scope := scope, members := if p.members.contains f.frame then p.members else p.members ++ [f.frame] }
      .inr (s.sendReceipt s.cur.pos f.ctx (n.opt.toNat % 8) f.frame f.iter 0 scope 0 false).goOn

/-- The debt of a party receipt begins. -/
def State.oweParty (s : State) (f : Firing) (rw : Nat) : State :=
  if rw = 0 then s else s.owe s.cur.pos f.ctx f.frame 1

/-- LEAVEP (R166): a member that has arrived is held until the phase completes. -/
def execLeavep (n : Niw) (s : State) : Out :=
  s.party n fun s f r k p =>
    let rw := n.opt.toNat % 8
    if !p.members.contains f.frame then .inl (2, k)
    else if p.arrived.any fun a => a.1 == f.frame then
      .inr ((s.oweParty f rw).modPset r.id k fun p =>
        { p with leaving := p.leaving ++ [(f.frame, s.cur.pos, f.ctx, rw, f.iter)] }).goOn
    else
      .inr ((s.leaveSet r.id k f.frame).sendReceipt s.cur.pos f.ctx rw f.frame f.iter 0 p.scope 0 false).goOn

/-! ## DEPTH (R169) -/

/-- The port that a selector names. -/
def Sel.portIx : Sel → Nat
  | .p p => p.val
  | _ => 0

/-- DEPTH (R169): the change is pending until DEPTH_APPLY; a second one for the port replaces its value. -/
def execDepth (n : Niw) (s : State) : Out :=
  s.withFiring fun f =>
    let pos := s.cur.pos
    let rw := n.opt.toNat % 8
    if f.skipped then .next (((s.countIfSkipped n f).sendReceipt pos f.ctx rw f.frame f.iter 0 0 0 true).goOn)
    else
      let d := n.imm.toNat % 64
      let port := Sel.portIx n.a
      let resv := (s.cluster (clusterOf pos)).resv + d - (s.ctx pos f.ctx).dep port
      if 480 < resv then s.teFault f n Cause.cfgOvercommit d resv
      else
        let s := s.oweParty f rw
        .next ((s.modCtx pos f.ctx fun x => { x with
          depth := (x.depth.map fun e => if e.1 = port then (port, d, e.2.2) else e) ++
            [(port, d, rw, f.frame, f.iter)] }).goOn)

/-- Tokens of an edge end in the store, the Vault or the spill map, withdrawn ones in the spill map among them. -/
def State.edgeTokens (s : State) (pos : Coord) (k port : Nat) : Bool :=
  let mine (p : Piece) : Bool := decide (p.tok.dst = pos ∧ p.tok.ctx = k ∧ p.tok.port = port)
  let t := s.store (storeOf pos)
  let g := s.cluster (clusterOf pos)
  t.entries.any mine || t.pend.any mine || t.overflow.any mine || t.held.any mine || g.vault.any (fun v => mine v.piece) ||
    (g.spill.any fun v => mine v.piece) || g.withdrawn.any fun v => (Buf.cell? v.piece.buf).isSome && mine v.piece

end Sys2Proof.Machine
end

