-- ==== Sys2Proof/Machine/Memory.lean ====
section
/-! DEFINITION. Memory behind the elements: physical addresses (R486), the page-table walk (R493), scratchpad windows
(R211, R212), home slices (R341 to R348) and cluster write buffers (R226). -/

namespace Sys2Proof.Machine

/-! ## Physical addresses (R486) -/

/-- HBM4E's end. -/
def hbmEnd : Nat := 2 ^ 39
/-- The address lies in HBM. -/
def inHbm (a : Nat) : Bool := decide (a < hbmEnd)
/-- HBASE. -/
def Dev.hb (d : Dev) : Nat := d.hbase * 2 ^ 30
/-- The H aperture's end (R343). -/
def Dev.hEnd (d : Dev) : Nat := d.hb + 24 * 2 ^ 20 * d.ws
/-- The address lies in the H aperture. -/
def Dev.inH (d : Dev) (a : Nat) : Bool := decide (d.hb ≤ a ∧ a < d.hEnd)
/-- The address lies in a range that an enabled second-tier port maps. -/
def Dev.inTier (d : Dev) (a : Nat) : Bool :=
  d.cxm.any fun m => m.2.1 && decide (m.2.2.2 * 2 ^ 30 ≤ a ∧ a < (m.2.2.2 + m.2.2.1) * 2 ^ 30)
/-- Something backs the address. -/
def Dev.backed (d : Dev) (a : Nat) : Bool := inHbm a || d.inH a || d.inTier a

/-! ## Lines (R341) -/

/-- Bytes of a line. -/
def lineBytes : Nat := 128
/-- The line that an address lies in. -/
def lineOf (a : Nat) : Nat := a / 128

/-! ## The page table (R493) -/

/-- log2 of a page's size as PROBE codes it (R236). -/
def pageCode (lg : Nat) : Nat := if lg = 12 then 0 else if lg = 16 then 1 else if lg = 21 then 2 else 3
/-- The page-table level of a page. -/
def pageLevel (lg : Nat) : Nat := if lg = 30 then 2 else if lg = 21 then 1 else 0

/-- A walk that ends with XLATE at a level. -/
def Xlat.failed (part va lvl : Nat) : Xlat :=
  { part := part, vpn := va / 2 ^ 12, lg := 12, spa := 0, w := false, rd := false, dev := false, bad := some (0, lvl) }

/-- The walk's outcome at a leaf entry of a level. -/
def leafOf (d : Dev) (part va lvl lg e : Nat) : Xlat :=
  let pa := bits e 12 36 * 2 ^ 12
  if pa % 2 ^ lg ≠ 0 ∨ bit e 60 ≠ d.inH pa ∨ ¬ d.backed pa then Xlat.failed part va lvl
  else { part := part, vpn := va / 2 ^ lg, lg := lg, spa := pa, w := bit e 2, rd := bit e 1, dev := bit e 61, bad := none }

/-- The walk from a table of a level (R493). -/
def State.walkFrom (s : State) (part va : Nat) : Nat → Nat → Xlat
  | 0, table =>
    let i := bits va 12 9
    let e := (s.memWord (table + 8 * i)).toNat
    if !bit e 0 || !bit e 3 then Xlat.failed part va 0
    else if bit e 59 then
      let e := (s.memWord (table + 8 * (i / 16 * 16))).toNat
      if !bit e 0 || !bit e 3 then Xlat.failed part va 0 else leafOf s.dev part va 0 16 e
    else leafOf s.dev part va 0 12 e
  | k + 1, table =>
    let lvl := k + 1
    let e := (s.memWord (table + 8 * bits va (12 + 9 * lvl) 9)).toNat
    if !bit e 0 || bit e 59 || (bit e 3 && lvl == 3) then Xlat.failed part va lvl
    else if bit e 3 then leafOf s.dev part va lvl (12 + 9 * lvl) e
    else State.walkFrom s part va k (bits e 12 36 * 2 ^ 12)

/-- The lines of the table entries that the walk reads (R493); the entries of a 64 KiB page share a line. -/
def State.walkLines (s : State) (va : Nat) : Nat → Nat → List Nat
  | 0, table => [lineOf (table + 8 * bits va 12 9)]
  | k + 1, table =>
    let a := table + 8 * bits va (12 + 9 * (k + 1)) 9
    let e := (s.memWord a).toNat
    lineOf a :: (if !bit e 0 || bit e 59 || bit e 3 then [] else s.walkLines va k (bits e 12 36 * 2 ^ 12))

/-- The lines that a walk of a partition's table reads; none without a table. -/
def State.tableLines (s : State) (part va : Nat) : List Nat :=
  let p := s.partOf part
  if p.ptrV then s.walkLines (va % 2 ^ 48) 3 (p.ptrRoot * 2 ^ 12) else []

/-- A partition's translation of a virtual address (R218, R490, R493). -/
def State.walk (s : State) (part va : Nat) : Xlat :=
  let p := s.partOf part
  let va := va % 2 ^ 48
  if p.ptrV then s.walkFrom part va 3 (p.ptrRoot * 2 ^ 12) else Xlat.failed part va 3

/-- The entry translates the address. -/
def Xlat.covers (x : Xlat) (part va : Nat) : Bool := decide (x.part = part ∧ va / 2 ^ x.lg = x.vpn)
/-- The physical address. -/
def Xlat.pa (x : Xlat) (va : Nat) : Nat := x.spa + va % 2 ^ x.lg

/-- Why a G-space access fails: cause, code and AUXV (R219, R343). -/
def Xlat.fault (x : Xlat) (d : Dev) (rd wr : Bool) (va : Nat) : Option (Nat × Nat × Nat) :=
  match x.bad with
  | some (_, lvl) => some (Cause.xlate, 0, lvl)
  | none =>
    if (wr && !x.w) || (rd && !x.rd) then some (Cause.access, 1, pageLevel x.lg)
    else if d.inH x.spa && decide (d.hEnd ≤ x.pa va) then some (Cause.access, 5, pageLevel x.lg)
    else none

/-- A range of a partition's G-space as physical bytes, through the page table as it stands; none, with the cause, code
and AUXV, where an access fails. Units that hold no translations use it. -/
def State.reach (s : State) (part va : Nat) (write : Bool) : Sum (Nat × Nat × Nat) (Nat × Bool) :=
  let va := va % 2 ^ 48
  let x := s.walk part va
  match x.fault s.dev (!write) write va with
  | some e => .inl e
  | none => .inr (x.pa va, x.dev)

/-! ## Scratchpads (R211, R212) -/

/-- Bytes of a scratchpad. -/
def spadSize : Nat := 81920

/-- The start of the window of a context (R212). -/
def Region.window (r : Region) (o : Owner) : Nat := ((r.blk o.blk).wset * r.n + o.fold) * r.scratch

/-- A scratchpad byte. One that became undefined with its block is a free value (R212); any other that nothing has written is 0, as
INIT leaves every SRAM (R498). -/
def Me.byte (m : Me) (a : Nat) : Byte :=
  match m.spad.find a with
  | some b => b
  | none =>
    match m.undef.find? fun u => decide (u.1 ≤ a ∧ a < u.2.1) with
    | some u => BitVec.ofNat 8 (Config.free u.2.2 (2 ^ 20 + a))
    | none => 0

/-- Scratchpad bytes as a value. -/
def Me.value (m : Me) (a k : Nat) : Nat := ofBytes ((List.range k).map fun i => m.byte (a + i))

/-- Scratchpad bytes written. -/
def Me.put (m : Me) (a : Nat) : List Byte → Me
  | [] => m
  | b :: bs => ({ m with spad := m.spad.set a b } : Me).put (a + 1) bs

/-- A range of a scratchpad meets a word with an uncorrectable error (R502). -/
def Me.hurt (m : Me) (a k : Nat) : Bool := m.bad.any fun w => decide (8 * w < a + k ∧ a < 8 * w + 8)

/-- A write of these bytes makes the words sound that it covers (R502). -/
def Me.heal (m : Me) (bytes : List Nat) : Me :=
  if m.bad.isEmpty then m
  else { m with bad := m.bad.filter fun w => !(List.range 8).all fun i => bytes.contains (8 * w + i) }

/-- A range of a scratchpad becomes undefined (R212). -/
def Me.forget (m : Me) (lo hi stamp : Nat) : Me :=
  { m with spad := m.spad.filter fun c => !decide (lo ≤ c.1 ∧ c.1 < hi),
           undef := (lo, hi, stamp) :: m.undef.filter fun u => !decide (lo ≤ u.1 ∧ u.2.1 ≤ hi) }

/-! ## Home slices (R341 to R348) -/

/-- home(L) (R341). -/
def home (l : Nat) : Nat :=
  bits l 0 8 ^^^ bits l 8 8 ^^^ bits l 16 8 ^^^ bits l 24 8 ^^^ bits l 32 8 ^^^ bits l 40 1

/-- A home slice. -/
def State.slice (s : State) (h : Nat) : Slice := s.slices.get {} h
/-- Change a home slice. -/
def State.modSlice (s : State) (h : Nat) (f : Slice → Slice) : State := { s with slices := s.slices.set h (f (s.slice h)) }

/-- Where a line lies in its slice's cache: bank and set (R341, R344). -/
def setOf (ws l : Nat) : Nat × Nat := (bits l 8 4, bits l 12 29 % (6 * (8 - ws)))

/-- A line that its slice may cache (R344). -/
def State.cacheable (s : State) (l : Nat) (dev : Bool) : Bool := !dev && decide (s.dev.ws < 8) && !s.dev.inH (128 * l)
/-- The lines of a set, the most recently used first. -/
def State.setLines (s : State) (l : Nat) : List (Nat × Bool) := (s.slice (home l)).sets.get [] (setOf s.dev.ws l)
/-- The line is in its slice's cache. -/
def State.cached (s : State) (l : Nat) : Bool := (s.setLines l).any fun x => x.1 == l
/-- The slice's copy differs from the backing memory. -/
def State.dirty (s : State) (l : Nat) : Bool := (s.setLines l).any fun x => x.1 == l && x.2
/-- The slice holds the line: a window line or a cached line (R348). -/
def State.holds (s : State) (l : Nat) : Bool := s.dev.inH (128 * l) || s.cached l

/-- Change the lines of a set; a line that goes leaves its LTAG behind (R348), and one that is no longer dirty owes its memory nothing
(R45). -/
def State.setSet (s : State) (l : Nat) (ls : List (Nat × Bool)) : State :=
  s.modSlice (home l) fun h =>
    let gone := (h.sets.get [] (setOf s.dev.ws l)).filter fun x => !ls.any fun y => y.1 == x.1
    { h with sets := h.sets.set (setOf s.dev.ws l) ls, ltag := gone.foldl (fun t x => Table.erase t x.1) h.ltag,
             owed := h.owed.filter fun t => setOf s.dev.ws t.line != setOf s.dev.ws l || ls.any fun x => x.1 == t.line && x.2 }

/-- Events at home slices and 64-byte transfers with backing memory are metered for the partition that caused them; none
is not metered (R497). -/
def State.meterHome (s : State) (p : Option Nat) (events transfers : Nat) : State :=
  match p with
  | none => s
  | some p => s.modPart p fun x => (x.charge 3 events).charge 1 transfers

/-- A line enters the cache as the most recent of its set, and the least recent of eight leaves, written back if it is
dirty (R344). -/
def State.install (s : State) (p : Option Nat) (l : Nat) (dirty : Bool) : State :=
  let ls := (l, dirty) :: (s.setLines l).filter fun x => x.1 != l
  let out := (ls.drop 8).filter (·.2)
  (s.setSet l (ls.take 8)).meterHome p 0 (2 * out.length)

/-- LTAG of a line as HSEQ reads it (R348, R367): a window line that nothing has written keeps the tag of the HS_SPLIT write. -/
def State.ltagOf (s : State) (l : Nat) : Nat :=
  let h := s.slice (home l)
  if s.dev.inH (128 * l) then h.ltag.get h.wtag l
  else if s.cached l then h.ltag.get (h.seq % 2 ^ 16) l else h.seq % 2 ^ 16

/-- A fill (R344, R348). -/
def State.fill (s : State) (p : Option Nat) (l : Nat) : State :=
  ((s.install p l false).meterHome p 0 2).modSlice (home l) fun h =>
    { h with ltag := h.ltag.set l (h.seq % 2 ^ 16), misses := satAdd 32 h.misses 1 }

/-- An event uses a cached line: it becomes the most recent, dirty if it was or the event writes; `hit` counts it. An event
on a line that is not cached goes to backing memory, unless the line is a window line. -/
def State.useLine (s : State) (p : Option Nat) (l : Nat) (write hit : Bool) : State :=
  if !s.cached l then (if s.dev.inH (128 * l) then s else s.meterHome p 0 2)
  else
    let s := s.install p l (write || s.dirty l)
    if hit then s.modSlice (home l) fun h => { h with hits := satAdd 32 h.hits 1 } else s

/-- A write event's tag and counters (R348): the next HS_SEQ; LTAG when the slice holds the line. -/
def State.tagWrite (s : State) (l : Nat) (atomic : Bool) : State × Nat :=
  let seq := ((s.slice (home l)).seq + 1) % 2 ^ 48
  let tag := seq % 2 ^ 16
  let held := s.holds l
  (s.modSlice (home l) fun h => { h with
    seq := seq, ltag := if held then h.ltag.set l tag else h.ltag,
    atoms := if atomic then satAdd 32 h.atoms 1 else h.atoms,
    writes := if atomic then h.writes else satAdd 32 h.writes 1 }, tag)

/-- The write-back of a line's modified copy (R236). -/
def State.clean (s : State) (p : Option Nat) (l : Nat) : State :=
  if s.dirty l then
    (s.setSet l ((s.setLines l).map fun x => if x.1 == l then (l, false) else x)).meterHome p 0 2
  else s

/-- The copy of a line ends (R236). -/
def State.invalidate (s : State) (l : Nat) : State :=
  if s.cached l then s.setSet l ((s.setLines l).filter fun x => x.1 != l) else s

/-- A write event of a line (R346 to R348): its bytes are performed and it takes a tag. A write that covers the line needs
no fill, any other fills on a miss; `through` writes the line through to its memory (R359). A line that an error has
poisoned is sound again once a write covers it (R502). `count` is false for an event that waited for its fill. -/
def State.writeEvent (s : State) (p : Option Nat) (l : Nat) (dev through atomic count : Bool) (bytes : List Host.Cell) :
    State × Nat :=
  let full := (List.range 128).all fun i => bytes.any fun c => c.1 == 128 * l + i
  let hit := s.cached l
  let s := if s.cacheable l dev && !hit then (if full then s.install p l true else s.fill p l) else s
  let s := s.useLine p l true (hit && count)
  let s := if through then s.clean p l else s
  let s : State := { s with mem := Memory.writeCells s.mem bytes,
                            badLines := if full then s.badLines.filter (· != l) else s.badLines }
  (s.meterHome p 1 0).tagWrite l atomic

/-- A read event of a line in one go, its fill with it. -/
def State.readEvent (s : State) (p : Option Nat) (l : Nat) (dev : Bool) : State :=
  let s := if s.cacheable l dev && !s.cached l then s.fill p l else s.useLine p l false true
  s.meterHome p 1 0

/-- A read event at SYS of a clean copy of second-tier memory reads the memory device and not the copy (R227). -/
def State.readsDevice (s : State) (l : Nat) : Bool := s.dev.inTier (128 * l) && s.cached l && !s.dirty l

/-- A write of second-tier memory has been performed at DEV only (R45): its writer, and the marks of its write-buffer entry, are kept until
the line goes through. -/
def State.oweTier (s : State) (l : Nat) (ws : List (Coord × Nat × Nat × Nat)) (seen rel : Bool) : State :=
  if s.dev.inTier (128 * l) && s.dirty l then
    s.modSlice (home l) fun h =>
      let old := match h.owed.find? fun t => t.line == l with
        | some t => t
        | none => { line := l, writers := [] }
      { h with owed := h.owed.filter (fun t => t.line != l) ++
          [{ old with writers := (old.writers ++ ws).eraseDups, seen := old.seen || seen, rel := old.rel || rel }] }
  else s

/-- An acquire of a region has read a dirty line of second-tier memory (R353, case 3); `sys`: at SYS. -/
def State.readTier (s : State) (l region : Nat) (sys : Bool) : State :=
  s.modSlice (home l) fun h => { h with owed := h.owed.map fun t =>
    if t.line = l then { t with seen := true, readers := if sys then (region :: t.readers).eraseDups else t.readers } else t }

/-- Change every home slice. -/
def State.modSlices (s : State) (f : Slice → Slice) : State := { s with slices := s.slices.map fun h => (h.1, f h.2) }

/-- Marks are set on the writes, not yet performed at SYS, of write-buffer entries and of second-tier lines: `p` reads the writers, the
two marks and gives the two marks (R353). -/
def State.markWrites (s : State) (p : List (Coord × Nat × Nat × Nat) → Bool × Bool → Bool × Bool) : State :=
  let entry (e : WbEntry) : WbEntry := let m := p e.writers (e.seen, e.rel); { e with seen := m.1, rel := m.2 }
  let line (t : TierLine) : TierLine := let m := p t.writers (t.seen, t.rel); { t with seen := m.1, rel := m.2 }
  ({ s with clusters := s.clusters.map fun c => (c.1, { c.2 with wb := c.2.wb.map entry }) } : State).modSlices fun h =>
    { h with owed := h.owed.map line }

/-- A receipt that certifies writes of a writer's context or frame has been sent (R40, R353). The marks are set for every such write that
is not yet at SYS, which may be more than the receipt's own (log 90). -/
def State.certified (s : State) (pos : Coord) (k frame : Nat) : State :=
  s.markWrites fun ws m => (m.1 || ws.any fun w => decide (w.1 = pos ∧ (w.2.1 = k ∨ w.2.2.1 = frame)), m.2)

/-- Dirty lines of second-tier memory go through to it, and so are performed at SYS (R45, R353). -/
def State.writeThrough (s : State) (p : Option Nat) (hit : TierLine → Bool) : State :=
  (s.slices.flatMap fun h => h.2.owed.filter hit).foldl (fun s t => s.clean p t.line) s

/-- The partition of a region, to meter; a cut proceeds unmetered (R497, R504). -/
def State.partFor (s : State) (region : Nat) : Option Nat :=
  match s.region region with
  | some r => if r.cut.isSome then none else some r.part
  | none => none

/-- Bytes grouped by line, in ascending order. -/
def byLine (cells : List Host.Cell) : List (Nat × List Host.Cell) :=
  let ls := sortBy (fun a b => decide (a ≤ b)) (cells.map fun c => lineOf c.1).eraseDups
  ls.map fun l => (l, cells.filter fun c => lineOf c.1 == l)

/-- Consecutive bytes as cells. -/
def cellsAt (a : Nat) (bs : List Byte) : List Host.Cell := bs.zipIdx.map fun b => (a + b.2, b.1)

/-! ## Write buffers (R226) -/

/-- Entries of a cluster's write buffer. -/
def wbMax : Nat := 32

/-- A byte that the write buffer holds, the latest written (R227). -/
def Cluster.wbByte (g : Cluster) (a : Nat) : Option Byte :=
  g.wb.foldl (fun r e => match Table.find e.bytes a with | some b => some b | none => r) none

/-- A byte as a CL read finds it: in the cluster's write buffer, else at its home slice (R227). -/
def State.clByte (s : State) (g a : Nat) : Byte := ((s.cluster g).wbByte a).getD (Memory.read s.mem a)

/-- Entries that some writer of a kind wrote. -/
def Cluster.wbBy (g : Cluster) (p : Coord × Nat × Nat × Nat → Bool) : List Nat :=
  (g.wb.filter fun e => e.writers.any p).map (·.id)

/-- Entries of a set of lines. -/
def Cluster.wbOf (g : Cluster) (ls : List Nat) : List Nat := (g.wb.filter fun e => ls.contains e.line).map (·.id)

/-- Entries begin to drain (R226). -/
def State.drain (s : State) (g : Nat) (ids : List Nat) (sys : Bool) : State :=
  let go (e : WbEntry) : WbEntry := if ids.contains e.id then { e with draining := true, sys := e.sys || sys } else e
  s.modCluster g fun c => { c with wb := c.wb.map go }

/-- The buffer is full: its oldest entry drains (R226). -/
def State.drainOldest (s : State) (g : Nat) : State :=
  match (s.cluster g).wb.head? with
  | some e => s.drain g [e.id] false
  | none => s

/-- Bytes of one line enter the write buffer: into the line's last entry unless its drain began, else into a new one; none
when the buffer is full (R226). Answers the entry. -/
def State.wbPut (s : State) (g : Nat) (writer : Coord × Nat × Nat × Nat) (region : Nat) (dev : Bool) (l : Nat)
    (bytes : List Host.Cell) : Option (State × Nat) :=
  let wb := (s.cluster g).wb
  let mine := wb.filter fun e => e.line == l
  match mine.getLast? with
  | some e =>
    if !e.draining then
      let e' := { e with bytes := bytes.foldl (fun t c => Table.set t c.1 c.2) e.bytes, last := s.cyc,
                         writers := if e.writers.contains writer then e.writers else e.writers ++ [writer] }
      some (s.modCluster g fun c => { c with wb := c.wb.map fun x => if x.id == e.id then e' else x }, e.id)
    else fresh wb
  | none => fresh wb
where
  /-- A new entry. -/
  fresh (wb : List WbEntry) : Option (State × Nat) :=
    if wb.length < wbMax then
      let e : WbEntry := { id := s.nextOp, line := l, bytes := bytes.foldl (fun t c => Table.set t c.1 c.2) [], last := s.cyc,
                           region := region, dev := dev, draining := false, sys := false, writers := [writer] }
      let s := ({ s with nextOp := s.nextOp + 1 } : State).modCluster g fun c => { c with wb := c.wb ++ [e] }
      some (if wb.length + 1 = wbMax then s.drainOldest g else s, e.id)
    else none

end Sys2Proof.Machine
end

