-- ==== Sys2Proof/Machine/MeOps.lean ====
section
/-! DEFINITION. What the instructions of a Memory Element share: address constants, translation, checks, order, reply
credits, loads and stores (R215 to R236). -/

namespace Sys2Proof.Machine

/-! ## Operations in flight -/

/-- The operation has been performed (R45). -/
def Op.performed (o : Op) : Bool :=
  o.todo.isEmpty && o.waits.isEmpty && o.after.isEmpty && o.lines.isEmpty && !o.more && o.eccs.isEmpty

/-- Nothing of the operation that has issued is left to perform: a linked LDS may have further elements to issue (R216). -/
def Op.quiet (o : Op) : Bool := o.todo.isEmpty && o.waits.isEmpty && o.after.isEmpty && o.lines.isEmpty

/-- Operations that waited for others go on, and those that owe nothing more end. -/
def State.settle (s : State) : State :=
  let live (id : Nat) : Bool := s.ops.any fun x => x.id == id && !x.quiet
  let ops := s.ops.map fun o => { o with after := o.after.filter live }
  { s with ops := ops.filter fun o => !(o.performed && o.reply == 0 && o.receipt == 0) }

/-- Change an operation. -/
def State.modOp (s : State) (id : Nat) (f : Op → Op) : State :=
  { s with ops := s.ops.map fun o => if o.id == id then f o else o }

/-- An operation is issued: its reply and its receipt are owed (R117, R147). -/
def State.issue (s : State) (o : Op) : State :=
  let s := s.owe o.pos o.ctx o.frame (b2n (o.reply != 0) + b2n (o.receipt != 0))
  ({ s with ops := s.ops ++ [o] } : State)

/-- The element of the current firing. -/
def State.curMe (s : State) : Me := s.me s.cur.pos

/-! ## Faults and sinks (R224, R225, R229) -/

/-- An instruction of an ME faults on a lane (R224). -/
def State.meFault (s : State) (f : Firing) (g : Bool) (lane code cause aux : Nat) (a : Int) : Out :=
  s.takeFrameFault s.cur.pos s.cur.slot .firing
    { s.infoOf s.cur.pos f cause (lane + 256 * code) with akind := if g then 1 else 2, addr := wrap a 48, auxv := aux }

/-- An instruction refuses its operands or its run (R82). -/
def State.badOperand (s : State) (f : Firing) : Out :=
  s.takeFrameFault s.cur.pos s.cur.slot .firing (s.infoOf s.cur.pos f Cause.illegalInsn 0x8000)

/-- Lanes suppressed at an element: counted in ME_PSUP, and recorded once for the frame (R225, R360, R456). -/
def State.sinkLanes (s : State) (f : Firing) (g : Bool) (lanes : List (Nat × Int)) : State :=
  match lanes with
  | [] => s
  | (l, a) :: _ =>
    let s := s.modNode s.cur.pos fun n => { n with psup := satAdd 64 n.psup lanes.length }
    s.reportSink s.cur.pos f (if g then 1 else 2) (wrap a 48) l lanes.length

/-- SKIP of an instruction whose sink counter is ME_PSUP (R449). -/
def State.countMe (s : State) (k : Nat) : State :=
  s.modNode s.cur.pos fun n => { n with psup := satAdd 64 n.psup k }

/-- An address constant (R229): G-space or not, and the base; none when its SPACE or reserved bits are bad. -/
def Firing.addrConst (f : Firing) (a : Sel) : Option (Bool × Nat) :=
  match a with
  | .k k =>
    let w := (f.consts.getD k 0).toNat
    if 1 < bits w 62 2 ∨ bits w 48 14 ≠ 0 then none else some (bit w 62, bits w 0 48)
  | _ => none

/-- Bytes of an element (R230). -/
def tyBytes (ty : Ty) : Nat := ty.slot / 8

/-! ## Translation (R218) -/

/-- The translation that an access of the firing uses: one obtained for it, its stream's, or the element's cache. -/
def State.xlatOf (s : State) (f : Firing) (stream : Option Nat) (part va : Nat) : Option Xlat :=
  let me := s.curMe
  match f.xl.find? (fun x => x.covers part va) with
  | some x => some x
  | none =>
    match stream with
    | some k => (me.sx.find (f.ctx, k)).bind fun x => if x.covers part va then some x else none
    | none => me.tlb.find? fun x => x.covers part va

/-- Walks requested for addresses that miss; the stream's STALL stands while it waits (R215, R218). -/
def State.askWalks (s : State) (f : Firing) (stream : Option Nat) (part : Nat) (vas : List Nat) : State :=
  let pages := (vas.map fun a => a / 4096 * 4096).eraseDups
  let new := pages.filter fun a => !s.walks.any fun w => decide (w.pos = s.cur.pos ∧ w.slot = s.cur.slot ∧ w.va = a)
  let ws := new.map fun a =>
    { pos := s.cur.pos, slot := s.cur.slot, part := part, va := a, stream := stream.map fun k => (f.ctx, k), region := f.region }
  let s : State := { s with walks := s.walks ++ ws }
  match stream with
  | some k => s.modMe s.cur.pos fun m =>
    { m with sst := m.sst.set (f.ctx, k) (BitVec.ofNat 64 (setBits (m.sst.get 0 (f.ctx, k)).toNat 61 1 1)) }
  | none => s

/-- Go on once every address has a translation; until then the instruction waits for its walks (R218). The translations
used become the firing's, the stream's, or the most recent of the cache. -/
def State.withXlat (s : State) (f : Firing) (stream : Option Nat) (part : Nat) (vas : List Nat)
    (k : State → (Nat → Xlat) → Out) : Out :=
  let miss := vas.filter fun a => (s.xlatOf f stream part a).isNone
  if !miss.isEmpty then .next (s.askWalks f stream part miss)
  else
    let used := (vas.filterMap fun a => s.xlatOf f stream part a).eraseDups
    let good := used.filter fun x => x.bad.isNone
    let s' := s.modSlot s.cur.pos s.cur.slot fun f => { f with xl := used }
    let s' := s'.modMe s.cur.pos fun m =>
      match stream with
      | some k => match good.getLast? with
        | some x => { m with sx := m.sx.set (f.ctx, k) x }
        | none => m
      | none => { m with tlb := (good.reverse ++ m.tlb.filter fun x => !good.contains x).take 8 }
    k s' fun a => (s.xlatOf f stream part a).getD (Xlat.failed part a 3)

/-! ## Checks (R224) -/

/-- The addresses of a range at which lines start, with the range's own start. -/
def lineStarts (a size : Nat) : List Nat := (List.range (ceilDiv (a % 128 + size) 128)).map fun i => if i = 0 then a else a / 128 * 128 + 128 * i

/-- Virtual addresses of one access that need a translation. An address outside [0, 2^48) is taken modulo 2^48 (log 72). -/
def vasOf (a : Int) (size : Nat) : List Nat := (lineStarts (wrap a 48) size).map (· % 2 ^ 48)

/-- Why an access fails (R212, R224): bounds, then alignment, then translation; cause, code and AUXV. -/
def State.accessFault (s : State) (r : Region) (g rd wr : Bool) (size align : Nat) (x : Nat → Xlat) (a : Int) :
    Option (Nat × Nat × Nat) :=
  if !g && decide (a < 0 ∨ (r.scratch : Int) < a + size) then some (Cause.sbounds, 0, 0)
  else if wrap a 48 % align ≠ 0 then some (Cause.align, 0, 0)
  else if g then (vasOf a size).findSome? fun v => (x v).fault s.dev rd wr v
  else none

/-- The lanes that an instruction accesses, checked: the lowest failing lane faults and nothing is performed (R224). A
partition that its budget stalls makes no new request (R49). `bad` is a lane that fails by its stream (R216, R217, R233), with its ACCESS code; `lanes` are then those below it. -/
def State.checked (s : State) (f : Firing) (g rd wr : Bool) (size align : Nat) (stream : Option Nat)
    (bad : Option (Nat × Nat × Int)) (lanes : List (Nat × Int)) (k : State → Region → (Nat → Xlat) → Out) : Out :=
  s.withRegion f fun r => if g && s.stallsNew r then .next s else
    let ok := lanes.filter fun l => g && wrap l.2 48 % align == 0
    s.withXlat f stream r.part (ok.flatMap fun l => vasOf l.2 size) fun s x =>
      match lanes.findSome? fun l => (s.accessFault r g rd wr size align x l.2).map fun e => (l, e) with
      | some (l, cause, code, aux) => s.meFault f g l.1 code cause aux l.2
      | none =>
        match bad with
        | some (l, code, a) => s.meFault f g l code Cause.access 0 a
        | none => k s r x

/-! ## Order (R228, R234, R235) -/

/-- A firing of the context closes the stream: new accesses of it wait (R234). -/
def State.closing (s : State) (pos : Coord) (k stream : Nat) : Bool :=
  (s.node pos).slots.any fun o => match o with
    | some f =>
      let w := (f.words.getD f.ix 0).toNat
      f.ctx == k && f.part == 1 && (w / 2 ^ 56 == 0xa0 || w / 2 ^ 56 == 0xa2) && w % 4 == stream
    | none => false

/-- A writer of a write-buffer entry is a stream, or the address-operand instructions, of a context. -/
def writerIs (pos : Coord) (k cls : Nat) (w : Coord × Nat × Nat × Nat) : Bool := decide (w.1 = pos ∧ w.2.1 = k ∧ w.2.2.2 = cls)

/-- An SBAR that is not performed names the class: new accesses of it wait (R235). -/
def State.barred (s : State) (pos : Coord) (k cls : Nat) : Bool :=
  s.ops.any fun o => o.pos == pos && o.ctx == k && !o.performed && match o.kind with | .barrier m => bit m cls | _ => false

/-- Stream order, address order or a barrier holds an access of a firing back. `scope` is the stream's. The earlier groups of the same
instruction hold none back, and a later one goes on while its stream is being closed, for the close waits for it (R234). -/
def State.heldBack (s : State) (f : Firing) (pos : Coord) (cls scope : Nat) (lines : List Nat) : Bool :=
  let others (o : Op) : Bool := o.pos == pos && !(decide (0 < f.part) && decide (o.by_ = (f.entry, f.ix)))
  s.barred pos f.ctx cls ||
  (if cls = 4 then
    s.ops.any fun o => others o && o.cls == 4 &&
      ((o.todo.any fun r => lines.contains r.line) || o.lines.any fun l => lines.contains l.1)
  else
    (s.ops.any fun o => others o && o.ctx == f.ctx && o.cls == cls && !o.performed &&
      match o.kind with | .barrier _ => false | _ => true) ||
    (scope != 0 && !((s.cluster (clusterOf pos)).wbBy (writerIs pos f.ctx cls)).isEmpty) ||
    (f.part == 0 && s.closing pos f.ctx cls))

/-- The accesses that an instruction waits for at a scope: by their writers those in the write buffer, and operations (R234, R235,
R353). -/
structure Reach where
  wr : Coord × Nat × Nat × Nat → Bool
  op : Op → Bool

/-- A kind of operation that writes. -/
def OpKind.writes : OpKind → Bool
  | .atomic _ | .store | .writeBack _ => true
  | _ => false

/-- The element's writes for a frame (R235, R353). -/
def frameWrites (pos : Coord) (frame : Nat) : Reach :=
  { wr := fun w => decide (w.1 = pos ∧ w.2.2.1 = frame),
    op := fun o => o.pos == pos && o.frame == frame && o.kind.writes }

/-- What of a reach is not performed at a scope: write-buffer entries, and operations. At CL a write is performed once its entry holds it,
so none is awaited, and none drains: R226 names no scope where it says that a barrier's entries drain, and the model reads it of those
that the barrier awaits (DESIGN CHOICE, log 91). -/
def State.awaited (s : State) (scope : Nat) (w : Reach) : List Nat × List Nat :=
  (if scope = 0 then [] else (s.cluster (clusterOf s.cur.pos)).wbBy w.wr, (s.ops.filter fun o => !o.quiet && w.op o).map (·.id))

/-- What is awaited is pushed to the scope: entries drain, and an operation under way goes as far as the scope (R226, R353). -/
def State.push (s : State) (scope : Nat) (ids : List Nat × List Nat) : State :=
  let s := s.drain (clusterOf s.cur.pos) ids.1 (scope == 3)
  { s with ops := s.ops.map fun o => if ids.2.contains o.id then { o with upTo := max o.upTo scope } else o }

/-- At SYS, lines of second-tier memory that a reach has written and that its slice holds dirty go through (R45). -/
def State.pushTier (s : State) (region scope : Nat) (w : Reach) : State :=
  if scope = 3 then s.writeThrough (s.partFor region) fun t => t.writers.any w.wr else s

/-- A release at a scope beyond CL waits for no write of an earlier release: those still in a write buffer have drained (R353, cases 3
and 4). -/
def State.relClear (s : State) (scope : Nat) : Bool := scope == 0 || s.clusters.all fun c => c.2.wb.all fun e => !e.rel

/-- A release waits until its release set is performed at the scope; the element's own writes for the frame drain, and those of earlier
releases are only awaited (R353, R226). An earlier release is every one that has been performed, whether its receipt or an acquire orders
it before this one or not (log 90). -/
def State.releaseReady (s : State) (f : Firing) (scope : Nat) : Option State :=
  let w := s.awaited scope (frameWrites s.cur.pos f.frame)
  if w.1.isEmpty && w.2.isEmpty && s.relClear scope then none else some (s.push scope w)

/-- A release is performed (R353). At SYS the second-tier lines that it releases have gone through: its own frame's, those that an acquire
at SYS of its region read, and those of earlier releases. What it releases at a narrower scope is marked for later releases. -/
def State.released (s : State) (f : Firing) (scope : Nat) : State :=
  let own := (frameWrites s.cur.pos f.frame).wr
  (if scope = 3 then
    s.writeThrough (s.partFor f.region) fun t => t.writers.any own || t.readers.contains f.region || t.rel
  else s).markWrites fun ws m => (m.1, m.2 || m.1 || ws.any own)

/-! ## Reply credits (R221) -/

/-- A routing word's edges each hold the credits for `count` tokens. -/
def State.canReserve (s : State) (pos : Coord) (k rw count : Nat) : Bool :=
  let w := (s.ctx pos k).rw rw
  !w.present || (w.resolved && !w.closed && w.targets.all fun i =>
    isSeqPort (w.target i) w.port ||
      (let x := s.ctx (w.target i) w.ctx
       decide (x.used.getD w.port 0 + count ≤ x.dep w.port)))

/-- The credits are taken. -/
def State.reserve (s : State) (pos : Coord) (k rw count : Nat) : State :=
  let w := (s.ctx pos k).rw rw
  if !w.present then s
  else w.targets.foldl (fun s i => (List.range count).foldl (fun s _ => s.takeChit (w.target i) w.ctx w.port) s) s

/-- Credits taken for a reply that will not be sent are given back. -/
def State.unreserve (s : State) (pos : Coord) (k rw count : Nat) : State :=
  let w := (s.ctx pos k).rw rw
  if !w.present then s
  else w.targets.foldl (fun s i =>
    if isSeqPort (w.target i) w.port then s
    else (List.range count).foldl (fun s _ => s.returnChit (w.target i) w.ctx w.port) s) s

/-! ## Going on -/

/-- The instruction has issued: the firing goes on, or, after an acquire, waits at it until operation `id` is performed
(R350). -/
def State.issued (s : State) (f : Firing) (acquire : Bool) (id : Nat) : State :=
  if acquire && decide (f.ix + 1 < f.words.length) then
    (s.modNode s.cur.pos fun n => { n with lastIssue := f.ctx }).modSlot s.cur.pos s.cur.slot fun f => { f with opid := id }
  else s.goOn

/-- A firing that waits at an acquire goes on once it is performed; another executes. -/
def State.afterHold (s : State) (f : Firing) (k : Out) : Out :=
  if f.opid = 0 then k
  else if s.ops.any fun o => o.id == f.opid && !o.performed then .next s
  else .next s.goOn

/-- An operation of a firing, with its tag. -/
def opOf (s : State) (f : Firing) (kind : OpKind) (ty : Ty) : Op :=
  { id := s.nextOp, kind := kind, pos := s.cur.pos, region := f.region, ctx := f.ctx, frame := f.frame, iter := f.iter,
    len := f.len, base := f.iter, ty := ty, by_ := (f.entry, f.ix) }

/-- The next operation's number is taken. -/
def State.bumpOp (s : State) : State := { s with nextOp := s.nextOp + 1 }

/-- A reply that needs no access: of a zero-mask firing, under SKIP, or under PATCH (R30, R449). With `receipt`, the
operation's receipt goes with it. -/
def State.replyOnly (s : State) (f : Firing) (ty : Ty) (rw receipt scope mask poison : Nat) (v : Word)
    (pre : State → State) : Out :=
  let c := tokensOf ty.isWide f.len
  if rw ≠ 0 ∧ ¬ s.canReserve s.cur.pos f.ctx (rw - 1) c then .next s
  else
    let s := pre s
    let s := if rw = 0 then s else s.reserve s.cur.pos f.ctx (rw - 1) c
    let o := { opOf s f .load ty with mask := mask, poison := poison, vals := (maskLanes mask f.len).map fun l => (l, v),
                                      reply := rw, receipt := receipt, scope := scope, rpoison := poison != 0 }
    .next ((s.bumpOp.issue o).settle.goOn)

/-- The access groups of an instruction's lanes (R214, R222): the lanes that make an access, in ascending order, sixteen a group and
eight of a 64-bit type; the manual does not say how lanes form groups (log 72). -/
def accessGroups {α : Type} (wide : Bool) (l : List α) : List (List α) :=
  let k := if wide then 8 else 16
  (List.range (ceilDiv l.length k)).map fun i => (l.drop (k * i)).take k

/-- The 64-byte bank rows that scratchpad bytes lie in (R211). -/
def bankRows (a size : Nat) : List Nat := (List.range (ceilDiv (a % 64 + size) 64)).map (a / 64 + ·)

/-- The cycles that an access group takes at the banks beyond the first (R214): its bytes as ranges of the scratchpad. -/
def bankCycles (l : List (Nat × Nat)) : Nat :=
  let rows := (l.flatMap fun a => bankRows a.1 a.2).eraseDups
  (List.range 16).foldl (fun m b => max m (rows.filter fun r => r % 16 == b).length) 1 - 1

/-- Access groups and extra bank cycles of an instruction (R214, R238): each group's accesses as ranges. -/
def State.countGroups (s : State) (g : Bool) (groups : List (List (Nat × Nat))) : State :=
  s.modMe s.cur.pos fun m =>
    { m with acc := satAdd 32 m.acc groups.length,
             bkcyc := if g then m.bkcyc else satAdd 32 m.bkcyc (groups.foldl (fun n l => n + bankCycles l) 0) }

/-- The scratchpad address of a context's window (R212). -/
def State.windowOf (s : State) (r : Region) (k : Nat) : Nat :=
  match (s.ctx s.cur.pos k).owner with
  | some o => r.window o
  | none => 0

/-- The ranges that a group's lanes access: virtual addresses of G-space, or scratchpad addresses behind `base`. -/
def rangesOf (base size : Nat) (l : List (Nat × Int)) : List (Nat × Nat) := l.map fun x => (base + wrap x.2 48, size)

/-- The first address of some lanes' that lies in a line. -/
def firstVa (x : Nat → Xlat) (lanes : List (Nat × Nat)) (l : Nat) : Nat :=
  match lanes.find? fun p => lineOf ((x p.2).pa p.2) == l with
  | some p => p.2
  | none => 0

/-- The events of a G-space access group: one a line; one a lane in a device-memory page (R219, R346). -/
def lineReqs (x : Nat → Xlat) (lanes : List (Nat × Nat)) : List LineReq :=
  let ps := lanes.map fun p => (p.1, (x p.2).pa p.2, (x p.2).dev)
  let ls := ((ps.filter fun p => !p.2.2).map fun p => lineOf p.2.1).eraseDups
  (ls.map fun l => { line := l, lanes := (ps.filter fun p => !p.2.2 && lineOf p.2.1 == l).map fun p => (p.1, p.2.1),
                     va := firstVa x lanes l }) ++
    (ps.filter (·.2.2)).map fun p => { line := lineOf p.2.1, lanes := [(p.1, p.2.1)], va := firstVa x lanes (lineOf p.2.1), dev := true }

/-! ## Loads -/

/-- What a load reads: its space, the lanes with an address, the active lanes whose address is poisoned, the active lanes
of its reply, and the stream's POS and EXH after it. -/
structure Plan where
  g : Bool
  lanes : List (Nat × Int)
  psn : Nat := 0
  mask : Nat
  pos : Option (Nat × Bool) := none
  /-- POS counts the lanes of each group as it issues (R215, R239). -/
  counts : Bool := false
  bad : Option (Nat × Nat × Int) := none
  /-- One access serves every lane (LDB, R231). -/
  one : Bool := false
deriving DecidableEq, Repr

/-- The access groups of a load. -/
def Plan.groups (p : Plan) (wide : Bool) : List (List (Nat × Int)) := if p.one then [p.lanes] else accessGroups wide p.lanes

/-- A stream moves on (R215). -/
def State.moveStream (s : State) (k stream : Nat) (p : Option (Nat × Bool)) : State :=
  match p with
  | none => s
  | some (pos, exh) => s.modMe s.cur.pos fun m =>
    let w := (m.sst.get 0 (k, stream)).toNat
    { m with sst := m.sst.set (k, stream) (BitVec.ofNat 64 (setBits (setBits w 0 32 pos) 62 1 (if exh then 1 else bits w 62 1))) }

/-- A group of a stream's lanes has issued: POS counts them (R215). -/
def State.countStream (s : State) (k stream n : Nat) : State :=
  s.moveStream k stream (some ((bits (s.curMe.sst.get 0 (k, stream)).toNat 0 32 + n) % 2 ^ 32, false))

/-- The tokens of a load's reply as lane ranges (R231): the run, or LDG's groups. Every lane of the run is in one of them,
so that joins are satisfied (R29, R30): inactive lanes before the first group go with it, and those behind a group with that
group, and an inactive lane ends the group before it (log 22). `base` is the context's window, for a group of S-space lies in one row
of a bank. -/
def Plan.pieces (p : Plan) (f : Firing) (grouped : Bool) (base : Nat) : List (Nat × Nat) :=
  if !grouped then [(0, f.len)]
  else
    let key (l : Nat) : Option (Option Int) :=
      if !bit p.mask l then none
      else some ((Table.find p.lanes l).map fun a => if p.g then a / 128 else (base + a) / 64)
    let go (acc : List (Nat × Nat)) (l : Nat) : List (Nat × Nat) :=
      match key l with
      | none => acc
      | some k =>
        match acc with
        | (lo, n) :: rest => if lo + n = l ∧ key (lo + n - 1) = some k then (lo, n + 1) :: rest else (l, 1) :: acc
        | [] => [(l, 1)]
    let los := 0 :: (((List.range f.len).foldl go []).reverse.map (·.1)).drop 1
    (los.zip (los.drop 1 ++ [f.len])).map fun q => (q.1, q.2 - q.1)

/-- A load (R221, R224, R227, R231): checks, one reply credit a token, and its accesses issued. -/
def State.load (s : State) (ty : Ty) (rw cls scope : Nat) (grouped acquire : Bool)
    (plan : State → Firing → Sum Out Plan) : Out :=
  s.withFiring fun f => s.afterHold f <|
    let eff := f.tmask % 2 ^ f.len
    let stream := if cls < 4 then some cls else none
    if f.skipped then s.replyOnly f ty (rw + 1) 0 0 eff eff 0 fun s => s.countSkip s.cur.pos (popcount eff f.len)
    else match f.patch with
      | some v => s.replyOnly f ty (rw + 1) 0 0 eff 0 (BitVec.ofNat 64 (v.toNat % 2 ^ ty.width)) id
      | none =>
        if eff = 0 then s.replyOnly f ty (rw + 1) 0 0 0 0 0 id
        else match plan s f with
          | .inl o => o
          | .inr p => s.withRegion f fun r =>
            let base := s.windowOf r f.ctx
            let pieces := p.pieces f grouped base
            let (lo, n) := pieces.getD f.part (0, f.len)
            s.checked f p.g true false (tyBytes ty) (tyBytes ty) stream (if f.part = 0 then p.bad else none)
                (p.lanes.filter fun l => decide (lo ≤ l.1)) fun s r x =>
              let groups := p.groups ty.isWide
              let here (ls : List (Nat × Int)) : List (Nat × Nat) :=
                (ls.filter fun l => decide (lo ≤ l.1 ∧ l.1 < lo + n)).map fun l => (l.1, wrap l.2 48)
              let mine := here p.lanes
              let lines := if p.g then groups.flatMap fun g => lineReqs x (here g) else []
              let all := if p.g then (p.lanes.filter fun l => decide (lo ≤ l.1)).map fun l => lineOf ((x (wrap l.2 48)).pa (wrap l.2 48)) else []
              let hurt := if p.g then [] else mine.filter fun l => s.curMe.hurt (base + l.2) (tyBytes ty)
              if !hurt.isEmpty && !s.canPost r.part then .next (s.stall r.part)
              else if !s.canReserve s.cur.pos f.ctx rw (tokensOf ty.isWide n) ||
                  s.heldBack f s.cur.pos cls (if p.g then scope else 0) all then .next s
              else
                let s := s.reserve s.cur.pos f.ctx rw (tokensOf ty.isWide n)
                let s := if f.part = 0 then
                    (s.moveStream f.ctx cls p.pos).countGroups p.g (groups.map fun g =>
                      rangesOf (if p.g then 0 else base) (tyBytes ty) (if p.one then g.take 1 else g))
                  else s
                let s := if p.counts then s.countStream f.ctx cls mine.length else s
                let g := clusterOf s.cur.pos
                let old := if p.g && scope != 0 then (s.cluster g).wbOf (lines.map (·.line)) else []
                let s := s.drain g old (scope == 3)
                let s := match hurt with
                  | [] => s
                  | l :: _ => s.postFor r .nothing { (s.infoOf s.cur.pos f Cause.eccUncorr 1) with
                      akind := 2, addr := l.2, parked := false }
                let vals := if p.g then [] else
                  mine.map fun l => (l.1, BitVec.ofNat 64 (s.curMe.value (base + l.2) (tyBytes ty) % 2 ^ ty.width))
                let o := { opOf s f .load ty with
                  iter := f.iter + lo, len := n, mask := bits p.mask lo n, scope := scope,
                  poison := bits p.psn lo n ||| maskOf 32 fun i => hurt.any fun h => h.1 == lo + i,
                  reply := rw + 1, cls := cls, acq := acquire, todo := lines.map fun q => { q with lanes := q.lanes.map fun l => (l.1 - lo, l.2) },
                  waits := old, vals := vals.map fun v => (v.1 - lo, v.2) }
                let s := s.bumpOp.issue o
                if f.part + 1 < pieces.length then .next (s.partDone (f.part + 1))
                else .next (s.issued f acquire o.id)

/-! ## Stores -/

/-- What a store writes: its space, the bytes of each lane at its address, the suppressed lanes, and the stream after it. -/
structure WPlan where
  g : Bool
  lanes : List (Nat × Int × List Byte)
  sunk : List (Nat × Int) := []
  pos : Option (Nat × Bool) := none
  bad : Option (Nat × Nat × Int) := none
deriving DecidableEq, Repr

/-- A store's receipt without an access (R30, R449). -/
def State.receiptOnly (s : State) (f : Firing) (rw scope : Nat) (poisoned : Bool) : State :=
  s.sendReceipt s.cur.pos f.ctx rw f.frame f.iter 0 scope 0 poisoned

/-- Lines of a store enter the write buffer in order until it is full; the lines left, and the entries used. -/
def State.enterLines (s : State) (g : Nat) (writer : Coord × Nat × Nat × Nat) (region : Nat) :
    List (Nat × Bool × List Host.Cell) → State × Nat × List Nat
  | [] => (s, 0, [])
  | (l, dev, bs) :: rest =>
    match s.wbPut g writer region dev l bs with
    | none => (s, 0, [])
    | some (s, id) =>
      let r := State.enterLines s g writer region rest
      (r.1, r.2.1 + 1, id :: r.2.2)

/-- The lines of a store that are left enter the write buffer, in order, as far as it has room; while some are left, the firing waits
at the store. Those of a store that names a scope, or for which a barrier waits, drain (R226). -/
def State.enterStore (s : State) (f : Firing) (o : Op) : Out :=
  let g := clusterOf s.cur.pos
  let sc := max o.scope o.upTo
  let r := s.enterLines g (s.cur.pos, o.ctx, o.frame, o.cls) o.region o.lines
  let s := if sc = 0 then r.1 else r.1.drain g r.2.2 (sc == 3)
  let s := s.modOp o.id fun o => { o with lines := o.lines.drop r.2.1, waits := if sc = 0 then o.waits else o.waits ++ r.2.2 }
  if r.2.1 < o.lines.length then
    .next (((s.drainOldest g).modSlot s.cur.pos s.cur.slot fun f => { f with opid := o.id }).partDone (f.part + r.2.1))
  else .next s.settle.goOn

/-- A store (R224 to R226, R232): checks, suppressed lanes, then its bytes into the bank or the write buffer. What it does is settled
once, when it issues: a store of more lines than the buffer has room for keeps those left (R215, R224, R225). -/
def State.storeTo (s : State) (size align rw cls scope : Nat) (release : Bool) (plan : State → Firing → Sum Out WPlan) : Out :=
  s.withFiring fun f =>
    let eff := f.tmask % 2 ^ f.len
    let stream := if cls < 4 then some cls else none
    if f.opid ≠ 0 then
      match s.ops.find? fun o => o.id == f.opid with
      | some o => s.enterStore f o
      | none => .next s.goOn
    else if f.skipped then .next (((s.countMe (popcount eff f.len)).receiptOnly f rw scope true).goOn)
    else if eff = 0 then .next ((s.receiptOnly f rw scope false).goOn)
    else match plan s f with
      | .inl o => o
      | .inr p =>
        s.checked f p.g false true size align stream p.bad (p.lanes.map fun l => (l.1, l.2.1)) fun s r x =>
          let scope := if p.g then scope else 0
          let cells := p.lanes.flatMap fun l => cellsAt (wrap l.2.1 48) l.2.2
          let phys := if p.g then cells.map fun c => (((x c.1).pa c.1, c.2), (x c.1).dev) else []
          let lines := (byLine (phys.map (·.1))).map fun l => (l.1, phys.any fun c => lineOf c.1.1 == l.1 && c.2, l.2)
          let base := s.windowOf r f.ctx
          if s.sinkMustWait f && !p.sunk.isEmpty then .next (s.stall r.part)
          else if s.heldBack f s.cur.pos cls scope (lines.map (·.1)) then .next s
          else match (if release then s.releaseReady f scope else none) with
            | some s => .next s
            | none =>
              let s := if release then s.released f scope else s
              let s := (s.sinkLanes f p.g p.sunk).moveStream f.ctx cls p.pos
              let s := if cls < 4 && !p.sunk.isEmpty then s.modMe s.cur.pos fun m =>
                { m with sbad := (f.ctx, cls) :: m.sbad.erase (f.ctx, cls) } else s
              let s := s.countGroups p.g ((accessGroups (size == 8) (p.lanes.map fun l => (l.1, l.2.1))).map
                (rangesOf (if p.g then 0 else base) size))
              let bad := !p.sunk.isEmpty
              if !p.g then
                let s := s.modMe s.cur.pos fun m =>
                  (p.lanes.foldl (fun (m : Me) l => m.put (base + wrap l.2.1 48) l.2.2) m).heal (cells.map fun c => base + c.1)
                .next ((s.receiptOnly f rw 0 bad).goOn)
              else
                let o := { opOf s f .store Ty.n8 with scope := scope, receipt := rw, rpoison := bad, cls := cls, lines := lines,
                                                            several := decide (1 < lines.length) }
                (s.bumpOp.issue o).enterStore f o

end Sys2Proof.Machine
end

