-- ==== Sys2Proof/Machine/MemElem.lean ====
section
/-! DEFINITION. The Memory Element's instructions (R229 to R237). -/

namespace Sys2Proof.Machine

/-! ## Address-operand loads (R231) -/

/-- ea[l] of an address-operand instruction. -/
def eaOf (n : Niw) (base : Nat) (size idx : Nat) : Int := base + sx idx 32 * size + sx n.imm.toNat 16

/-- The plan of LD, LDG and LDA. -/
def State.ldPlan (n : Niw) (s : State) (f : Firing) : Sum Out Plan :=
  match f.addrConst n.a with
  | none => .inl (s.badOperand f)
  | some (g, base) =>
    let col := s.column n f .i32 1 n.b
    .inr { g := g, mask := f.eff n.pred,
           lanes := (col.filter fun c => !c.2.2).map fun c => (c.1, eaOf n base (tyBytes n.ty) c.2.1),
           psn := maskOf f.len fun l => col.any fun c => c.1 == l && c.2.2 }

/-- The word that RWX names, and the scope of an M-form (R64). -/
def Niw.rwx (n : Niw) : Nat := n.opt.toNat % 8
def Niw.ord (n : Niw) : Nat := n.opt.toNat / 8 % 4
def Niw.scope (n : Niw) : Nat := n.opt.toNat / 32

/-- LD (R231). -/
def execLd (n : Niw) (s : State) : Out := s.load n.ty (Niw.rwx n) 4 (Niw.scope n) false false (State.ldPlan n)
/-- LDG (R231): one reply a group. -/
def execLdg (n : Niw) (s : State) : Out := s.load n.ty (Niw.rwx n) 4 (Niw.scope n) true false (State.ldPlan n)
/-- LDA (R231, R350): an acquire. -/
def execLda (n : Niw) (s : State) : Out := s.load n.ty (Niw.rwx n) 4 (Niw.scope n) false true (State.ldPlan n)

/-- LDB (R231): one address for every lane. -/
def execLdb (n : Niw) (s : State) : Out :=
  s.load n.ty (Niw.rwx n) 4 (Niw.scope n) false false fun s f =>
    match f.addrConst n.a with
    | none => .inl (s.badOperand f)
    | some (g, base) =>
      .inr { g := g, mask := f.eff n.pred, lanes := (f.active n.pred).map fun l => (l, (base : Int) + sx n.imm.toNat 16), one := true }

/-- LDL (R231): B is a pointer; a null one makes its lane inactive; a run above 16 is refused. -/
def execLdl (n : Niw) (s : State) : Out :=
  s.load n.ty (Niw.rwx n) 4 (Niw.scope n) false false fun s f =>
    match f.addrConst n.a with
    | none => .inl (s.badOperand f)
    | some (g, base) =>
      if 16 < f.len then .inl (s.badOperand f)
      else
        let col := (s.column n f .n64 1 n.b).map fun c => (c.1, bits c.2.1 0 48, c.2.2)
        let live := col.filter fun c => c.2.2 || c.2.1 != 0
        .inr { g := g, mask := maskOf f.len fun l => live.any fun c => c.1 == l,
               lanes := (live.filter fun c => !c.2.2).map fun c => (c.1, (base : Int) + c.2.1 + sx n.imm.toNat 16),
               psn := maskOf f.len fun l => live.any fun c => c.1 == l && c.2.2 }

/-! ## Address-operand stores (R232) -/

/-- The bytes of a lane's value. -/
def laneBytes (ty : Ty) (v : Nat) : List Byte := toBytes (tyBytes ty) v

/-- The plan of ST and STR; `each` orders the lanes of one address. -/
def State.stPlan (n : Niw) (each : List (Nat × Int × List Byte) → List (Nat × Int × List Byte)) (s : State) (f : Firing) :
    Sum Out WPlan :=
  match f.addrConst n.a with
  | none => .inl (s.badOperand f)
  | some (g, base) =>
    let col := (f.active n.pred).map fun l =>
      let b := s.readSel s.cur.pos f n .i32 1 n.b l
      let c := s.readSel s.cur.pos f n n.ty 2 n.c l
      (l, eaOf n base (tyBytes n.ty) b.1, c.1, b.2 || c.2)
    .inr { g := g, lanes := each ((col.filter fun c => !c.2.2.2).map fun c => (c.1, c.2.1, laneBytes n.ty c.2.2.1)),
           sunk := (col.filter fun c => c.2.2.2).map fun c => (c.1, c.2.1) }

/-- A store of the lanes' elements. -/
def State.storeEl (s : State) (n : Niw) (release : Bool) (plan : State → Firing → Sum Out WPlan) : Out :=
  s.storeTo (tyBytes n.ty) (tyBytes n.ty) (Niw.rwx n) 4 (Niw.scope n) release plan

/-- ST (R232): the highest lane's value is written. -/
def execSt (n : Niw) (s : State) : Out := s.storeEl n false (State.stPlan n fun l => l)
/-- STR (R232, R353): a release. -/
def execStr (n : Niw) (s : State) : Out := s.storeEl n true (State.stPlan n fun l => l)

/-- Of the lanes on one address one lane's value is written, which is a free choice (R232, log 1). -/
def oneOf (free : Nat → Nat) (ls : List (Nat × Int × List Byte)) : List (Nat × Int × List Byte) :=
  ls.map fun l =>
    let same := ls.filter fun m => m.2.1 == l.2.1
    let lead := (same.headD l).1
    (l.1, l.2.1, (same.getD (free (512 + lead) % same.length) l).2.2)

/-- STG (R232). -/
def execStg (n : Niw) (s : State) : Out := s.storeEl n false (State.stPlan n (oneOf s.free))

/-- STM (R232): the active lanes are written one behind the other from lane a0's address. -/
def execStm (n : Niw) (s : State) : Out :=
  s.storeEl n false fun s f =>
    match f.addrConst n.a with
    | none => .inl (s.badOperand f)
    | some (g, base) =>
      let lanes := f.active n.pred
      let b := s.readSel s.cur.pos f n .i32 1 n.b (lanes.headD 0)
      let col := lanes.zipIdx.map fun q =>
        let c := s.readSel s.cur.pos f n n.ty 2 n.c q.1
        (q.1, eaOf n base (tyBytes n.ty) b.1 + (q.2 * tyBytes n.ty : Nat), c.1, b.2 || c.2)
      .inr { g := g, lanes := (col.filter fun c => !c.2.2.2).map fun c => (c.1, c.2.1, laneBytes n.ty c.2.2.1),
             sunk := (col.filter fun c => c.2.2.2).map fun c => (c.1, c.2.1) }

/-- STZ (R232): zeroed granules of 64 bytes. -/
def execStz (n : Niw) (s : State) : Out :=
  let size := 64 * (n.imm.toNat % 64 + 1)
  s.storeTo size 64 (Niw.rwx n) 4 (Niw.scope n) false fun s f =>
    match f.addrConst n.a with
    | none => .inl (s.badOperand f)
    | some (g, base) =>
      let col := (s.column n f .i32 1 n.b).map fun c => (c.1, (base : Int) + sx c.2.1 32 * 64, c.2.2)
      .inr { g := g, lanes := (col.filter fun c => !c.2.2).map fun c => (c.1, c.2.1, List.replicate size 0),
             sunk := (col.filter fun c => c.2.2).map fun c => (c.1, c.2.1) }

/-! ## Streams (R215 to R217) -/

/-- A stream descriptor (R74). -/
structure Sd where
  g : Bool
  lvls : Nat
  amode : Nat
  scope : Nat
  rrw : Nat
  base : Nat
  cnt : List Nat
  std : List Int
deriving DecidableEq, Repr

/-- A descriptor's fields. -/
def sdOf (ws : List Word) : Sd :=
  let w (i : Nat) : Nat := (ws.getD i 0).toNat
  { g := bits (w 0) 62 2 == 1, lvls := bits (w 0) 56 2 + 1, amode := bits (w 0) 53 3, scope := bits (w 0) 51 2,
    rrw := bits (w 0) 48 3, base := bits (w 0) 0 48, cnt := [0, 1, 2, 3].map fun k => bits (w 1) (16 * k) 16 + 1,
    std := [sx (w 2) 32, sx (w 2 / 2 ^ 32) 32, sx (w 3) 32, sx (w 3 / 2 ^ 32) 32] }

/-- What SOPEN and CFG refuse in a descriptor (R75, R216). -/
def sdOk (ws : List Word) : Bool :=
  let w0 := (ws.getD 0 0).toNat
  let d := sdOf ws
  decide (bits w0 62 2 < 2) && decide (d.amode < 3) && (d.rrw == 0 || decide (4 ≤ d.rrw)) &&
    (d.amode == 0 || d.lvls == 1) && (d.g || decide (d.base < spadSize)) &&
    [1, 2, 3].all fun k => decide (k < d.lvls) || (d.cnt.getD k 1 == 1 && (d.std.getD k 0 == 0 || (d.amode == 2 && k == 1)))

/-- Elements of an affine stream. -/
def Sd.count (d : Sd) : Nat := (d.cnt.take d.lvls).foldl (· * ·) 1

/-- addr(j) − BASE of R75; positions past the end go on in the outermost level. -/
def stridesAt : List (Nat × Int) → Nat → Int
  | [], _ => 0
  | [(_, t)], j => j * t
  | (c, t) :: rest, j => (j % c : Nat) * t + stridesAt rest (j / c)

/-- Element j's address from ADDR. -/
def Sd.addr (d : Sd) (base : Nat) (j : Nat) : Int := base + stridesAt ((d.cnt.zip d.std).take d.lvls) j

/-- The descriptor of a stream of the firing's context. -/
def State.sd (s : State) (f : Firing) (k : Nat) : Sd := sdOf ((s.ctx s.cur.pos f.ctx).streams.getD k [])
/-- ME_SSTck. -/
def State.sstOf (s : State) (f : Firing) (k : Nat) : Nat := (s.curMe.sst.get 0 (f.ctx, k)).toNat
/-- ME_SADck. -/
def State.sadOf (s : State) (f : Firing) (k : Nat) : Nat := (s.curMe.sad.get 0 (f.ctx, k)).toNat % 2 ^ 48
/-- The stream number of an instruction. -/
def Niw.stream (n : Niw) : Nat := n.imm.toNat % 4
/-- Scope of a stream's accesses: CL in S-space (R227). -/
def Sd.sc (d : Sd) : Nat := if d.g then d.scope else 0

/-- Lanes with what a stream gives them: address, or the ACCESS code that the lane fails with; the first failing lane ends
the list of those to check. -/
def cutBad (ls : List (Nat × Int × Nat)) : List (Nat × Int) × Option (Nat × Nat × Int) :=
  match ls.find? fun l => l.2.2 != 0 with
  | some b => ((ls.filter fun l => decide (l.1 < b.1)).map fun l => (l.1, l.2.1), some (b.1, b.2.2, b.2.1))
  | none => (ls.map fun l => (l.1, l.2.1), none)

/-- Positions that a stream instruction's lanes take (R217): lane and position. -/
def State.positions (s : State) (n : Niw) (f : Firing) : List (Nat × Nat) :=
  (f.active n.pred).zipIdx.map fun q => (q.1, bits (s.sstOf f (Niw.stream n)) 0 32 + q.2)

/-- The lanes that a stream instruction checks (R224, R233): those without poison; on a closed stream, which is a fault whatever its
lanes hold, the lowest active one where all are poisoned (log 73). -/
def liveLanes {α : Type} (opened : Bool) (psn : α → Bool) (l : List α) : List α :=
  let live := l.filter (!psn ·)
  if !opened && live.isEmpty then l.take 1 else live

/-- The plan of an affine LDS (R217, R233). -/
def State.ldsPlan (n : Niw) (s : State) (f : Firing) : Sum Out Plan :=
  let k := Niw.stream n
  let d := s.sd f k
  let sad := s.sadOf f k
  let opened := bit (s.sstOf f k) 63
  let ps := s.positions n f
  let at' := ps.filter fun p => decide (p.2 < d.count)
  let r := cutBad (if opened then at'.map fun p => (p.1, d.addr sad p.2, 0) else ps.map fun p => (p.1, d.addr sad p.2, 3))
  let last := bits (s.sstOf f k) 0 32 + at'.length
  .inr { g := d.g, lanes := r.1, bad := r.2, mask := maskOf f.len fun l => at'.any fun p => p.1 == l,
         pos := some (last % 2 ^ 32, decide (d.count ≤ last)) }

/-- The lane number under which an operation keeps the link that lane `l`'s element names. -/
def linkLane (l : Nat) : Nat := 32 + l

/-- A linked LDS that faults: its operation ends, the credit of its reply goes back, and the record names the lane (R224). POS and ADDR
stay as before the instruction, and the elements that it has read are dropped: R224 performs no lane where one fails, while R216 reads
element by element, and the manual does not join the two (DESIGN CHOICE, log 92). -/
def State.linkedFault (s : State) (f : Firing) (d : Sd) (o : Op) (count lane code cause aux : Nat) (a : Int) : Out :=
  let s := (({ s with ops := s.ops.filter fun x => x.id != o.id } : State).repay o.pos o.ctx o.frame 1).unreserve o.pos o.ctx (o.reply - 1) count
  let s := s.modSlot s.cur.pos s.cur.slot fun f => { f with opid := 0 }
  s.meFault { f with opid := 0 } d.g lane code cause aux a

/-- The element that a lane takes next from a linked stream, at node `p` (R216): its value and its link are checked and requested, and
what a scratchpad holds is read at once. -/
def State.linkRequest (s : State) (f : Firing) (r : Region) (d : Sd) (ty : Ty) (k lane p count : Nat) (o : Op) : Out :=
  let a : Int := p + d.std.getD 1 0
  let b : Int := p + d.std.getD 0 0
  let sz := tyBytes ty
  let x (va : Nat) : Xlat := (s.xlatOf f (some k) r.part va).getD (Xlat.failed r.part va 3)
  let vas := if d.g then (if wrap a 48 % sz = 0 then vasOf a sz else []) ++ (if wrap b 48 % 8 = 0 then vasOf b 8 else []) else []
  let miss := vas.filter fun v => (s.xlatOf f (some k) r.part v).isNone
  if (d.g && s.stallsNew r) || s.barred s.cur.pos f.ctx k then .next s
  else if !miss.isEmpty then .next (s.askWalks f (some k) r.part miss)
  else match s.accessFault r d.g true false sz sz x a, s.accessFault r d.g true false 8 8 x b with
    | some (cause, code, aux), _ => s.linkedFault f d o count lane code cause aux a
    | none, some (cause, code, aux) => s.linkedFault f d o count lane code cause aux b
    | none, none =>
      let base := s.windowOf r f.ctx
      let hurt := !d.g && (s.curMe.hurt (base + wrap a 48) sz || s.curMe.hurt (base + wrap b 48) 8)
      if hurt && !s.canPost r.part then .next (s.stall r.part)
      else
        let s := s.countGroups d.g [rangesOf (if d.g then 0 else base) sz [(lane, a)] ++ rangesOf (if d.g then 0 else base) 8 [(lane, b)]]
        let s := if hurt then s.postFor r .nothing { (s.infoOf s.cur.pos f Cause.eccUncorr 1) with
            akind := 2, addr := wrap a 48, parked := false } else s
        if d.g then
          let reqs := lineReqs x [(lane, wrap a 48), (linkLane lane, wrap b 48)]
          let g := clusterOf s.cur.pos
          let old := if d.sc = 0 then [] else (s.cluster g).wbOf (reqs.map (·.line))
          .next ((s.drain g old (d.sc == 3)).modOp o.id fun o => { o with todo := reqs, waits := old })
        else
          let v := BitVec.ofNat 64 (s.curMe.value (base + wrap a 48) sz % 2 ^ ty.width)
          let next := BitVec.ofNat 64 (s.curMe.value (base + wrap b 48) 8)
          .next (s.modOp o.id fun o => { o with vals := o.vals ++ [(lane, v), (linkLane lane, next)],
                                                poison := if hurt then o.poison ||| 2 ^ lane else o.poison })

/-- What the last element's link gave is taken in: the next node, POS, and the lanes that have an element (R216). -/
def Op.linked (o : Op) (lanes : List Nat) : Op :=
  let (_, pos, n) := o.link
  match Table.find o.vals (linkLane (lanes.getD n 0)) with
  | some v => { o with link := (v.toNat % 2 ^ 48, (pos + 1) % 2 ^ 32, n + 1),
                       vals := o.vals.filter fun x => x.1 != linkLane (lanes.getD n 0) }
  | none => o

/-- A linked LDS goes on (R216, R217): each element waits for the one before it. At the stream's end, or when every lane has its
element, POS and ADDR move on and the reply may leave. -/
def State.linkStep (s : State) (n : Niw) (f : Firing) (r : Region) (o : Op) : Out :=
  let k := Niw.stream n
  let d := s.sd f k
  let lanes := f.active n.pred
  let o := o.linked lanes
  let (p, pos, taken) := o.link
  let s := s.modOp o.id fun _ => o
  let ended := decide (d.cnt.getD 0 1 ≤ pos ∨ p = 0)
  if !(o.todo.isEmpty && o.waits.isEmpty) then .next s
  else if ended ∨ lanes.length ≤ taken then
    let s := s.moveStream f.ctx k (some (pos, ended))
    let s := s.modMe s.cur.pos fun m => { m with sad := m.sad.set (f.ctx, k) (BitVec.ofNat 64 p) }
    .next ((s.modOp o.id fun o => { o with more := false, mask := maskOf f.len fun l => (lanes.take taken).contains l }).settle.goOn)
  else s.linkRequest f r d n.ty k (lanes.getD taken 0) p (tokensOf n.ty.isWide f.len) o

/-- A linked LDS (R216, R221): it takes its reply's credit, and then its elements one behind the other. -/
def State.loadLinked (s : State) (n : Niw) : Out :=
  s.withFiring fun f => s.withRegion f fun r =>
    let k := Niw.stream n
    let d := s.sd f k
    let rw := Niw.rwx n
    let lanes := f.active n.pred
    let c := tokensOf n.ty.isWide f.len
    if f.opid ≠ 0 then
      match s.ops.find? fun o => o.id == f.opid with
      | some o => s.linkStep n f r o
      | none => .next s.goOn
    else if !bit (s.sstOf f k) 63 then s.meFault f d.g (lanes.headD 0) 3 Cause.access 0 (s.sadOf f k)
    else if !s.canReserve s.cur.pos f.ctx rw c || s.heldBack f s.cur.pos k d.sc [] || (d.g && s.stallsNew r) then .next s
    else
      let o := { opOf s f .load n.ty with
        reply := rw + 1, cls := k, scope := d.sc, more := true, link := (s.sadOf f k, bits (s.sstOf f k) 0 32, 0) }
      let s := ((s.reserve s.cur.pos f.ctx rw c).bumpOp.issue o).modSlot s.cur.pos s.cur.slot fun f => { f with opid := o.id }
      s.linkStep n { f with opid := o.id } r o

/-- LDS (R233): affine or linked. -/
def execLds (n : Niw) (s : State) : Out :=
  let plain := s.load n.ty (Niw.rwx n) (Niw.stream n) ((match s.firing with | some f => (s.sd f (Niw.stream n)).scope | none => 0))
    false false (State.ldsPlan n)
  match s.firing with
  | some f =>
    if (s.sd f (Niw.stream n)).amode = 2 ∧ f.held = false ∧ f.skipped = false ∧ f.patch = none ∧ f.tmask % 2 ^ f.len ≠ 0
    then s.loadLinked n else plain
  | none => plain

/-- The scope of the stream that an instruction of the current firing names. -/
def State.streamScope (s : State) (n : Niw) : Nat := match s.firing with | some f => (s.sd f (Niw.stream n)).scope | none => 0

/-- A lane of an indexed stream: its address and ACCESS code (R216, R233). -/
def State.indexed (s : State) (f : Firing) (k : Nat) (x : Nat) : Int × Nat :=
  let d := s.sd f k
  let i := sx x 32
  ((s.sadOf f k : Int) + i * d.std.getD 0 0,
   if !bit (s.sstOf f k) 63 then 3 else if i < 0 ∨ (d.cnt.getD 0 1 : Int) ≤ i then 2 else 0)

/-- LDSG (R233). -/
def execLdsg (n : Niw) (s : State) : Out :=
  s.load n.ty (Niw.rwx n) (Niw.stream n) (s.streamScope n) true false fun s f =>
    let k := Niw.stream n
    let col := s.column n f .i32 0 n.a
    let ok := (liveLanes (bit (s.sstOf f k) 63) (·.2.2) col).map fun c => (c.1, s.indexed f k c.2.1)
    let r := cutBad ok
    .inr { g := (s.sd f k).g, lanes := r.1, bad := r.2, mask := f.eff n.pred,
           psn := maskOf f.len fun l => col.any fun c => c.1 == l && c.2.2, counts := true }

/-- A store to a stream. -/
def State.storeStream (s : State) (n : Niw) (plan : State → Firing → Sum Out WPlan) : Out :=
  s.storeTo (tyBytes n.ty) (tyBytes n.ty) (Niw.rwx n) (Niw.stream n) (s.streamScope n) false plan

/-- Lanes to write with their bytes, those that a cut of the failing lane leaves. -/
def withBytes (ls : List (Nat × Int)) (bs : List (Nat × List Byte)) : List (Nat × Int × List Byte) :=
  ls.map fun l => (l.1, l.2, (Table.find bs l.1).getD [])

/-- STS (R217, R233): a lane past the end faults. No store sets EXH, not even that of the last element (log 73). -/
def execSts (n : Niw) (s : State) : Out :=
  s.storeStream n fun s f =>
    let k := Niw.stream n
    let d := s.sd f k
    let opened := bit (s.sstOf f k) 63
    let col := (s.positions n f).map fun p => (p.1, p.2, s.readSel s.cur.pos f n n.ty 0 n.a p.1)
    let ok := liveLanes opened (·.2.2.2) col
    let r := cutBad (ok.map fun c =>
      (c.1, d.addr (s.sadOf f k) c.2.1, if !opened then 3 else if d.count ≤ c.2.1 then 4 else 0))
    let taken := (col.filter fun c => decide (c.2.1 < d.count)).length
    .inr { g := d.g, lanes := withBytes r.1 (ok.map fun c => (c.1, laneBytes n.ty c.2.2.1)), bad := r.2,
           sunk := (col.filter fun c => c.2.2.2).map fun c => (c.1, d.addr (s.sadOf f k) c.2.1),
           pos := some ((bits (s.sstOf f k) 0 32 + taken) % 2 ^ 32, false) }

/-- STSS (R216, R233). -/
def execStss (n : Niw) (s : State) : Out :=
  s.storeStream n fun s f =>
    let k := Niw.stream n
    let col := (f.active n.pred).map fun l =>
      let a := s.readSel s.cur.pos f n .i32 0 n.a l
      let b := s.readSel s.cur.pos f n n.ty 1 n.b l
      (l, s.indexed f k a.1, b.1, a.2 || b.2)
    let ok := liveLanes (bit (s.sstOf f k) 63) (·.2.2.2) col
    let r := cutBad (ok.map fun c => (c.1, c.2.1))
    .inr { g := (s.sd f k).g, lanes := withBytes r.1 (ok.map fun c => (c.1, laneBytes n.ty c.2.2.1)), bad := r.2,
           sunk := (col.filter fun c => c.2.2.2).map fun c => (c.1, c.2.1.1),
           pos := some ((bits (s.sstOf f k) 0 32 + ok.length) % 2 ^ 32, false) }

/-! ## Stream control (R234) -/

/-- The writes of a stream. -/
def streamWrites (pos : Coord) (ctx k : Nat) : Reach :=
  { wr := writerIs pos ctx k, op := fun o => o.pos == pos && o.ctx == ctx && o.cls == k && o.kind == .store }

/-- A load of a stream is under way in a slot: a gathering load has replies yet to issue, or a linked one elements (R216, R231). Its
accesses are not new ones to a close, which waits for it: the manual does not say what becomes of them (DESIGN CHOICE, log 93). -/
def State.midway (s : State) (pos : Coord) (ctx k : Nat) : Bool :=
  (s.ops.any fun o => o.pos == pos && o.ctx == ctx && o.cls == k && o.more) ||
  (s.node pos).slots.any fun o => match o with
    | some f =>
      let w := (f.words.getD f.ix 0).toNat
      f.ctx == ctx && decide (0 < f.part) && w / 2 ^ 56 == 0x96 && w % 4 == k
    | none => false

/-- An instruction that acts once, on lane a: nothing for a zero-mask firing or under SKIP (R234, R449). -/
def State.atLaneA (s : State) (n : Niw) (act : Firing → Nat → Out) : Out :=
  s.withFiring fun f =>
    if f.skipped then .next ((s.countSkip s.cur.pos (f.active n.pred).length).goOn)
    else match f.lane0 n.pred with
      | none => .next s.goOn
      | some a => act f a

/-- Close a stream: hold its new accesses back and drain its writes, then go on (R234). -/
def State.closeStream (s : State) (f : Firing) (k : Nat) (done : State → Out) : Out :=
  let d := s.sd f k
  let w := streamWrites s.cur.pos f.ctx k
  let ids := s.awaited d.sc w
  if ids.1.isEmpty && ids.2.isEmpty && !s.midway s.cur.pos f.ctx k then done (s.pushTier f.region d.sc w)
  else .next ((s.push d.sc ids).modSlot s.cur.pos s.cur.slot fun f => { f with part := 1 })

/-- SOPEN (R216, R234). A poisoned offset is used as the value that its lane holds, and poisons nothing: the manual gives the control of
a stream no rule for poison (log 73). -/
def execSopen (n : Niw) (s : State) : Out :=
  s.atLaneA n fun f a =>
    let k := Niw.stream n
    let ws := (s.ctx s.cur.pos f.ctx).streams.getD k []
    if !sdOk ws then s.takeFrameFault s.cur.pos s.cur.slot .firing (s.infoOf s.cur.pos f Cause.illegalCfg 0)
    else
      let start (s : State) : Out :=
        let off := sx (s.readSel s.cur.pos f n .i32 0 n.a a).1 32
        .next (s.modMe s.cur.pos fun m => { m with
          sst := m.sst.set (f.ctx, k) (BitVec.ofNat 64 (2 ^ 63)),
          sad := m.sad.set (f.ctx, k) (BitVec.ofNat 64 (wrap ((sdOf ws).base + off) 48)),
          sbad := m.sbad.erase (f.ctx, k) }).goOn
      if bit (s.sstOf f k) 63 then s.closeStream f k start else start s

/-- SSEEK (R234). A poisoned position is used as its value; a closed stream is no fault here, as R233's names the accesses (log 73). -/
def execSseek (n : Niw) (s : State) : Out :=
  s.atLaneA n fun f a =>
    let k := Niw.stream n
    let d := s.sd f k
    let v := (s.readSel s.cur.pos f n .i32 0 n.a a).1 % 2 ^ 32
    if d.amode = 0 ∧ d.count < v then s.meFault f d.g a 4 Cause.access 0 (d.addr (s.sadOf f k) v)
    else
      .next (s.modMe s.cur.pos fun m => { m with
        sst := m.sst.set (f.ctx, k) (BitVec.ofNat 64 (setBits (setBits (s.sstOf f k) 0 32 v) 62 1 0)) }).goOn

/-- SCLOSE (R234): the close receipt goes on the descriptor's RRW, with the FLAGS of the markers that came to the context (R42). -/
def execSclose (n : Niw) (s : State) : Out :=
  s.withFiring fun f =>
    let k := Niw.stream n
    let d := s.sd f k
    let receipt (s : State) (psn : Bool) : State :=
      let x := s.ctx s.cur.pos f.ctx
      s.sendReceipt s.cur.pos f.ctx d.rrw f.frame f.iter (x.sf ||| x.mflags) d.sc 0 psn
    let opened := bit (s.sstOf f k) 63
    if f.skipped then .next ((if opened then receipt (s.countSkip s.cur.pos (f.active n.pred).length) true else s).goOn)
    else if f.tmask % 2 ^ f.len = 0 ∨ ¬ opened then .next s.goOn
    else s.closeStream f k fun s =>
      let psn := s.curMe.sbad.contains (f.ctx, k)
      .next (((receipt s psn).certified s.cur.pos f.ctx f.frame).modMe s.cur.pos fun m => { m with
        sst := m.sst.set (f.ctx, k) (BitVec.ofNat 64 (setBits (s.sstOf f k) 63 1 0)), sbad := m.sbad.erase (f.ctx, k) }).goOn

/-- An operation that only waits for earlier ones, and its receipt (R234, R235): at once for a zero-mask firing, poisoned
under SKIP. `earlier` gives the write-buffer entries and operations that it waits for. -/
def State.barrier (s : State) (n : Niw) (classes : Nat) (scope : Firing → Nat)
    (earlier : State → Firing → Reach) : Out :=
  s.withFiring fun f =>
    let rw := Niw.rwx n
    let sc := scope f
    if f.skipped then .next (((s.countSkip s.cur.pos (f.active n.pred).length).receiptOnly f rw sc true).goOn)
    else if f.tmask % 2 ^ f.len = 0 then .next ((s.receiptOnly f rw sc false).goOn)
    else
      let w := earlier s f
      let ids := s.awaited sc w
      let s := (s.push sc ids).pushTier f.region sc w
      let o := { opOf s f (.barrier classes) Ty.n8 with scope := sc, receipt := rw, waits := ids.1, after := ids.2 }
      .next ((s.bumpOp.issue o).settle.goOn)

/-- SFLUSH (R234); of a closed stream, which owes no write, it sends its receipt (log 73). -/
def execSflush (n : Niw) (s : State) : Out :=
  s.barrier n 0 (fun f => (s.sd f (Niw.stream n)).sc) fun s f => streamWrites s.cur.pos f.ctx (Niw.stream n)

/-- SCNT (R234): POS, of a closed stream too (log 73). -/
def execScnt (n : Niw) (s : State) : Out :=
  s.result n false 32 fun f => (f.active n.pred).map fun l => (l, { v := bits (s.sstOf f (Niw.stream n)) 0 32, psn := false })

/-! ## Barriers (R235) -/

/-- SBAR (R235). -/
def execSbar (n : Niw) (s : State) : Out :=
  let m := n.imm.toNat % 32
  s.barrier n m (fun _ => Niw.scope n) fun s f =>
    let named := maskLanes m 5
    { wr := fun w => decide (w.1 = s.cur.pos ∧ w.2.1 = f.ctx) && named.contains w.2.2.2,
      op := fun o => o.pos == s.cur.pos && o.ctx == f.ctx && named.contains o.cls &&
        match o.kind with | .barrier _ => false | _ => true }

/-- FENCE (R235). -/
def execFence (n : Niw) (s : State) : Out :=
  s.barrier n 0 (fun _ => Niw.scope n) fun s f => frameWrites s.cur.pos f.frame

/-! ## Party barriers (R166 to R168) -/

/-- BARR (R166, R167, R168): a release at the set's scope, so its release set is performed there first (R353): an ME's writes for the
frame, and at any node the writes of earlier releases. The phase is poisoned when the firing has a poisoned lane. -/
def execBarr (n : Niw) (s : State) : Out :=
  s.party n fun s f r k p =>
    let rw := n.opt.toNat % 8
    let me := (f.frame, s.cur.pos, f.ctx, rw, f.iter)
    if !p.members.contains f.frame then .inl (4, k)
    else match s.releaseReady f p.scope with
      | some s => .inr s
      | none =>
        let s := s.released f p.scope
        let s := s.oweParty f rw
        if p.arrived.any fun a => a.1 == f.frame then
          .inr (s.modPset r.id k fun p => { p with nextPhase := p.nextPhase ++
            [(f.frame, s.cur.pos, f.ctx, rw, f.iter, f.pmask != 0)] }).goOn
        else
          .inr ((s.modPset r.id k fun p => { p with arrived := p.arrived ++ [me], poison := p.poison || f.pmask != 0 }).phaseTest
            r.id k p.tests).goOn

/-! ## Probes and cache control (R236) -/

/-- The status word of PROBE for an address. -/
def State.probe (s : State) (r : Region) (g : Bool) (size : Nat) (x : Nat → Xlat) (a : Int) : Nat :=
  let va := wrap a 48
  let al := b2n (va % size == 0)
  if !g then
    let ok := b2n (decide (0 ≤ a ∧ a + size ≤ (r.scratch : Int)))
    2 * ok + 4 * ok + 128 * al
  else
    let t := x va
    if t.bad.isSome then 128 * al
    else 1 + 2 * b2n t.rd + 4 * b2n t.w + 8 * b2n t.dev + 16 * b2n (s.dev.inH t.spa) + 32 * pageCode t.lg + 128 * al

/-- PROBE (R236). -/
def execProbe (n : Niw) (s : State) : Out :=
  s.withFiring fun f => s.withRegion f fun r =>
    if f.skipped || f.patch.isSome || f.tmask % 2 ^ f.len == 0 then s.result n false 32 fun _ => []
    else match f.addrConst n.a with
      | none => s.badOperand f
      | some (g, base) =>
        let col := (s.column n f .i32 1 n.b).map fun c => (c.1, eaOf n base (tyBytes n.ty) c.2.1, c.2.2)
        let vas := if g then (col.filter fun c => !c.2.2).map fun c => wrap c.2.1 48 else []
        s.withXlat f none r.part vas fun s x =>
          s.result n false 32 fun _ => col.map fun c =>
            (c.1, { v := if c.2.2 then 0 else s.probe r g (tyBytes n.ty) x c.2.1, psn := c.2.2 })

/-- PFETCH (R236): the lines of lanes that could be read are filled. -/
def execPfetch (n : Niw) (s : State) : Out :=
  s.withFiring fun f => s.withRegion f fun r =>
    if f.skipped then .next ((s.countSkip s.cur.pos (f.active n.pred).length).goOn)
    else if f.tmask % 2 ^ f.len = 0 then .next s.goOn
    else match f.addrConst n.a with
      | none => s.badOperand f
      | some (g, base) =>
        if !g then .next s.goOn
        else if s.stallsNew r then .next s
        else
          let sz := tyBytes n.ty
          let as := ((s.column n f .i32 1 n.b).filter fun c => !c.2.2).map fun c => wrap (eaOf n base sz c.2.1) 48
          let as := as.filter fun a => a % sz == 0
          s.withXlat f none r.part as fun s x =>
            let ok := as.filter fun a => ((x a).fault s.dev true false a).isNone && !(x a).dev
            .next ((ok.foldl (fun s a =>
              let l := lineOf ((x a).pa a)
              if s.cached l || !s.cacheable l false then s else s.fill (some r.part) l) s).goOn)

/-- XWB and XINV (R236): checked as a store, then one write-back a line. -/
def State.writeBack (s : State) (n : Niw) (inv : Bool) : Out :=
  s.withFiring fun f =>
    let rw := Niw.rwx n
    let eff := f.tmask % 2 ^ f.len
    if f.skipped then .next (((s.countMe (popcount eff f.len)).receiptOnly f rw 3 true).goOn)
    else if eff = 0 then .next ((s.receiptOnly f rw 3 false).goOn)
    else match f.addrConst n.a with
      | none => s.badOperand f
      | some (false, _) => s.badOperand f
      | some (true, base) =>
        let sz := tyBytes n.ty
        let col := (s.column n f .i32 1 n.b).map fun c => (c.1, eaOf n base sz c.2.1, c.2.2)
        let ok := (col.filter fun c => !c.2.2).map fun c => (c.1, c.2.1)
        let sunk := (col.filter fun c => c.2.2).map fun c => (c.1, c.2.1)
        s.checked f true false true sz sz none none ok fun s r x =>
          let lines := (ok.map fun l => lineOf ((x (wrap l.2 48)).pa (wrap l.2 48))).eraseDups
          if s.sinkMustWait f && !sunk.isEmpty then .next (s.stall r.part)
          else if s.heldBack f s.cur.pos 4 3 lines then .next s
          else
            let s := (s.sinkLanes f true sunk).countGroups true ((accessGroups (sz == 8) ok).map (rangesOf 0 sz))
            let g := clusterOf s.cur.pos
            let old := (s.cluster g).wbOf lines
            let s := s.drain g old true
            let o := { opOf s f (.writeBack inv) Ty.n8 with
              scope := 3, receipt := rw, waits := old, rpoison := !sunk.isEmpty,
              todo := lines.map fun l => { line := l, lanes := [] } }
            .next ((s.bumpOp.issue o).settle.goOn)

/-- XWB (R236). -/
def execXwb (n : Niw) (s : State) : Out := s.writeBack n false
/-- XINV (R236). -/
def execXinv (n : Niw) (s : State) : Out := s.writeBack n true

/-! ## SMAP (R237) -/

/-- Spill cells of an ME of a region (R213). -/
def Region.cells (r : Region) : Nat := (spadSize - ceilDiv (r.k * r.n * r.scratch) 256 * 256) / 256

/-- Index of an ME among its cluster's, in the order of the spill map (R213). -/
def meIndex (c : Coord) : Nat := ((clusterMes (clusterOf c)).findIdx? (· == c)).getD 0

/-- Spill cells of an ME that hold a token. -/
def State.cellsUsed (s : State) (r : Region) (c : Coord) : Nat :=
  ((s.cluster (clusterOf c)).spillCells.filter fun x => x / r.cells == meIndex c).length

/-- SMAP (R237). -/
def execSmap (n : Niw) (s : State) : Out :=
  s.withFiring fun f => s.withRegion f fun r =>
    let v := match n.opt.toNat % 4 with
      | 0 => (match (s.ctx s.cur.pos f.ctx).owner with | some o => r.window o | none => 0)
      | 1 => r.scratch
      | 2 => r.cells
      | _ => s.cellsUsed r s.cur.pos
    s.result n false 32 fun f => (f.active n.pred).map fun l => (l, { v := v, psn := false })

end Sys2Proof.Machine
end

