-- ==== Sys2Proof/Machine/HomeInsn.lean ====
section
/-! DEFINITION. The Home Slice instructions (R358 to R367): what an element issues, and what a slice computes. -/

namespace Sys2Proof.Machine

/-! ## At the slice -/

/-- How an atomic rounds: its own RM, or the context's (R62). -/
def State.atomRound (s : State) (o : Op) (n : Niw) : Rounding :=
  { ty := n.ty, rm := n.rm.resolve (s.ctx o.pos o.ctx).drm, sat := n.sat, fz := n.fz, draw := 0 }

/-- The new value of an element and the flags, from its old value and a lane's operands (R361 to R363). -/
def atomStep (r : Rounding) (opc m v c : Nat) : Nat × Nat :=
  let w := r.ty.width
  let i (x : Nat) : Int := asInt r.ty x
  match opc with
  | 0xd0 => ires r.ty r.sat (i m + i v)
  | 0xd1 => r.add m v false
  | 0xd2 => (wrap (min (i m) (i v)) w, 0)
  | 0xd3 => (wrap (max (i m) (i v)) w, 0)
  | 0xd4 => fminmaxn r.ty r.fz false m v
  | 0xd5 => fminmaxn r.ty r.fz true m v
  | 0xd6 => (m &&& v, 0)
  | 0xd7 => (m ||| v, 0)
  | 0xd8 => (m ^^^ v, 0)
  | 0xd9 => (v, 0)
  | _ => (if m = c then v else m, 0)

/-- What an atomic event computes: the line's bytes written, the old values by lane, and the flags. -/
structure AtomOut where
  mem : List Host.Cell
  cells : List Host.Cell := []
  old : List (Nat × Word) := []
  flags : Nat := 0
deriving DecidableEq, Repr

/-- One lane of an atomic event. -/
def atomLane (r : Rounding) (opc : Nat) (args : List (Nat × Nat × Nat)) (a : AtomOut) (l : Nat × Nat) : AtomOut :=
  let m := Memory.value a.mem l.2 (tyBytes r.ty)
  let v := (Table.find args l.1).getD (0, 0)
  let w := atomStep r opc m v.1 v.2
  let bs := toBytes (tyBytes r.ty) w.1
  { mem := Memory.writes a.mem l.2 bs, cells := a.cells ++ cellsAt l.2 bs, old := a.old ++ [(l.1, BitVec.ofNat 64 m)],
    flags := a.flags ||| w.2 }

/-- HINC's event (R364): every active lane's ticket, and one step of the counter. -/
def hincEvent (r : Rounding) (mem : List Host.Cell) (spa st : Nat) (lanes : List Nat) : AtomOut :=
  let x := Memory.value mem spa (tyBytes r.ty)
  let w := ires r.ty r.sat ((x : Int) + (lanes.length * st : Nat))
  { mem := mem, cells := cellsAt spa (toBytes (tyBytes r.ty) w.1), flags := w.2,
    old := lanes.zipIdx.map fun q => (q.1, BitVec.ofNat 64 (wrap ((x : Int) + (q.2 * st : Nat)) r.ty.width)) }

/-- HRED's event (R366): one exact sum and one rounding. -/
def hredEvent (r : Rounding) (mem : List Host.Cell) (spa : Nat) (vs : List (Nat × Nat)) (lanes : List Nat) : AtomOut :=
  let m := Memory.value mem spa (tyBytes r.ty)
  let w := if r.ty.isInt then ires r.ty r.sat (vs.foldl (fun t v => t + asInt r.ty v.2) (asInt r.ty m))
           else (let fs := (m :: vs.map (·.2)).map (r.arg r.ty)
                 r.sumProd fs [] fs)
  { mem := mem, cells := cellsAt spa (toBytes (tyBytes r.ty) w.1), flags := w.2,
    old := lanes.map fun l => (l, BitVec.ofNat 64 m) }

/-- The computation of an atomic event on one line. -/
def State.atomEvent (s : State) (o : Op) (n : Niw) (opc : Nat) (req : LineReq) : AtomOut :=
  let r := s.atomRound o n
  let spa := (req.lanes.headD (0, 0)).2
  let lanes := maskLanes o.mask o.len
  match opc with
  | 0xdb => hincEvent r s.mem spa ((o.args.headD (0, 0, 0)).2.1) lanes
  | 0xdc => hredEvent r s.mem spa (o.args.map fun a => (a.1, a.2.1)) lanes
  | _ => req.lanes.foldl (atomLane r opc o.args) { mem := s.mem }

/-! ## At the element -/

/-- What a Home Slice instruction touches: lanes with an address, their operands, the suppressed lanes, the reply's poison. -/
structure HPlan where
  lanes : List (Nat × Int)
  args : List (Nat × Nat × Nat) := []
  sunk : List (Nat × Int) := []
  psn : Nat := 0

/-- The events of an atomic: one a line, device memory or not (R359). -/
def atomReqs (x : Nat → Xlat) (lanes : List (Nat × Nat)) : List LineReq :=
  let ps := lanes.map fun p => (p.1, (x p.2).pa p.2, (x p.2).dev)
  ((ps.map fun p => lineOf p.2.1).eraseDups).map fun l =>
    let mine := ps.filter fun p => lineOf p.2.1 == l
    { line := l, lanes := mine.map fun p => (p.1, p.2.1), va := firstVa x lanes l, dev := mine.any fun p => p.2.2 }

/-- D's port plus one, 0 for none (R358). -/
def Dst.replyIx : Dst → Nat
  | .o o => o.val + 1
  | _ => 0

/-- A Home Slice instruction (R359): checks, drains, its release set, then its events issued with its reply and receipt
owed. -/
def State.home (s : State) (n : Niw) (kind : OpKind) (plan : State → Firing → Nat → HPlan) : Out :=
  s.withFiring fun f => s.afterHold f <|
    let eff := f.eff n.pred
    let rep := Dst.replyIx n.d
    let rw := Niw.rwx n
    let sc := Niw.scope n
    let c := tokensOf n.ty.isWide f.len
    let none' (s : State) (poison : Nat) (v : Word) (pre : State → State) : Out :=
      if rep = 0 ∧ rw = 0 then .next (pre s).goOn else s.replyOnly f n.ty rep rw sc eff poison v pre
    if f.skipped then none' s eff 0 fun s => s.countMe (popcount eff f.len)
    else match f.patch with
      | some v => none' s 0 (BitVec.ofNat 64 (v.toNat % 2 ^ n.ty.width)) id
      | none =>
        if eff = 0 then none' s 0 0 id
        else match f.addrConst n.a with
          | none => s.badOperand f
          | some (false, _) => s.badOperand f
          | some (true, base) =>
            let p := plan s f base
            let sz := tyBytes n.ty
            let write := match kind with | .hseq => false | _ => true
            s.checked f true true write sz sz none none p.lanes fun s r x =>
              let reqs := atomReqs x (p.lanes.map fun l => (l.1, wrap l.2 48))
              let lines := (reqs.map (·.line)).eraseDups
              let release := bit (Niw.ord n) 1
              if s.sinkMustWait f && !p.sunk.isEmpty then .next (s.stall r.part)
              else if (rep != 0 && !s.canReserve s.cur.pos f.ctx (rep - 1) c) || s.heldBack f s.cur.pos 4 sc lines then .next s
              else match (if release then s.releaseReady f sc else none) with
                | some s => .next s
                | none =>
                  let s := if release then s.released f sc else s
                  let s := if rep = 0 then s else s.reserve s.cur.pos f.ctx (rep - 1) c
                  let s := s.sinkLanes f true p.sunk
                  let g := clusterOf s.cur.pos
                  let old := (s.cluster g).wbOf lines
                  let s := s.drain g old (sc == 3)
                  let s := s.countGroups true ((accessGroups (sz == 8) p.lanes).map (rangesOf 0 sz))
                  let o := { opOf s f kind n.ty with
                    mask := eff, poison := p.psn, scope := sc, reply := rep, receipt := rw, niw := some n, acq := bit (Niw.ord n) 0, todo := reqs,
                    waits := old, args := p.args, rpoison := !p.sunk.isEmpty }
                  .next ((s.bumpOp.issue o).issued f (bit (Niw.ord n) 0) o.id).settle

/-- The plan of an atomic that acts lane by lane: index B, value C, and HCAS's compare from the next port (R359, R360,
R363). -/
def State.lanePlan (n : Niw) (cas : Bool) (s : State) (f : Firing) (base : Nat) : HPlan :=
  let col := (f.active n.pred).map fun l =>
    let b := s.readSel s.cur.pos f n .i32 1 n.b l
    let v := s.readSel s.cur.pos f n n.ty 2 n.c l
    let c := if cas then s.readPort f n.ty 3 (Sel.portIx n.c + 1) l else (0, false)
    (l, eaOf n base (tyBytes n.ty) b.1, v.1, c.1, b.2 || v.2 || c.2)
  let ok := col.filter fun c => !c.2.2.2.2
  let bad := col.filter fun c => c.2.2.2.2
  { lanes := ok.map fun c => (c.1, c.2.1), args := ok.map fun c => (c.1, c.2.2.1, c.2.2.2.1),
    sunk := bad.map fun c => (c.1, c.2.1), psn := maskOf f.len fun l => bad.any fun c => c.1 == l }

/-- The plan of an instruction that acts on the element of lane a alone (R364, R366): the whole instruction is suppressed
when a's index is poisoned; `each` reads C in every active lane. -/
def State.onePlan (n : Niw) (each : Bool) (s : State) (f : Firing) (base : Nat) : HPlan :=
  let lanes := f.active n.pred
  let a := lanes.headD 0
  let b := s.readSel s.cur.pos f n .i32 1 n.b a
  let ea := eaOf n base (tyBytes n.ty) b.1
  let cs := (if each then lanes else [a]).map fun l => (l, s.readSel s.cur.pos f n n.ty 2 n.c l)
  let all := b.2 || (!each && cs.any fun c => c.2.2)
  let bad := (cs.filter fun c => c.2.2).map (·.1)
  if all then { lanes := [], sunk := lanes.map fun l => (l, ea), psn := f.eff n.pred }
  else { lanes := [(a, ea)], args := (cs.filter fun c => !c.2.2).map fun c => (c.1, c.2.1, 0),
         sunk := bad.map fun l => (l, ea), psn := maskOf f.len bad.contains }

/-- HADD (R361). -/
def execHadd (n : Niw) (s : State) : Out := s.home n (.atomic 0xd0) (State.lanePlan n false)
/-- HFADD (R362). -/
def execHfadd (n : Niw) (s : State) : Out := s.home n (.atomic 0xd1) (State.lanePlan n false)
/-- HMIN (R361). -/
def execHmin (n : Niw) (s : State) : Out := s.home n (.atomic 0xd2) (State.lanePlan n false)
/-- HMAX (R361). -/
def execHmax (n : Niw) (s : State) : Out := s.home n (.atomic 0xd3) (State.lanePlan n false)
/-- HFMIN (R362). -/
def execHfmin (n : Niw) (s : State) : Out := s.home n (.atomic 0xd4) (State.lanePlan n false)
/-- HFMAX (R362). -/
def execHfmax (n : Niw) (s : State) : Out := s.home n (.atomic 0xd5) (State.lanePlan n false)
/-- HAND (R361). -/
def execHand (n : Niw) (s : State) : Out := s.home n (.atomic 0xd6) (State.lanePlan n false)
/-- HOR (R361). -/
def execHor (n : Niw) (s : State) : Out := s.home n (.atomic 0xd7) (State.lanePlan n false)
/-- HXOR (R361). -/
def execHxor (n : Niw) (s : State) : Out := s.home n (.atomic 0xd8) (State.lanePlan n false)
/-- HXCHG (R363). -/
def execHxchg (n : Niw) (s : State) : Out := s.home n (.atomic 0xd9) (State.lanePlan n false)
/-- HCAS (R363). -/
def execHcas (n : Niw) (s : State) : Out := s.home n (.atomic 0xda) (State.lanePlan n true)
/-- HINC (R364). -/
def execHinc (n : Niw) (s : State) : Out := s.home n (.atomic 0xdb) (State.onePlan n false)
/-- HRED (R366). -/
def execHred (n : Niw) (s : State) : Out := s.home n (.atomic 0xdc) (State.onePlan n true)

/-- HSEQ (R367): one read event a line; it needs read permission only. -/
def execHseq (n : Niw) (s : State) : Out :=
  s.home n .hseq fun s f base =>
    let col := (s.column n f .i32 1 n.b).map fun c => (c.1, eaOf n base 4 c.2.1, c.2.2)
    let bad := col.filter fun c => c.2.2
    { lanes := (col.filter fun c => !c.2.2).map fun c => (c.1, c.2.1), sunk := bad.map fun c => (c.1, c.2.1),
      psn := maskOf f.len fun l => bad.any fun c => c.1 == l }

end Sys2Proof.Machine
end

