-- ==== Sys2Proof/Machine/Check.lean ====
section
/-! DEFINITION. The checks of a node instruction word at a node: R53, R57 to R65 by `Fetched.wf`, and what the node's kind
accepts (R52, R220, R255, R393). CFG makes them, and the node repeats them on the words it fetches (R82). -/

namespace Sys2Proof.Machine

/-- The opcodes that a node kind accepts in a firing sequence (R52). -/
def opcodeAt (k : NodeKind) (opc : Nat) : Bool :=
  let within (lo hi : Nat) : Bool := decide (lo ≤ opc ∧ opc ≤ hi)
  match k with
  | .ce => within 0 0x5f || within 0x80 0x8f || within 0xf8 0xff
  | .me => within 0x80 0xaf || within 0xd0 0xdf || within 0xf8 0xff
  | .nu => within 0x60 0x7f
  | .mn => within 0xc0 0xcf
  | .cp => within 0xb0 0xbf
  | .till => within 0xe0 0xe7
  | .link => within 0xe8 0xef
  | .reserved => false

/-- A selector names no temporary and no mask register. -/
def Sel.plain : Sel → Bool
  | .t _ | .m _ => false
  | _ => true

/-- A Memory Element has no temporaries and no mask registers (R220). -/
def Niw.plain (n : Niw) : Bool :=
  Sel.plain n.a && Sel.plain n.b && Sel.plain n.c && decide (n.pred = .token) &&
    match n.d with
    | .t _ | .m _ => false
    | _ => true

/-- A word passes the checks of a node of a kind (R53, R82). A Memory Element, a Till and a link node have no temporaries
and no mask registers (R220, R393, R407). -/
def wordOkFor (k : NodeKind) (w : Word) : Bool :=
  opcodeAt k (w.toNat / 2 ^ 56) &&
    match decode { src := .node, words := [w] } with
    | .ok f => f.wf && (!(k == .me || k == .till || k == .link) || match f.instr.niw with | some n => Niw.plain n | none => true)
    | .error _ => false

/-- A word passes the checks of the node (R53, R82). -/
def wordOk (pos : Coord) (w : Word) : Bool := wordOkFor (kindOf pos) w

/-- An instruction of a sequence: its opcode and fields. -/
def insnOf (w : Word) : Option (Nat × Niw) :=
  match decode { src := .node, words := [w] } with
  | .ok f => f.instr.opcode
  | .error _ => none

/-- The output ports that an instruction names in D; STEER writes the next one too (R161). -/
def outsOf (opc : Nat) (n : Niw) : List Nat :=
  match n.d with
  | .o k => if opc = 0x87 then [k.val, k.val + 1] else [k.val]
  | _ => []

/-- The output ports that an instruction names in D are all marked in OUTM (R67). -/
def Ctx.marksOut (x : Ctx) (w : Word) : Bool :=
  match insnOf w with
  | some (opc, n) => (outsOf opc n).all x.outm
  | none => true

/-- The port that BEAT arms has its REQ bit (R467). -/
def Ctx.beatOk (x : Ctx) (w : Word) : Bool :=
  match insnOf w with
  | some (0xfe, n) => match n.a with | .p p => x.req p.val | _ => true
  | _ => true

/-- DRM holds no reserved code (R67, R83). -/
def Ctx.drmOk (x : Ctx) : Bool := decide (x.drm < 6)

/-- A word passes, at the node that fetched it, the checks that CFG applied to it under R53 and R57 to R67 (R82, R83), and BEAT's own
(R467). -/
def Ctx.passes (x : Ctx) (pos : Coord) (w : Word) : Bool := wordOk pos w && x.marksOut w && x.beatOk w && x.drmOk

/-- The index of the first word of a firing that fails its check. -/
def Ctx.firstBad (x : Ctx) (pos : Coord) (ws : List Word) : Option Nat := ws.findIdx? fun w => !x.passes pos w

end Sys2Proof.Machine
end

