-- ==== Sys2Proof/Machine/TokenEvents.lean ====
section
/-! DEFINITION. The events of the Token Engine: tokens accepted, markers passed, tokens moved between the places where they
wait, firings that enter slots, tokens that leave, counter sources, and the Mint (R132 to R147, R169, R173 to R175,
R256). -/

namespace Sys2Proof.Machine

/-- The operands of the event that the step executes. -/
def State.withEv (s : State) (k : Ev → Out) : Out :=
  match s.cur.arg with
  | .ev e => k e
  | _ => .next s

/-! ## Accepting -/

/-- The token at a place of the token network, when it is the first of its edge (R35) and its store, or the Sequencer's port, has
taken none in this cycle (R112, R132). -/
def State.arriving (s : State) (i : Nat) : Option Wire :=
  match s.wire[i]? with
  | none => none
  | some w =>
    let last :=
      if isSeqPort w.tok.dst w.tok.port then (s.region w.region).bind fun r => r.lastTok else (s.store (storeOf w.tok.dst)).lastAcc
    if last = some s.cyc ∨ (s.wire.take i).any fun v =>
        decide (v.tok.dst = w.tok.dst ∧ v.tok.ctx = w.tok.ctx ∧ v.tok.port = w.tok.port)
    then none else some w

/-- A node takes a token: the block is armed, a standing drained strobe is followed by reopen, TAKEN grows, and a beat counter
on the port starts again (R117, R118, R473). -/
def State.tookToken (s : State) (pos : Coord) (k port : Nat) : State :=
  match (s.ctx pos k).owner with
  | none => s
  | some o =>
    let node := s.node pos
    let mine (x : Ctx) : Bool := match x.owner with | some p => p.region == o.region && p.blk == o.blk | none => false
    let reopen := node.ctxs.any fun x => mine x && x.drained
    let s := if reopen then s.sendStrobe (.node pos) (.anchor o.region) o.region 5 [(42, 0), (6, o.blk)] else s
    let s := s.count pos (o.region, o.blk) 0 1
    let s := s.modNode pos fun n => { n with ctxs := n.ctxs.map fun x => if mine x then { x with drained := false } else x }
    s.modCtx pos k fun x =>
      { x with armed := true,
               beat := if x.beat.arm && x.beat.port == port && x.beat.left != 0 then { x.beat with left := 2 ^ x.beat.k } else x.beat }

/-- The token leaves the network and gets its arrival number. -/
def State.landed (s : State) (i : Nat) (w : Wire) : State × Piece :=
  let st := storeOf w.tok.dst
  let g := clusterOf w.tok.dst
  let arr := (s.cluster g).nextArr
  let s := (({ s with wire := dropNth s.wire i } : State).modCluster g fun c => { c with nextArr := arr + 1 }).modStore st fun t =>
    { t with lastAcc := some s.cyc }
  (s.tookToken w.tok.dst w.tok.ctx w.tok.port, { tok := w.tok, arr := arr, buf := if w.credit then .chit else .shared arr })

/-- Two tokens carry the same tag and edge end (R37, R39). -/
def sameTag (a b : Token) : Bool :=
  decide (a.dst = b.dst ∧ a.ctx = b.ctx ∧ a.port = b.port ∧ a.frame = b.frame ∧ a.iter = b.iter ∧ a.len = b.len)

/-- The A scale latch of a Matrix Node's context, as a value token of `len` lanes carries it away (R306). -/
def State.latchOf (s : State) (pos : Coord) (k len : Nat) : List Nat :=
  List.replicate len ((s.matrices.get {} pos).latch.getD k 0)

/-- A value piece with the scales of a scale token (R256). DESIGN CHOICE (log 97): a lane that is inactive in the scale token's mask
takes 127, as one without a scale does; R256 does not say what it carries. -/
def Piece.scaledBy (p : Piece) (t : Token) : Piece :=
  { p with tok := { p.tok with scales :=
      (List.range p.tok.len).map fun l => if bit t.mask l then (t.lanes.getD l 0).toNat % 256 else 127 } }

/-- A scale token stays in its Chit for want of a shared buffer, with a value token's tag (R141, R256). -/
def heldScaleFor (t : Token) (q : Piece) : Bool := q.tok.kind == .scale && sameTag q.tok t

/-- Scale tokens that stay in their Chits for a value token end: their Chits return and they leave TCNT (log 97). -/
def State.endHeldScales (s : State) (t : Token) : State :=
  let st := storeOf t.dst
  ((s.store st).held.filter (heldScaleFor t)).foldl
    (fun s q => (s.leaveBuf q.tok.dst q.tok.ctx q.tok.port q.arr q.buf).tcntSub (s.regionOf t.dst t.ctx) q.tok.frame 1)
    (s.modStore st fun x => { x with held := x.held.filter fun q => !heldScaleFor t q })

/-- The scale tokens that wait for a value token, in a shared buffer or in their Chits, as arrival number and token. -/
def State.scalesFor (s : State) (t : Token) : List (Nat × Token) :=
  let x := s.store (storeOf t.dst)
  ((x.scales.filter fun h => h.into.isNone && sameTag h.tok t).map fun h => (h.arr, h.tok)) ++
    (x.held.filter (heldScaleFor t)).map fun q => (q.arr, q.tok)

/-- A value token takes the scales that wait for it on its port, those of the latest scale token of its tag, the others of which end
(R256); or a Matrix Node's latch (R306). One that took them before it was withdrawn has them. -/
def State.attach (s : State) (p : Piece) : State × Piece :=
  if p.tok.kind ≠ .value ∨ p.tok.scales ≠ [] then (s, p)
  else if kindOf p.tok.dst = .mn then (s, { p with tok := { p.tok with scales := s.latchOf p.tok.dst p.tok.ctx p.tok.len } })
  else
    match (sortBy (fun a b => decide (a.1 ≤ b.1)) (s.scalesFor p.tok)).getLast? with
    | none => (s, p)
    | some (arr, t) =>
      let st := storeOf p.tok.dst
      let s := s.endHeldScales p.tok
      let waits (h : HeldScale) : Bool := h.into.isNone && sameTag h.tok p.tok
      let last (h : HeldScale) : Bool := h.arr == arr
      let old := ((s.store st).scales.filter fun h => waits h && !last h).length
      let s := s.modStore st fun x => { x with scales :=
        (x.scales.filter fun h => !waits h || last h).map fun h => if waits h then { h with into := some p.arr } else h }
      let s := if old = 0 then s
        else (s.modCluster (clusterOf p.tok.dst) fun c => { c with shared := c.shared - old }).tcntSub
          (s.regionOf p.tok.dst p.tok.ctx) p.tok.frame old
      (s, p.scaledBy t)

/-- A scale token goes into a Matrix Node's A scale latch, and ends (R306). DESIGN CHOICE (log 99): a lane that is inactive in its mask, or
that its run does not have, leaves its byte of the latch as it stands; R306 names no mask. -/
def State.latchScale (s : State) (region : Nat) (t : Token) : State :=
  let m := s.matrices.get {} t.dst
  let v := [0, 1, 2, 3].foldl (fun v l =>
    if bit t.mask l then setBits v (8 * l) 8 (t.lanes.getD l 0).toNat else v) (m.latch.getD t.ctx 0)
  ({ s with matrices := s.matrices.set t.dst { m with latch := setNth m.latch t.ctx v } } : State).tcntSub region t.frame 1

/-- A scale token is held at its port in a shared buffer, in place of an earlier one of its tag, which ends (R256), or goes into
a Matrix Node's latch (R306); none when no shared buffer is free. -/
def State.holdScale (s : State) (region : Nat) (p : Piece) : Option State :=
  let st := storeOf p.tok.dst
  let h : HeldScale := { tok := p.tok, arr := p.arr }
  if kindOf p.tok.dst = .mn then some (s.latchScale region p.tok)
  else match (s.store st).scales.findIdx? fun h => h.into.isNone && sameTag h.tok p.tok with
    | some i =>
      let later := decide (((s.store st).scales.getD i h).arr ≤ p.arr)
      some ((if later then s.modStore st fun t => { t with scales := setNth t.scales i h } else s).tcntSub region p.tok.frame 1)
    | none =>
      if s.sharedFree p.tok.dst then
        some ((s.modStore st fun t => { t with scales := t.scales ++ [h] }).modCluster (clusterOf p.tok.dst) fun x =>
          { x with shared := x.shared + 1 })
      else none

/-- A token goes to work at its store: a marker waits for its turn (R138); a scale token is held at its port, or stays where it
is while no shared buffer is free (R141, R256); a value or receipt token is matched (R133 to R135). -/
def State.takeIn (s : State) (region : Nat) (p : Piece) : State :=
  let st := storeOf p.tok.dst
  match p.tok.kind with
  | .marker => s.place region st p
  | .scale =>
    match s.holdScale region p with
    | some s => s.leaveBuf p.tok.dst p.tok.ctx p.tok.port p.arr p.buf
    | none => s.modStore st fun t => { t with held := t.held ++ [p] }
  | _ =>
    let (s, p) := s.attach p
    s.arrive region st p

/-- An accepted token is withdrawn, kept for after a cut, or goes to work; an edge that it leaves without a free Chit is relieved
(R134, R140, R444, R461). -/
def State.acceptPiece (s : State) (region : Nat) (p : Piece) : State :=
  let st := storeOf p.tok.dst
  if s.parkSeen (clusterOf p.tok.dst) region p.tok.frame then s.withdraw region st p
  else if s.cutAt p.tok.dst p.tok.ctx then s.modStore st fun t => { t with pend := t.pend ++ [p] }
  else (s.takeIn region p).relieve region p.tok.dst p.tok.ctx p.tok.port

/-- The store of a token's destination accepts nothing: its overflow register is occupied (R141). In a cut the tokens under way
land all the same (R461). -/
def State.storeShut (s : State) (t : Token) : Bool := !(s.store (storeOf t.dst)).overflow.isEmpty && !s.cutAt t.dst t.ctx

/-- TOKEN_ACCEPT (R132 to R135). Operand i: the token's place in the network. The store accepts nothing while its overflow
register is occupied (R141). -/
def execEvTokenAccept (s : State) : Out :=
  s.withEv fun e =>
    match s.arriving e.i.toNat with
    | none => .next s
    | some w =>
      if w.tok.kind = .marker ∨ w.tok.kind = .scale ∨ isSeqPort w.tok.dst w.tok.port = true ∨ s.storeShut w.tok then .next s
      else
        let (s, p) := s.landed e.i.toNat w
        .next (s.acceptPiece w.region p)

/-- MARKER_ARRIVAL (R138): the marker waits in a store entry. Operand i: its place in the network. -/
def execEvMarkerArrival (s : State) : Out :=
  s.withEv fun e =>
    match s.arriving e.i.toNat with
    | none => .next s
    | some w =>
      if w.tok.kind ≠ .marker ∨ isSeqPort w.tok.dst w.tok.port = true ∨ s.storeShut w.tok then .next s
      else
        let (s, p) := s.landed e.i.toNat w
        .next (s.acceptPiece w.region p)

/-- SCALE_TOKEN_ARRIVAL (R256, R306): the scale token moves to a shared buffer and is held for its value token; a Matrix Node
consumes it into the context's A scale latch. It waits while no shared buffer is free. Operand i: its place. -/
def execEvScaleTokenArrival (s : State) : Out :=
  s.withEv fun e =>
    match s.arriving e.i.toNat with
    | none => .next s
    | some w =>
      let aside := s.parkSeen (clusterOf w.tok.dst) w.region w.tok.frame || s.cutAt w.tok.dst w.tok.ctx
      let (s', p) := s.landed e.i.toNat w
      if w.tok.kind ≠ .scale ∨ isSeqPort w.tok.dst w.tok.port = true ∨ s.storeShut w.tok then .next s
      else if !aside && (s'.holdScale w.region p).isNone then .next s
      else .next (s'.acceptPiece w.region p)

/-- SEQ_TOKEN_ACCEPT (R111, R112): the Sequencer takes a token on port P3. Operand i: its place in the network. -/
def execEvSeqTokenAccept (s : State) : Out :=
  s.withEv fun e =>
    match s.arriving e.i.toNat with
    | none => .next s
    | some w =>
      if isSeqPort w.tok.dst w.tok.port then
        let s : State := { s with wire := dropNth s.wire e.i.toNat }
        .next ((s.modRegion w.region fun r => { r with tokc := (r.tokc + 1) % 2 ^ 32, lastTok := some s.cyc }).tcntSub w.region
          w.tok.frame 1)
      else .next s

/-! ## Markers -/

/-- The pieces that wait at a port of a node for one frame, wherever they lie. -/
def State.waiting (s : State) (pos : Coord) (k port frame : Nat) : List Piece :=
  let st := storeOf pos
  let t := s.store st
  let g := s.cluster (clusterOf pos)
  let here (l : List Stashed) : List Piece := (l.filter fun v => v.store == st).map (·.piece)
  let out := (g.withdrawn.filter fun v => v.store == st).map (·.piece)
  (t.entries ++ t.overflow ++ t.held ++ t.pend ++ here g.vault ++ here g.spill ++ out).filter fun p =>
    decide (p.tok.dst = pos ∧ p.tok.ctx = k ∧ p.tok.port = port ∧ p.tok.frame = frame)

/-- The marker that waits first at a port, in a place that the node searches: its store, its Chits or the Vault (R138, R142). -/
def State.markerAt (s : State) (pos : Coord) (k port frame : Nat) : Option Piece :=
  let t := s.store (storeOf pos)
  let vault := ((s.cluster (clusterOf pos)).vault.filter fun v => v.store == storeOf pos).map (·.piece)
  let ms := (t.entries ++ t.overflow ++ t.held ++ vault).filter fun p =>
    decide (p.tok.kind = .marker ∧ p.tok.dst = pos ∧ p.tok.ctx = k ∧ p.tok.port = port ∧ p.tok.frame = frame)
  (sortBy (fun a b => decide (a.arr ≤ b.arr)) ms).head?

/-- A scale token of the frame that arrived at the port before `arr` waits there. -/
def State.scaleWaits (s : State) (pos : Coord) (k port frame arr : Nat) : Bool :=
  (s.store (storeOf pos)).scales.any fun h =>
    h.into.isNone && decide (h.tok.dst = pos ∧ h.tok.ctx = k ∧ h.tok.port = port ∧ h.tok.frame = frame ∧ h.arr < arr)

/-- A firing of the context and frame is admitted, in a slot or parked as an image (R175). -/
def State.firingOf (s : State) (pos : Coord) (k frame : Nat) : Bool :=
  let n := s.node pos
  let mine (f : Firing) : Bool := decide (f.ctx = k ∧ f.frame = frame)
  n.admitted.any mine || (n.slots.any fun o => match o with | some f => mine f | none => false) ||
    s.images.any fun im => im.pos == pos && mine im.firing

/-- The reply words that loads of a context's sequence name (R223). -/
def Ctx.loadWords (x : Ctx) : List Nat :=
  ((x.sequence.filter fun w => let o := w.toNat / 2 ^ 56; decide (0x90 ≤ o ∧ o ≤ 0x96)).map fun w =>
    bits w.toNat 16 3).eraseDups

/-- MARKER_PASS (R138, R175, R223); the context keeps the FLAGS, for a sink's receipts (R42, log 74). The event's node; operand i: the context; j: the frame. -/
def execEvMarkerPass (s : State) : Out :=
  s.withEv fun e =>
    let pos := e.pos
    let k := e.i.toNat
    let frame := e.j.toNat
    let x := s.ctx pos k
    let region := s.regionOf pos k
    let ports := x.reqPorts
    let ms := ports.map fun p => s.markerAt pos k p frame
    let earlier (p : Nat) (m : Piece) : Bool :=
      s.scaleWaits pos k p frame m.arr || (s.waiting pos k p frame).any fun q => decide (q.arr < m.arr ∧ q.tok.kind ≠ .marker)
    let replies := if kindOf pos = .me then x.loadWords else []
    let owes := s.ops.any fun o => decide (o.pos = pos ∧ o.ctx = k ∧ o.frame = frame) &&
      (o.reply != 0 || replies.contains o.receipt)
    match ms.filterMap id with
    | [] => .next s
    | lead :: rest =>
      let all := lead :: rest
      if all.length ≠ ports.length ∨ ((ports.zip all).any fun q => earlier q.1 q.2) ∨ s.firingOf pos k frame ∨ owes ∨
          (s.matrix pos).sends k frame ∨ s.cutAt pos k ∨ ¬ s.roomMany pos k (x.outPorts.map fun o => (o, 1)) then .next s
      else
        let slot0 (p : Piece) : Nat := (p.tok.lanes.getD 0 0).toNat
        let flags := all.foldl (fun f p => f ||| bits (slot0 p) 18 7) x.sf
        let psn := all.any fun p => bit p.tok.poison 0
        let t := markerTok frame lead.tok.iter lead.tok.aux flags psn
        let s := x.outPorts.foldl (fun s o => s.enqueue pos k o false false t) s
        let s := replies.foldl (fun s w => s.enqueue pos k w true false t) s
        let s := s.modCtx pos k fun x => { x with mflags := x.mflags ||| flags }
        .next (all.foldl (fun s p =>
          ((s.take (storeOf pos) p).leaveBuf pos k p.tok.port p.arr p.buf).tcntSub region frame 1) s)

/-! ## Tokens on the way back (R141, R142) -/

/-- VAULT_RETURN (R142). Operand i: the cluster; j: the token's place in its Vault. -/
def execEvVaultReturn (s : State) : Out :=
  s.withEv fun e =>
    let g := e.i.toNat
    let cl := s.cluster g
    match cl.vault[e.j.toNat]? with
    | none => .next s
    | some v =>
      let same (w : Stashed) : Bool := decide (w.store = v.store ∧ w.piece.tok.dst = v.piece.tok.dst ∧
        w.piece.tok.ctx = v.piece.tok.ctx ∧ w.piece.tok.port = v.piece.tok.port ∧ w.piece.arr < v.piece.arr)
      if storeSize v.store ≤ (s.store v.store).entries.length ∨ ¬ s.sharedFree v.piece.tok.dst ∨ cl.vault.any same ∨
          cl.spill.any same then .next s
      else .next ((s.modCluster g fun c => { c with vault := dropNth c.vault e.j.toNat }).intoShared v.store v.piece)

/-- SPILL_RETURN (R142): a token of the spill map returns to a Vault slot; it is matched on the way, since nothing searched it
where it lay (log 7), and what finds no partner stays in the slot. Operand i: the cluster; j: the token's place in its spill map. -/
def execEvSpillReturn (s : State) : Out :=
  s.withEv fun e =>
    let g := e.i.toNat
    let cl := s.cluster g
    match cl.spill[e.j.toNat]? with
    | none => .next s
    | some v =>
      let p := v.piece
      let same (w : Stashed) : Bool := decide (w.store = v.store ∧ w.piece.tok.dst = p.tok.dst ∧
        w.piece.tok.ctx = p.tok.ctx ∧ w.piece.tok.port = p.tok.port ∧ w.piece.arr < p.arr)
      let region := s.regionOf p.tok.dst p.tok.ctx
      if vaultMax ≤ cl.vault.length ∨ cl.spill.any same then .next s
      else
        let s := s.modCluster g fun c => { c with spill := dropNth c.spill e.j.toNat }
        if p.tok.kind = .marker ∨ s.cutAt p.tok.dst p.tok.ctx then
          .next (s.modCluster g fun c => { c with vault := c.vault ++ [{ v with piece := { p with buf := .vault } }] })
        else .next (s.arrive region v.store { p with buf := .vault })

/-- OVERFLOW_DRAIN (R140, R141): the overflow register's oldest piece leaves for the first place with room; with the register
empty, the oldest token that stayed in its Chit does, matched as it comes; with none of those, an edge that has no free Chit gives
one of its waiting tokens to the Vault or the spill map, where room may have come since. The event's node names the store. -/
def execEvOverflowDrain (s : State) : Out :=
  s.withEv fun e =>
    let st := storeOf e.pos
    let t := s.store st
    let room (s : State) : Bool := decide ((s.store st).entries.length < storeSize st)
    match t.overflow, t.held with
    | p :: rest, _ =>
      let s' := s.modStore st fun t => { t with overflow := rest }
      if room s ∧ s.sharedFree p.tok.dst then
        .next ((s'.intoShared st p).leaveBuf p.tok.dst p.tok.ctx p.tok.port p.arr p.buf)
      else match s'.stash (s.regionOf p.tok.dst p.tok.ctx) st false p with
        | some s'' => .next s''
        | none => .next s
    | [], p :: rest =>
      let region := s.regionOf p.tok.dst p.tok.ctx
      let s' := s.modStore st fun t => { t with held := rest }
      if s.cutAt p.tok.dst p.tok.ctx then .next s
      else match p.tok.kind with
        | .scale => .next (if s.sharedFree p.tok.dst then s'.takeIn region p else s)
        | k =>
          if room s then .next (if k = .marker then s'.place region st p else s'.arrive region st p)
          else match s'.stash region st false p with
            | some s'' => .next s''
            | none => .next s
    | [], [] =>
      let full (p : Piece) : Bool := p.buf == .chit &&
        (let x := s.ctx p.tok.dst p.tok.ctx
         decide (x.dep p.tok.port ≤ x.used.getD p.tok.port 0))
      match t.entries.find? full with
      | some p => .next (s.relieve (s.regionOf p.tok.dst p.tok.ctx) p.tok.dst p.tok.ctx p.tok.port)
      | none => .next s

/-! ## Firing slots (R48, R173, R222) -/

/-- The oldest frame of a list (R146). -/
def State.oldest (s : State) (region : Nat) (fs : List Nat) : Option Nat :=
  fs.foldl (fun acc f => match acc with
    | none => some f
    | some g => if olderAge (s.frame region f).age (s.frame region g).age then some f else some g) none

/-- A node whose last free slot goes to the oldest frame: a CE, an ME and a Numeric Unit (R141, R173, R222). -/
def keepsLast (pos : Coord) : Bool :=
  match kindOf pos with
  | .ce | .me | .nu => true
  | _ => false

/-- The firings, each with its number, of the oldest frame among them. Frames are compared within their region: the contexts of one
link node may belong to several (R406). -/
def State.oldestOf (s : State) (l : List (Firing × Nat)) : List (Firing × Nat) :=
  match l with
  | [] => []
  | (g, _) :: _ =>
    match s.oldest g.region (l.map fun a => a.1.frame) with
    | some f => l.filter fun a => a.1.frame == f
    | none => []

/-- The firing that R48 chooses among several of a node, by its number; the round of the contexts starts after `after`. -/
def State.arbitrate (s : State) (pos : Coord) (after : Nat) (pool : List (Firing × Nat)) : Option Nat :=
  let urgent (f : Firing) : Bool :=
    match s.region f.region, (s.ctx pos f.ctx).owner with
    | some r, some o => s.urgent r o.blk
    | _, _ => false
  let pool := let u := pool.filter fun a => urgent a.1; if u.isEmpty then pool else u
  match ((List.range 8).map fun i => (after + 1 + i) % 8).find? fun k => pool.any fun a => a.1.ctx == k with
  | none => none
  | some k =>
    (sortBy (fun a b => decide (a.1.iter ≤ b.1.iter)) (s.oldestOf (pool.filter fun a => a.1.ctx == k))).head?.map (·.2)

/-- The admitted firing that R48 chooses, by its place among the admitted ones; `last` says that one slot is free. -/
def State.chooseFiring (s : State) (pos : Coord) (last : Bool) : Option Nat :=
  let n := s.node pos
  let all := n.admitted.zipIdx.filter fun a => !s.cutAt pos a.1.ctx
  s.arbitrate pos n.lastCtx (if last && keepsLast pos then s.oldestOf all else all)

/-- The free slots of a node. -/
def State.freeSlots (s : State) (pos : Coord) : List Nat :=
  (List.range (slotCount pos)).filter fun i => ((s.node pos).slot i).isNone

/-- The slot in which an image's firing waits. -/
def State.slotOf (s : State) (im : Image) : Option Nat :=
  (s.node im.pos).slots.findIdx? fun x => match x with
    | some f => f.held && f.region == im.region && f.ctx == im.firing.ctx && f.frame == im.firing.frame && f.iter == im.firing.iter
    | none => false

/-- A firing whose word check fails goes back: its inputs return to the store as withdrawn pieces, and the frame is parked
with ILLEGAL_INSN (R82, R445). A counter source's firing has no inputs, and becomes an image. -/
def State.refuseFiring (s : State) (pos : Coord) (i : Nat) (f : Firing) (bad : Nat) : State :=
  match s.region f.region with
  | none => s
  | some r =>
    if !s.canPost r.part then s.waitParked r f.frame
    else
      let info := { s.infoOf pos { f with ix := bad } Cause.illegalInsn 0 with parked := true }
      let recno := (s.partOf r.part).recno
      let s := s.postFor r .firing info
      let s := s.modNode pos fun n => { n with admitted := dropNth n.admitted i }
      let s := if f.ports.isEmpty then
          { s with images := s.images ++ [{ region := r.id, pos := pos, firing := { f with held := true }, recno := some recno,
                                            cell := none }] }
        else s.giveBack pos f
      s.parkFrame r f.frame

/-- A firing or an answered image enters a free slot of the event's node (R82, R173, R451). -/
def State.slotEntry (s : State) : Out :=
  s.withEv fun e =>
    let pos := e.pos
    let free := s.freeSlots pos
    match free with
    | [] => .next s
    | slot :: more =>
      let ready (im : Image) : Bool := im.ready && (s.slotOf im).isNone && im.pos == pos && !(s.frame im.region im.firing.frame).parked
      match s.images.zipIdx.find? fun x => ready x.1 with
      | some (im, i) =>
        if s.cutAt pos im.firing.ctx then .next s
        else .next ((({ s with images := dropNth s.images i } : State).imageAccess im.region false im.cell).reenter pos slot im.firing)
      | none =>
        match s.chooseFiring pos more.isEmpty with
        | none => .next s
        | some i =>
          match (s.node pos).admitted[i]? with
          | none => .next s
          | some f =>
            if s.cutAt pos f.ctx then .next s
            else
              match (if f.skipAll then none else (s.ctx pos f.ctx).firstBad pos f.words) with
              | some b => .next (s.refuseFiring pos i f b)
              | none =>
                .next ((s.modNode pos fun n =>
                  { n with admitted := dropNth n.admitted i, lastCtx := f.ctx }).reenter pos slot f)

/-! ## Departure (R70, R140, R174) -/

/-- TOKEN_DEPART (R140, R174): a copy of a queued token leaves for one target. The event's node; operand i: the token's
place in the queue; j: the multicast bit. Tokens of one edge leave in the order in which they entered. -/
def execEvTokenDepart (s : State) : Out :=
  s.withEv fun e =>
    let pos := e.pos
    let j := e.j.toNat
    let n := s.node pos
    match n.outq[e.i.toNat]? with
    | none => .next s
    | some o =>
      let blocked := (n.outq.take e.i.toNat).any fun p => p.ctx == o.ctx && p.rw == o.rw && p.todo.contains j
      if blocked || !o.todo.contains j || s.noticedAt pos o.ctx || !s.mayDepart pos o j then .next s
      else
        let todo := o.todo.filter (· != j)
        let s := s.depart pos o j
        .next (s.modNode pos fun n =>
          if todo.isEmpty then { n with outq := dropNth n.outq e.i.toNat }
          else { n with outq := setNth n.outq e.i.toNat { o with todo := todo } })

/-! ## Counter sources (R136) -/

/-- A source of a counter has yet to get its start strobe (R107). -/
def State.starting (s : State) (r : Region) (ic : Nat) : Bool :=
  s.strobes.any fun m => m.region == r.id && bits m.word.toNat 48 4 == 0 && bits m.word.toNat 46 2 == ic

/-- COUNT of a counter: the iterations that every one of its sources has emitted (R103). A source that has finished has
emitted them all; one that has not started, none. -/
def State.countIter (s : State) (r : Region) (ic : Nat) : State :=
  let nexts := r.nodes.flatMap fun c => (s.node c).ctxs.filterMap fun x =>
    if x.ownedBy r.id then x.source.bind fun q => if q.ic = ic then some q.next else none else none
  s.modRegion r.id fun r =>
    { r with ics := setNth r.ics ic (let i := r.ics.getD ic {}; { i with count := if s.starting r ic then 0 else nexts.foldl min i.limit }) }

/-- COUNTER_SOURCE_RUN (R136): the source admits its next run; after the last, with its firings done, it sends its markers
and the finish strobe. The event's node; operand i: the context. It waits while its frame is parked (R446), in a cut, and
while a budget stalls the partition (R49). -/
def execEvCounterSourceRun (s : State) : Out :=
  s.withEv fun e =>
    let pos := e.pos
    let k := e.i.toNat
    let x := s.ctx pos k
    match x.source, x.owner with
    | some c, some o =>
      match s.region o.region with
      | none => .next s
      | some r =>
        if (s.node pos).cut ∨ r.stopped ∨ s.stalled r.part ∨ (r.frame c.frame).parked then .next s
        else if c.next < c.count then
          let m := min x.crun (c.count - c.next)
          let s := s.admitFiring pos k c.frame c.next m (2 ^ m - 1) []
          .next ((s.modCtx pos k fun x => { x with source := some { c with next := c.next + m }, armed := true }).countIter r c.ic)
        else if s.firingOf pos k c.frame ∨ (s.matrix pos).sends k c.frame ∨ ¬ s.roomMany pos k (x.outPorts.map fun o => (o, 1)) then .next s
        else
          let t := markerTok c.frame (c.count % 4096) 0 x.sf false
          let s := x.outPorts.foldl (fun s o => s.enqueue pos k o false false t) s
          let s := s.modCtx pos k fun x => { x with source := none }
          .next (s.sendStrobe (.node pos) (.anchor r.id) r.id 1 [(36, 0), (10, c.frame), (2, c.ic)])
    | _, _ => .next s

/-! ## The Mint (R146, R147) -/

/-- MINT_FRAME_REQUEST (R146, R382): the request at the head of the Mint's order is granted when the budget allows.
Operand i: the region. -/
def execEvMintFrameRequest (s : State) : Out :=
  s.withEv fun e =>
    match s.region e.i.toNat with
    | none => .next s
    | some r =>
      match s.serveHead r with
      | some s => .next s
      | none => .next s

/-- The scale tokens of a frame that wait for a value token: they end with the frame (R256). -/
def State.looseScales (s : State) (r : Region) (frame : Nat) : Nat :=
  r.nodes.foldl (fun n c => n + ((s.store c).scales.filter fun h =>
    h.into.isNone && h.tok.frame == frame && s.regionOf h.tok.dst h.tok.ctx == r.id).length) 0

/-- The loose scale tokens of a frame end, and their shared buffers free. -/
def State.dropScales (s : State) (r : Region) (frame : Nat) : State :=
  r.nodes.foldl (fun s c =>
    let mine (h : HeldScale) : Bool :=
      h.into.isNone && h.tok.frame == frame && s.regionOf h.tok.dst h.tok.ctx == r.id
    let k := ((s.store c).scales.filter mine).length
    if k = 0 then s
    else (s.modStore c fun t => { t with scales := t.scales.filter fun h => !mine h }).modCluster (clusterOf c) fun g =>
      { g with shared := g.shared - k }) s

/-- The entries that a DISCARD still has to remove are the frame's own: the removal ends with it (R296, R335). -/
def State.endDrops (s : State) (region frame : Nat) : State :=
  let mine (o : MnOp) : Bool := match o.work with
    | .dropping _ => decide (o.region = region ∧ o.frame = frame)
    | _ => false
  { s with matrices := s.matrices.map fun m => (m.1, { m.2 with ops := m.2.ops.filter fun o => !mine o }) }

/-- Something of a frame still runs: a counter source, or a firing that has consumed nothing. -/
def State.frameBusy (s : State) (r : Region) (frame : Nat) : Bool :=
  r.nodes.any fun c =>
    (s.node c).ctxs.any (fun x => x.ownedBy r.id && match x.source with | some q => q.frame == frame | none => false) ||
    ((s.node c).admitted ++ (s.node c).slots.filterMap id).any fun f => decide (f.region = r.id ∧ f.frame = frame)

/-- A retiring frame with no work left returns to the Mint (R147), and leaves every party set; a run frame is no longer its block's
(R107). -/
def State.frameReturn (s : State) : Out :=
  s.withEv fun e =>
    match s.region e.i.toNat with
    | none => .next s
    | some r =>
      let f := e.j.toNat
      let x := r.frame f
      if x.state ≠ 2 ∨ x.parked ∨ s.looseScales r f < x.tcnt ∨ s.frameBusy r f then .next s
      else
        let s := (s.dropScales r f).endDrops r.id f
        let s := s.modFrame r.id f fun x => { x with state := 0, tcnt := 0, reported := false }
        let s := s.modRegion r.id fun r => { r with blks := r.blks.map fun b =>
          (b.1, { b.2 with runFrames := b.2.runFrames.filter (· != f) }) }
        .next ((r.psets.map (·.1)).foldl (fun s k => s.quitSet r.id k f) s)

/-- Unclaimed A FIFO entries of a frame in one Copy Engine. -/
def State.fifoOf (s : State) (c : Coord) (region frame : Nat) : Nat :=
  ((s.copies.get {} c).fifo.filter fun x => decide (x.region = region ∧ x.frame = frame)).length

/-- A_FIFO_DISCARD (R296): the unclaimed entries of a retiring frame go once nothing else of it is left. Operand i: the
region; j: the frame. -/
def execEvAFifoDiscard (s : State) : Out :=
  s.withEv fun e =>
    match s.region e.i.toNat with
    | none => .next s
    | some r =>
      let f := e.j.toNat
      let x := r.frame f
      let cps := r.clusters.map fun g => clusterNode g 4
      let total := cps.foldl (fun n c => n + s.fifoOf c r.id f) 0
      if x.state ≠ 2 ∨ x.parked ∨ total = 0 ∨ x.tcnt ≠ total then .next s
      else
        let s := cps.foldl (fun s c =>
          let k := s.fifoOf c r.id f
          if k = 0 then s
          else
            let cp := s.copies.get {} c
            { s with copies := s.copies.set c { cp with
              fifo := cp.fifo.filter fun x => !decide (x.region = r.id ∧ x.frame = f), adrop := satAdd 16 cp.adrop k } }) s
        .next (s.tcntSub r.id f total)

/-- DEPTH_APPLY (R169): a pending depth takes effect once the edge has drained. The event's node; operand i: the context;
j: the port. -/
def execEvDepthApply (s : State) : Out :=
  s.withEv fun e =>
    let pos := e.pos
    let k := e.i.toNat
    let port := e.j.toNat
    let x := s.ctx pos k
    match x.depth.filter fun d => d.1 == port with
    | [] => .next s
    | d :: ds =>
      if s.edgeTokens pos k port ∨ 0 < x.used.getD port 0 then .next s
      else
        let s := s.modCluster (clusterOf pos) fun c => { c with resv := c.resv + d.2.1 - x.dep port }
        let s := s.modCtx pos k fun x => { x.setDep port d.2.1 with depth := x.depth.filter fun d => d.1 != port }
        .next ((d :: ds).foldl (fun s d =>
          if d.2.2.1 = 0 then s
          else (s.sendReceipt pos k d.2.2.1 d.2.2.2.1 d.2.2.2.2 0 0 0 false).repay pos k d.2.2.2.1 1) s)

end Sys2Proof.Machine
end

