-- ==== Sys2Proof/Machine/MemEvents.lean ====
section
/-! DEFINITION. The events of memory: walks, write-buffer drains, events at the home slices, replies and receipts (R218,
R221, R226, R344 to R348, R359, R502). -/

namespace Sys2Proof.Machine

/-- WB_IDLE_DRAIN (R226): an entry that nothing has written for 1,024 cycles begins to drain. Operand i: the cluster; j:
the entry's place. -/
def execEvWbIdleDrain (s : State) : Out :=
  s.withEv fun e =>
    match (s.cluster e.i.toNat).wb[e.j.toNat]? with
    | some w => if !w.draining && decide (w.last + 1024 ≤ s.cyc) then .next (s.drain e.i.toNat [w.id] false) else .next s
    | none => .next s

/-- Another event of the line waits for its fill, which holds this one back (R345). -/
def State.lineHeld (s : State) (op : Nat) (q : LineReq) : Bool :=
  s.ops.any fun o => o.todo.any fun r => r.line == q.line && r.filling && !(o.id == op && decide (r = q))

/-- HS_WRITE_EVENT (R226, R346 to R348): a draining entry is performed at its home slice, behind earlier entries of its
line. Operand i: the cluster; j: the entry's place in the buffer. -/
def execEvHsWriteEvent (s : State) : Out :=
  s.withEv fun e =>
    let g := e.i.toNat
    let wb := (s.cluster g).wb
    match wb[e.j.toNat]? with
    | none => .next s
    | some w =>
      if !w.draining || ((wb.take e.j.toNat).any fun v => v.line == w.line) || s.lineHeld 0 { line := w.line, lanes := [] } then .next s
      else
        let (s, tag) := s.writeEvent (s.partFor w.region) w.line w.dev (w.sys && s.dev.inTier (128 * w.line)) false true w.bytes
        let s := (s.oweTier w.line w.writers w.seen w.rel).modCluster g fun c => { c with wb := dropNth c.wb e.j.toNat, drains := satAdd 32 c.drains 1 }
        let drained (o : Op) : Op :=
          if o.waits.contains w.id then
            { o with waits := o.waits.filter (· != w.id), tags := if o.kind = .store then o.tags ++ [tag] else o.tags }
          else o
        .next ({ s with ops := s.ops.map drained } : State).settle

/-- An uncorrectable error in data that an operation reads: its record, with the G-space address of the access (R502). -/
def State.eccRecord (s : State) (r : Region) (o : Op) (va : Nat) : State :=
  s.postFor r .nothing
    { cause := Cause.eccUncorr, detail := 1, pos := o.pos, nk := nkOf o.pos, ctx := o.ctx, frame := o.frame, iter := o.iter,
      len := o.len, akind := 1, addr := va % 2 ^ 48, parked := false }

/-- The next record that an operation owes is posted; while the device's queue is full, it waits (R495). -/
def State.withRecords (s : State) (o : Op) (k : Out) : Out :=
  match o.eccs, s.region o.region with
  | va :: rest, some r =>
    if s.canPost r.part then .next ((s.eccRecord r o va).modOp o.id fun o => { o with eccs := rest }).settle
    else .next (s.waitToPost r.part)
  | _, _ => k

/-- An event at a slice that reads its line: it waits for older write-buffer entries and, on a miss, for the fill (R227,
R344, R345). `perform` acts once the line is there. -/
def State.atSlice (s : State) (want : OpKind → Bool) (fills : OpKind → Bool)
    (perform : State → Op → LineReq → Out) : Out :=
  s.withEv fun e =>
    match s.ops[e.i.toNat]? with
    | none => .next s
    | some o => s.withRecords o <|
      match o.todo[e.j.toNat]? with
      | none => .next s
      | some q =>
        if !want o.kind || !o.waits.isEmpty || s.lineHeld o.id q then .next s
        else if fills o.kind && s.cacheable q.line q.dev && !s.cached q.line then
          if q.filling then .next s
          else .next (s.modOp o.id fun o => { o with todo := setNth o.todo e.j.toNat { q with filling := true } })
        else perform s o q

/-- LINE_FILL (R344, R348): the line that an event waits for comes from backing memory. Operand i: the operation; j: the
event's place in it. -/
def execEvLineFill (s : State) : Out :=
  s.withEv fun e =>
    match s.ops[e.i.toNat]? with
    | none => .next s
    | some o =>
      match o.todo[e.j.toNat]? with
      | none => .next s
      | some q => if q.filling && !s.cached q.line then .next (s.fill (s.partFor o.region) q.line) else .next s

/-- Errors that a read finds (R502): v of the event is 0 for none, 1 for a corrected one, 2 for an uncorrectable one. A
line that is poisoned already poisons what is read of it. Answers whether the data are poisoned; the record then is posted, or waits
with the operation while the device's queue is full (R495). -/
def State.readErrors (s : State) (v : Nat) (o : Op) (q : LineReq) : State × Bool :=
  let found := v == 2
  let bad := found || s.badLines.contains q.line
  let s : State := { s with
    badLines := if found && !s.badLines.contains q.line then q.line :: s.badLines else s.badLines,
    dev := { s.dev with corr := satAdd 32 s.dev.corr (b2n (v == 1)), uncorr := satAdd 32 s.dev.uncorr (b2n found) } }
  match (if bad then s.region o.region else none) with
  | none => (s, bad)
  | some r =>
    if s.canPost r.part then (s.eccRecord r o q.va, bad)
    else ((s.waitToPost r.part).modOp o.id fun o => { o with eccs := o.eccs ++ [q.va] }, bad)

/-- An acquire reads a line: at CL it may read the writes that its cluster's buffer holds, and else those that are performed at DEV and
not at SYS (R353, case 3). -/
def State.acquired (s : State) (o : Op) (line : Nat) : State :=
  if !o.acq then s
  else if o.scope = 0 then
    s.modCluster (clusterOf o.pos) fun c => { c with wb := c.wb.map fun e => if e.line = line then { e with seen := true } else e }
  else s.readTier line o.region (o.scope == 3)

/-- Remove an event from its operation, which gains values, poison and the rest that `f` adds. -/
def State.performedReq (s : State) (id j : Nat) (f : Op → Op) : State :=
  (s.modOp id fun o => f { o with todo := dropNth o.todo j }).settle

/-- The mask of a request's lanes; a link belongs to the lane whose element names it (R216). -/
def LineReq.mask (q : LineReq) : Nat := maskOf 32 fun l => q.lanes.any fun p => p.1 == l || p.1 == linkLane l

/-- A load's event is performed (R227, R346, R347): its line is in its place. `v` is the error that it meets. -/
def State.loadEvent (s : State) (o : Op) (j : Nat) (q : LineReq) (v : Nat) : State :=
    let x := s.readErrors v o q
    let p := x.1.partFor o.region
    let s := if o.scope = 3 ∧ !q.filling ∧ x.1.readsDevice q.line then x.1.meterHome p 0 2 else x.1.useLine p q.line false (!q.filling)
    let s := (s.meterHome p 1 0).acquired o q.line
    let g := clusterOf o.pos
    let value (l a : Nat) : Word :=
      let sz := if l < 32 then tyBytes o.ty else 8
      let w := if l < 32 then o.ty.width else 64
      BitVec.ofNat 64 (ofBytes ((List.range sz).map fun i => if o.scope = 0 then s.clByte g (a + i) else Memory.read s.mem (a + i)) % 2 ^ w)
    s.performedReq o.id j fun o => { o with
      vals := o.vals ++ q.lanes.map fun p => (p.1, value p.1 p.2),
      poison := if x.2 then o.poison ||| q.mask else o.poison }

/-- An atomic's event is performed (R346 to R348, R359 to R366): at SYS, or where a release or barrier at SYS waits for it, its line of
second-tier memory goes through. -/
def State.atomicEvent (s : State) (o : Op) (j : Nat) (q : LineReq) (v opc : Nat) (n : Niw) : State :=
    let x := s.readErrors v o q
    let s := x.1.acquired o q.line
    let a := s.atomEvent o n opc q
    let through := decide (max o.scope o.upTo = 3) && s.dev.inTier (128 * q.line)
    let w := s.writeEvent (s.partFor o.region) q.line q.dev through true (!q.filling) a.cells
    (w.1.oweTier q.line [(o.pos, o.ctx, o.frame, o.cls)] false false).performedReq o.id j fun o => { o with
      vals := o.vals ++ a.old, flags := o.flags ||| a.flags, tags := o.tags ++ [w.2],
      poison := if x.2 then o.poison ||| (maskOf 32 fun l => a.old.any fun x => x.1 == l) else o.poison,
      rpoison := o.rpoison || x.2 }

/-- HS_READ_EVENT (R227, R346, R347, R236, R367, R502): a read, an HSEQ's read of the line's tag, or the write-back of XWB
and XINV. Operand i: the operation; j: the event's place in it; v: the error that it meets. -/
def execEvHsReadEvent (s : State) : Out :=
  s.withEv fun e =>
    let j := e.j.toNat
    let kinds (k : OpKind) : Bool := match k with | .load | .hseq | .writeBack _ => true | _ => false
    s.atSlice kinds (fun k => k == .load) fun s o q =>
      match o.kind with
      | .load => .next (s.loadEvent o j q e.v.toNat)
      | .hseq =>
        let tag : Word := BitVec.ofNat 64 (s.ltagOf q.line)
        let s := if s.cached q.line then s.useLine (s.partFor o.region) q.line false true else s
        .next ((s.meterHome (s.partFor o.region) 1 0).performedReq o.id j fun o =>
          { o with vals := o.vals ++ q.lanes.map fun p => (p.1, tag) })
      | .writeBack inv =>
        let s := s.clean (s.partFor o.region) q.line
        .next ((if inv then s.invalidate q.line else s).performedReq o.id j id)
      | _ => .next s

/-- HS_ATOMIC_EVENT (R346 to R348, R359 to R366): one atomic event on one line. Operand i: the operation; j: the event's
place in it; v: the error that it meets. -/
def execEvHsAtomicEvent (s : State) : Out :=
  s.withEv fun e =>
    let j := e.j.toNat
    let kinds (k : OpKind) : Bool := match k with | .atomic _ => true | _ => false
    s.atSlice kinds kinds fun s o q =>
      match o.kind, o.niw with
      | .atomic opc, some n => .next (s.atomicEvent o j q e.v.toNat opc n)
      | _, _ => .next s

/-! ## The events of other units (R345, R346) -/

/-- An event of another unit comes to a line for which an earlier one waits: its fill comes, and it is performed first, for events of
one line are performed in the order in which they reach the bank (R345). -/
def State.lineReady (s : State) (l : Nat) : State :=
  let waits (r : LineReq) : Bool := r.line == l && r.filling
  match s.ops.find? fun o => o.todo.any waits with
  | none => s
  | some o =>
    match o.todo.findIdx? waits, o.todo.find? waits with
    | some j, some q =>
      let s := if s.cached l then s else s.fill (s.partFor o.region) l
      match o.kind, o.niw with
      | .load, _ => s.loadEvent o j q 0
      | .atomic opc, some n => s.atomicEvent o j q 0 opc n
      | _, _ => s
    | _, _ => s

/-- A read event of a unit other than an element's loads, its fill with it. -/
def State.unitRead (s : State) (p : Option Nat) (l : Nat) (dev : Bool) : State := (s.lineReady l).readEvent p l dev

/-- WALK_COMPLETE (R218, R219, R493). Operand i: the walk's place in the list; a cluster's walker serves its four oldest. It reads the
entries at their home slices. -/
def execEvWalkComplete (s : State) : Out :=
  s.withEv fun e =>
    match s.walks[e.i.toNat]? with
    | none => .next s
    | some w =>
      let g := clusterOf w.pos
      if 4 ≤ ((s.walks.take e.i.toNat).filter fun v => clusterOf v.pos == g).length then .next s
      else
        let s := (s.tableLines w.part w.va).foldl (fun s l => s.unitRead (s.partFor w.region) l false) s
        let x := s.walk w.part w.va
        let s : State := { s with walks := dropNth s.walks e.i.toNat }
        let s := s.modSlot w.pos w.slot fun f => if f.region = w.region then { f with xl := f.xl ++ [x] } else f
        .next (s.modMe w.pos fun m =>
          match w.stream with
          | some k =>
            let more := s.walks.any fun v => decide (v.pos = w.pos ∧ v.stream = some k)
            let m : Me := { m with sst := m.sst.set k (BitVec.ofNat 64 (setBits (m.sst.get 0 k).toNat 61 1 (b2n more))) }
            if x.bad.isNone then { m with sx := m.sx.set k x } else m
          | none => if x.bad.isNone then { m with tlb := (x :: m.tlb).take 8 } else m)

/-- A write event of a unit other than a cluster's write buffer, with its tag. -/
def State.unitWrite (s : State) (p : Option Nat) (l : Nat) (dev through : Bool) (bytes : List Host.Cell) : State × Nat :=
  (s.lineReady l).writeEvent p l dev through false true bytes

/-- Write events that an engine's write makes, one a line, with their tags (R346). -/
def State.writeLines (s : State) (p : Option Nat) (dev through : Bool) (cells : List Host.Cell) : State × List Nat :=
  (byLine cells).foldl (fun (a : State × List Nat) x =>
    let w := a.1.unitWrite p x.1 dev through x.2
    (w.1, a.2 ++ [w.2])) (s, [])

/-- Read events of a range, one a line (R346), and its bytes. -/
def State.readRange (s : State) (p : Option Nat) (dev : Bool) (a k : Nat) : State × List Byte :=
  let ls := ((List.range k).map fun i => lineOf (a + i)).eraseDups
  let s := ls.foldl (fun s l => s.unitRead p l dev) s
  (s, Memory.reads s.mem a k)

/-- LOAD_REPLY (R221, R231, R359): a reply leaves once every lane has returned; it spends the credit taken at issue.
Operand i: the operation. -/
def execEvLoadReply (s : State) : Out :=
  s.withEv fun e =>
    match s.ops[e.i.toNat]? with
    | none => .next s
    | some o =>
      if o.reply = 0 ∨ ¬ o.performed then s.withRecords o (.next s)
      else
        let wide := o.ty.isWide
        let lane (l : Nat) : Word := if bit o.mask l && !bit o.poison l then (Table.find o.vals l).getD 0 else 0
        let t : Token := { kind := .value, dst := o.pos, ctx := 0, port := 0, frame := o.frame, iter := o.iter, len := o.len,
                           aux := 0, mask := o.mask, poison := o.poison &&& o.mask, wide := wide,
                           lanes := (List.range o.len).map lane }
        let s := (s.enqueueRun o.pos o.ctx (o.reply - 1) true true t).progress o.region
        .next (((s.repay o.pos o.ctx o.frame 1).modOp o.id fun o => { o with reply := 0 }).settle)

/-- OPERATION_PERFORMED (R40, R41, R43, R45, R349): an operation's receipt is delivered. Operand i: the operation. -/
def execEvOperationPerformed (s : State) : Out :=
  s.withEv fun e =>
    match s.ops[e.i.toNat]? with
    | none => .next s
    | some o =>
      if o.receipt = 0 ∨ ¬ o.performed then s.withRecords o (.next s)
      else
        let seq := match o.tags with | [t] => if o.several then 0 else t | _ => 0
        let s := (s.certified o.pos o.ctx o.frame).sendReceipt o.pos o.ctx o.receipt o.frame o.base o.flags o.scope seq o.rpoison
        .next (((s.repay o.pos o.ctx o.frame 1).modOp o.id fun o => { o with receipt := 0 }).settle)

end Sys2Proof.Machine
end

