-- ==== Sys2Proof/Machine/CeFloat.lean ====
section
/-! DEFINITION. The Compute Element's float instructions (R184, R185, R201 to R209). -/

namespace Sys2Proof.Machine

/-- How a lane of a float instruction rounds. -/
def State.rounding (s : State) (f : Firing) (n : Niw) (ty : Ty) (l : Nat) : Rounding :=
  { ty := ty, rm := s.mode s.cur.pos f n.rm, sat := n.sat, fz := n.fz, draw := s.draw s.cur.pos f l }

/-- A float instruction on up to three operands of one type, with one rounding. -/
def State.floatOp (s : State) (n : Niw) (g : Rounding → Nat → Nat → Nat → Nat × Nat) : Out :=
  s.laneWise n n.ty.isWide n.ty.width [(n.ty, n.a), (n.ty, n.b), (n.ty, n.c)] fun f l v =>
    g (s.rounding f n n.ty l) (arg v 0) (arg v 1) (arg v 2)

/-- FADD (R201). -/
def execFadd (n : Niw) (s : State) : Out := s.floatOp n fun r a b _ => r.add a b false
/-- FSUB (R201). -/
def execFsub (n : Niw) (s : State) : Out := s.floatOp n fun r a b _ => r.add a b true
/-- FMUL (R201). -/
def execFmul (n : Niw) (s : State) : Out := s.floatOp n fun r a b _ => r.mul a b
/-- FFMA (R201): a · b + c. -/
def execFfma (n : Niw) (s : State) : Out := s.floatOp n fun r a b c => r.fma a b c false false
/-- FFMS (R201): a · b − c. -/
def execFfms (n : Niw) (s : State) : Out := s.floatOp n fun r a b c => r.fma a b c false true
/-- FNMA (R201): −(a · b) + c. -/
def execFnma (n : Niw) (s : State) : Out := s.floatOp n fun r a b c => r.fma a b c true false
/-- FNMS (R201): −(a · b) − c. -/
def execFnms (n : Niw) (s : State) : Out := s.floatOp n fun r a b c => r.fma a b c true true

/-- FMIN (R202). -/
def execFmin (n : Niw) (s : State) : Out := s.floatOp n fun r a b _ => fminmax r.ty r.fz false a b
/-- FMAX (R202). -/
def execFmax (n : Niw) (s : State) : Out := s.floatOp n fun r a b _ => fminmax r.ty r.fz true a b
/-- FMINN (R202). -/
def execFminn (n : Niw) (s : State) : Out := s.floatOp n fun r a b _ => fminmaxn r.ty r.fz false a b
/-- FMAXN (R202). -/
def execFmaxn (n : Niw) (s : State) : Out := s.floatOp n fun r a b _ => fminmaxn r.ty r.fz true a b
/-- FMAXA (R202). -/
def execFmaxa (n : Niw) (s : State) : Out := s.floatOp n fun r a b _ => fmaxa r.ty r.fz a b
/-- FMED3 (R202): FMAXN(FMINN(A, B), FMINN(FMAXN(A, B), C)); the flags are those of its operands. -/
def execFmed3 (n : Niw) (s : State) : Out :=
  s.floatOp n fun r a b c =>
    let lo := fminmaxn r.ty r.fz false a b
    let hi := fminmaxn r.ty r.fz true a b
    let m := fminmaxn r.ty r.fz false hi.1 c
    ((fminmaxn r.ty r.fz true lo.1 m.1).1, nanFlags [fval r.ty a, fval r.ty b, fval r.ty c])

/-- FABS (R203). -/
def execFabs (n : Niw) (s : State) : Out := s.floatOp n fun r a _ _ => (absCode r.ty a, 0)
/-- FNEG (R203). -/
def execFneg (n : Niw) (s : State) : Out := s.floatOp n fun r a _ _ => (a ^^^ r.ty.fmt.signBit, 0)
/-- FCOPYSIGN (R203). -/
def execFcopysign (n : Niw) (s : State) : Out :=
  s.floatOp n fun r a b _ => (absCode r.ty a + (b - absCode r.ty b), 0)

/-- A float comparison with its flags (R65, R204). -/
def State.fcmpOp (s : State) (n : Niw) : Out :=
  s.laneWise n false 32 [(n.ty, n.a), (n.ty, n.b)] fun _ _ v =>
    let c := n.opt.toNat
    let x := fval n.ty (arg v 0)
    let y := fval n.ty (arg v 1)
    let un := x.isNan || y.isNan
    (b2n (compareAs n.ty n.fz c (arg v 0) (arg v 1)),
     nanFlags [x, y] ||| flagIf (un && decide (2 ≤ c ∧ c ≤ 5)) Flag.invalid)
/-- FCMP (R204). -/
def execFcmp (n : Niw) (s : State) : Out := s.fcmpOp n
/-- FCMPM (R204). -/
def execFcmpm (n : Niw) (s : State) : Out := s.fcmpOp n

/-- The class bit of a value (R204). -/
def classOf (ty : Ty) (a : Nat) : Nat :=
  match fval ty a with
  | .nan true => 2 ^ 8
  | .nan false => 2 ^ 9
  | .inf neg => if neg then 1 else 2 ^ 7
  | .fin neg m _ =>
    if m = 0 then (if neg then 2 ^ 3 else 2 ^ 4)
    else if bits a ty.fmt.f ty.fmt.eb = 0 then (if neg then 2 ^ 2 else 2 ^ 5)
    else (if neg then 2 ^ 1 else 2 ^ 6)
  | .reserved => 2 ^ 9
/-- FCLASS (R204). -/
def execFclass (n : Niw) (s : State) : Out :=
  s.laneWise n false 32 [(n.ty, n.a)] fun _ _ v => (classOf n.ty (arg v 0), 0)

/-- FRINT (R205). -/
def execFrint (n : Niw) (s : State) : Out :=
  s.floatOp n fun r a _ _ =>
    match r.arg r.ty a with
    | .fin neg m e =>
      if m = 0 then r.put 0 (.fin neg 0 0)
      else
        let q := rndInt r.rm r.draw { neg := neg, m := m, e := e }
        (exactCode r.ty (.fin neg q.1.natAbs 0), flagIf q.2 Flag.inexact)
    | .inf neg => r.put 0 (.inf neg)
    | v => canon r.ty (nanFlags [v])

/-- FFRAC (R205): A − trunc(A), exact; a zero result takes the sign of A. -/
def execFfrac (n : Niw) (s : State) : Out :=
  s.floatOp n fun r a _ _ =>
    match r.arg r.ty a with
    | .fin neg m e =>
      if 0 ≤ e then (exactCode r.ty (.fin neg 0 0), 0)
      else (exactCode r.ty (.fin neg (m % 2 ^ (-e).toNat) e), 0)
    | .inf _ => canon r.ty Flag.invalid
    | v => canon r.ty (nanFlags [v])

/-- FSCALE (R205): A · 2^B. -/
def execFscale (n : Niw) (s : State) : Out :=
  s.laneWise n n.ty.isWide n.ty.width [(n.ty, n.a), (.i32, n.b)] fun f l v =>
    let r := s.rounding f n n.ty l
    match r.arg r.ty (arg v 0) with
    | .fin neg m e => r.put 0 (.fin neg m (e + sx (arg v 1) 32))
    | .inf neg => r.put 0 (.inf neg)
    | v => canon r.ty (nanFlags [v])

/-- FGETEXP (R205). -/
def execFgetexp (n : Niw) (s : State) : Out :=
  s.floatOp n fun r a _ _ =>
    match r.arg r.ty a with
    | .fin _ m e =>
      if m = 0 then r.put Flag.divZero (.inf true)
      else
        let x := e + lg m
        (exactCode r.ty (.fin (decide (x < 0)) x.natAbs 0), 0)
    | .inf _ => r.put 0 (.inf false)
    | v => canon r.ty (nanFlags [v])

/-- FGETMAN (R205). -/
def execFgetman (n : Niw) (s : State) : Out :=
  s.floatOp n fun r a _ _ =>
    match r.arg r.ty a with
    | .fin neg m e => if m = 0 then (exactCode r.ty (.fin neg 0 e), 0) else (exactCode r.ty (.fin neg m (-(lg m : Int))), 0)
    | .inf _ => canon r.ty Flag.invalid
    | v => canon r.ty (nanFlags [v])

/-- FDOT2 (R206): two products and C with one rounding to F32. DEDUCED (log 102): A and B are read as 32-bit slots, so ONE, LANE, ITER,
FRAME and a mask give the integer in the slot (R58), not a value of TY in element 0. -/
def execFdot2 (n : Niw) (s : State) : Out :=
  s.laneWise n false 32 [(.n32, n.a), (.n32, n.b), (.f32, n.c)] fun f l v =>
    let r := s.rounding f n .f32 l
    let el (x i : Nat) : FVal := r.arg n.ty (bits x (16 * i) 16)
    let a0 := el (arg v 0) 0
    let a1 := el (arg v 0) 1
    let b0 := el (arg v 1) 0
    let b1 := el (arg v 1) 1
    let c := r.arg .f32 (arg v 2)
    r.sumProd [a0, a1, b0, b1, c] [(a0, b0), (a1, b1)] [c]

/-- FLERP (R207): A + C · (B − A) with one rounding; exactly A at C = 0 and exactly B at C = 1, for finite A and B. -/
def execFlerp (n : Niw) (s : State) : Out :=
  s.floatOp n fun r a b c =>
    let x := r.arg r.ty a
    let y := r.arg r.ty b
    let z := r.arg r.ty c
    let finite (v : FVal) : Bool := !v.isNan && !v.isInf
    if finite x && finite y && z.isZero then r.put 0 x
    else if finite x && finite y && z.cmp (.fin false 1 0) == .eq && !z.isNan then r.put 0 y
    else match sumVals (r.rm == .rdn) [y, x.negate] with
      | none => canon r.ty (nanFlags [x, y, z] ||| Flag.invalid)
      | some d => r.sumProd [x, y, z] [(z, d)] [x]

/-- FCVTS (R208): IMMF gives the F16 value rounded to the source format (R59). -/
def execFcvts (n : Niw) (s : State) : Out :=
  let src := Ty.ofCode n.opt.toNat
  s.laneWise n n.ty.isWide n.ty.width [(src, n.a)] fun f l v =>
    let r := s.rounding f n n.ty l
    match r.arg src (arg v 0) with
    | .nan g => canon r.ty (nanFlags [.nan g])
    | x => r.put 0 x

/-- The node of FRED's tree (R209). -/
def fredComb (r : Rounding) (op a b : Nat) : Nat × Nat :=
  match op with
  | 0 => r.add a b false
  | 1 => fminmax r.ty false false a b
  | 2 => fminmax r.ty false true a b
  | 3 => fminmaxn r.ty false false a b
  | 4 => fminmaxn r.ty false true a b
  | _ => fmaxa r.ty false a b

/-- One level of FRED's tree: pairs in lane order, absent entries passed over. -/
def fredLevel (r : Rounding) (op : Nat) : List (Option Nat) → List (Option Nat) × Nat
  | x :: y :: rest =>
    let (ls, fl) := fredLevel r op rest
    match x, y with
    | some a, some b => let c := fredComb r op a b; (some c.1 :: ls, fl ||| c.2)
    | some a, none => (some a :: ls, fl)
    | none, y => (y :: ls, fl)
  | [x] => ([x], 0)
  | [] => ([], 0)

/-- The five levels of FRED's tree, with the flags of every node. -/
def fredTree (r : Rounding) (op : Nat) : Nat → List (Option Nat) → Option Nat × Nat
  | 0, ls => (ls.headD none, 0)
  | k + 1, ls =>
    let (ls, fl) := fredLevel r op ls
    let (v, fl') := fredTree r op k ls
    (v, fl ||| fl')

/-- FRED (R209). A value that reaches the root alone is written canonical when it is a NaN, flushed under FZ, and, under
MAXA, is its magnitude only where it met a node. -/
def execFred (n : Niw) (s : State) : Out :=
  s.result n false n.ty.width fun f =>
    let r := s.rounding f n n.ty 0
    let op := n.opt.toNat % 8
    let col := s.column n f n.ty 0 n.a
    let t : Table Nat PVal := col
    let fzCode (x : Nat) : Nat := match fvalFz n.ty n.fz x with
      | .fin neg 0 e => exactCode n.ty (.fin neg 0 e)
      | .nan _ => n.ty.fmt.canonNan
      | _ => x
    let leaves := (List.range 32).map fun l => (t.find l).map fun v => fzCode v.1
    let (v, fl) := fredTree r op 5 leaves
    let all := nanFlags (col.map fun c => fval n.ty c.2.1)
    let psn := col.any (fun c => c.2.2) || f.anyPredPoison n.pred fun _ => true
    col.map fun c => (c.1, { v := v.getD 0, psn := psn, fl := fl ||| all })

end Sys2Proof.Machine
end

