-- ==== Sys2Proof/Machine/Trans.lean ====
section
/-! DEFINITION. The transcendental functions (R265, R266): enclosures in fixed-point integers that decide the correctly
rounded result. A fixed-point number is an integer over 2^prec; an enclosure is a pair of bounds. -/

namespace Sys2Proof.Machine

/-- Fraction bits of the fixed-point numbers. -/
def prec : Nat := 640
/-- One. -/
def fixOne : Nat := 2 ^ prec

/-- A lower and an upper bound of a non-negative real, times 2^e. -/
structure Encl where
  lo : Nat
  hi : Nat
  e : Int
deriving DecidableEq, Repr

/-- The terms of a series with non-negative terms, each got from the one before: the sum of floors and the number of
terms. `f k t` is term k + 1 from term k. -/
def seriesGo (f : Nat → Nat → Nat) : Nat → Nat → Nat → Nat → Nat
  | 0, _, _, acc => acc
  | fuel + 1, k, t, acc => if t = 0 then acc else seriesGo f fuel (k + 1) (f k t) (acc + t)

/-- atanh(1/n) from below, with an error below 2^12 units: Σ 1 / ((2k + 1) n^(2k+1)). -/
def atanhInv (n : Nat) : Nat :=
  (seriesPow (n * n) 800 0 (fixOne / n) 0)
where
  /-- The sum, the power kept beside. -/
  seriesPow (q : Nat) : Nat → Nat → Nat → Nat → Nat
    | 0, _, _, acc => acc
    | fuel + 1, k, p, acc => if p = 0 then acc else seriesPow q fuel (k + 1) (p / q) (acc + p / (2 * k + 1))

/-- ln 2 = 2 atanh(1/3), within 2^13 units below. -/
def fixLn2 : Nat := 2 * atanhInv 3

/-- atan(1/n) within 2^12 units either side, by the alternating series. -/
def atanInv (n : Nat) : Nat :=
  (go (n * n) 800 0 (fixOne / n) 0).toNat
where
  /-- The sum, the power kept beside. -/
  go (q : Nat) : Nat → Nat → Nat → Int → Int
    | 0, _, _, acc => acc
    | fuel + 1, k, p, acc =>
      if p = 0 then acc
      else
        let t : Int := (p / (2 * k + 1) : Nat)
        go q fuel (k + 1) (p / q) (if k % 2 = 0 then acc + t else acc - t)

/-- π = 16 atan(1/5) − 4 atan(1/239), within 2^17 units. -/
def fixPi : Nat := 16 * atanInv 5 - 4 * atanInv 239

/-- Error bound that every fixed-point value below keeps, in units: far above the rounding errors of its terms. -/
def slack : Nat := 2 ^ 40

/-- e^y for a fixed-point y below 1, within 2^20 units of the value for that y. -/
def fixExp (y : Nat) : Nat := seriesGo (fun k t => t * y / fixOne / (k + 1)) 400 0 fixOne 0

/-- ln u for a fixed-point u in [1, 2), within 2^20 units: 2 atanh((u − 1) / (u + 1)). -/
def fixLn (u : Nat) : Nat :=
  let z := (u - fixOne) * fixOne / (u + fixOne)
  let z2 := z * z / fixOne
  2 * go z2 800 0 z 0
where
  /-- The sum, the power kept beside. -/
  go (z2 : Nat) : Nat → Nat → Nat → Nat → Nat
    | 0, _, _, acc => acc
    | fuel + 1, k, p, acc => if p = 0 then acc else go z2 fuel (k + 1) (p * z2 / fixOne) (acc + p / (2 * k + 1))

/-- sin y for a fixed-point y in [0, π/4], within 2^20 units. -/
def fixSin (y : Nat) : Nat := (go (y * y / fixOne) 400 0 y 0).toNat
where
  /-- The alternating sum. -/
  go (q : Nat) : Nat → Nat → Nat → Int → Int
    | 0, _, _, acc => acc
    | fuel + 1, k, t, acc =>
      if t = 0 then acc
      else go q fuel (k + 1) (t * q / fixOne / ((2 * k + 2) * (2 * k + 3))) (if k % 2 = 0 then acc + t else acc - t)

/-- cos y for a fixed-point y in [0, π/4], within 2^20 units. -/
def fixCos (y : Nat) : Nat := (go (y * y / fixOne) 400 0 fixOne 0).toNat
where
  /-- The alternating sum. -/
  go (q : Nat) : Nat → Nat → Nat → Int → Int
    | 0, _, _, acc => acc
    | fuel + 1, k, t, acc =>
      if t = 0 then acc
      else go q fuel (k + 1) (t * q / fixOne / ((2 * k + 1) * (2 * k + 2))) (if k % 2 = 0 then acc + t else acc - t)

/-- atan x for a fixed-point x in [0, 1], within 2^30 units: Euler's series. -/
def fixAtan (x : Nat) : Nat :=
  let d := fixOne + x * x / fixOne
  let r := x * x / d
  seriesGo (fun k t => t * r / fixOne * (2 * k + 2) / (2 * k + 3)) 1400 0 (x * fixOne / d) 0

/-- Fixed-point bounds widened by the slack. -/
def around (v : Nat) : Encl := { lo := v - slack, hi := v + slack, e := -(prec : Int) }

/-- 2^x for x = ± m · 2^e, with an absolute error far below 1 in x: x is cut into its integer part and a fraction. -/
def enclExp2 (neg : Bool) (num den : Nat) : Encl :=
  -- |x| = num / den
  let q := num / den
  let r := num % den
  let n : Int := if neg then (if r = 0 then -(q : Int) else -(q : Int) - 1) else q
  let fr := if neg then (if r = 0 then 0 else den - r) else r
  let y := fr * fixOne / den * fixLn2 / fixOne
  let v := fixExp y
  { lo := v - slack, hi := v + slack, e := n - prec }

/-- e^x for x = ± m · 2^e, through 2^(x / ln 2). -/
def enclExp (neg : Bool) (m : Nat) (e : Int) : Encl :=
  -- |x| / ln 2 = m · 2^e · 2^prec / fixLn2
  if 0 ≤ e then enclExp2 neg (m * 2 ^ e.toNat * fixOne) fixLn2
  else enclExp2 neg (m * fixOne) (fixLn2 * 2 ^ (-e).toNat)

/-- log2 of m · 2^e as a signed fixed-point number. -/
def fixLog2 (m : Nat) (e : Int) : Int :=
  let k := lg m
  let u := m * fixOne / 2 ^ k
  (e + k) * (fixOne : Int) + (fixLn u * fixOne / fixLn2 : Nat)

/-- ln of m · 2^e as a signed fixed-point number. -/
def fixLog (m : Nat) (e : Int) : Int :=
  let k := lg m
  (e + k) * (fixLn2 : Int) + (fixLn (m * fixOne / 2 ^ k) : Int)

/-- A signed fixed-point value as a sign and an enclosure. -/
def signedAround (v : Int) : Bool × Encl := (decide (v < 0), around v.natAbs)

/-- The result that an enclosure of |f(a)| decides (R265). A value the bounds cannot decide is one of the two roundings,
by free choice (log 1); no operand is known to need it. -/
def decideRnd (r : Rounding) (free : Nat) (neg : Bool) (x : Encl) : Nat × Nat :=
  let a := rnd r.ty r.rm r.sat r.fz r.draw { neg := neg, m := x.lo, e := x.e, sticky := true }
  let b := rnd r.ty r.rm r.sat r.fz r.draw { neg := neg, m := x.hi - 1, e := x.e, sticky := true }
  if a = b then a else if free % 2 = 0 then a else b

/-- A value just below 1 (f(a) ≠ 1). -/
def belowOne : Encl := { lo := fixOne - 1, hi := fixOne, e := -(prec : Int) }

/-- t/(1 + t) and 1/(1 + t) for an enclosed t = [lo, hi] · 2^e in (0, 1). -/
def enclSigm (t : Encl) (small : Bool) : Encl :=
  if t.e + lg t.hi < -600 then
    (if small then { lo := t.lo - t.lo / 2 ^ 500 - 1, hi := t.hi, e := t.e } else belowOne)
  else
    let one := 2 ^ (-t.e).toNat
    let k := 2 ^ 1400
    if small then { lo := t.lo * k / (one + t.hi), hi := t.hi * k / (one + t.lo) + 1, e := -1400 }
    else { lo := one * k / (one + t.hi), hi := one * k / (one + t.lo) + 1, e := -1400 }

/-- (1 − t)/(1 + t) for an enclosed t in (0, 1). -/
def enclTanh (t : Encl) : Encl :=
  if t.e + lg t.hi < -600 then belowOne
  else
    let one := 2 ^ (-t.e).toNat
    let k := 2 ^ 1400
    { lo := (one - t.hi) * k / (one + t.hi), hi := (one - t.lo) * k / (one + t.lo) + 1, e := -1400 }

/-- erf x for a fixed-point x in (0, 16): (2/√π) e^(−x²) Σ 2^n x^(2n+1) / (2n+1)!!. -/
def enclErf (x : Nat) : Encl :=
  let q := x * x / fixOne
  let sum := seriesGo (fun k t => t * 2 * q / fixOne / (2 * k + 3)) 4000 0 x 0
  let ex := enclExp true q (-(prec : Int))
  -- 2 / √π in fixed point
  let c := 2 * fixOne * fixOne / isqrt (fixPi * fixOne)
  let lo := sum * ex.lo * (c - slack) / fixOne
  let hi := (sum + slack) * (ex.hi + slack) * (c + slack) / fixOne + 1
  { lo := lo - lo / 2 ^ 500, hi := hi + hi / 2 ^ 500, e := ex.e - prec }

/-- A magnitude m · 2^e below 1 reduced to fixed point; e is above −prec for every format here. -/
def toFix (m : Nat) (e : Int) : Nat :=
  if 0 ≤ e + prec then m * 2 ^ (e + prec).toNat else m / 2 ^ (-(e + prec)).toNat

/-- sin(π t) for t = fr / 2^prec in [0, 1/2], exact argument. -/
def enclSinPi (fr : Nat) : Encl :=
  if 4 * fr ≤ fixOne then around (fixSin (fr * fixPi / fixOne))
  else around (fixCos ((fixOne / 2 - fr) * fixPi / fixOne))

/-- NaN, zero and the domain checks aside, what a transcendental gives on a finite non-zero ± m · 2^e (R266). -/
inductive TransFn where
  | exp2 | log2 | exp | ln | sinpi | cospi | tanh | sigm | atanpi | erf
deriving DecidableEq, Repr

/-- |a| mod 2 as a fixed-point number. -/
def mod2 (m : Nat) (e : Int) : Nat :=
  if 0 ≤ e then m * 2 ^ (min e.toNat 2) % 2 * fixOne else m * 2 ^ (prec - (-e).toNat) % (2 * fixOne)

/-- The magnitude m · 2^e is an integer. -/
def isInteger (m : Nat) (e : Int) : Bool := decide (0 ≤ e) || m % 2 ^ (-e).toNat == 0

/-- f of a finite non-zero operand (R265, R266). -/
def transFin (r : Rounding) (fn : TransFn) (free : Nat) (neg : Bool) (m : Nat) (e : Int) : Nat × Nat :=
  match fn with
  | .exp2 =>
    if isInteger m e then
      let k : Int := if 0 ≤ e then (m * 2 ^ e.toNat : Nat) else (m / 2 ^ (-e).toNat : Nat)
      r.put 0 (.fin false 1 (if neg then -k else k))
    else decideRnd r free false
      (if 0 ≤ e then enclExp2 neg (m * 2 ^ e.toNat) 1 else enclExp2 neg m (2 ^ (-e).toNat))
  | .exp => decideRnd r free false (enclExp neg m e)
  | .log2 =>
    if neg then canon r.ty Flag.invalid
    else if m = 2 ^ lg m then
      let k := e + lg m
      r.put 0 (.fin (decide (k < 0)) k.natAbs 0)
    else let v := signedAround (fixLog2 m e); decideRnd r free v.1 v.2
  | .ln =>
    if neg then canon r.ty Flag.invalid
    else if m = 2 ^ lg m ∧ e + lg m = 0 then r.put 0 (.fin false 0 0)
    else let v := signedAround (fixLog m e); decideRnd r free v.1 v.2
  | .sinpi =>
    if isInteger m e then r.put 0 (.fin neg 0 0)
    else
      let t := mod2 m e
      let s2 := decide (fixOne ≤ t)
      let u := t % fixOne
      let v := if fixOne < 2 * u then fixOne - u else u
      if 2 * v = fixOne then r.put 0 (.fin (neg != s2) 1 0) else decideRnd r free (neg != s2) (enclSinPi v)
  | .cospi =>
    let t := mod2 m e
    let u := if fixOne < t then 2 * fixOne - t else t
    if u = 0 then r.put 0 (.fin false 1 0)
    else if u = fixOne then r.put 0 (.fin true 1 0)
    else if 2 * u = fixOne then r.put 0 (.fin false 0 0)
    else
      -- cos(πu) = sin(π(1/2 − u)) for u < 1/2, −sin(π(u − 1/2)) above
      let s2 := decide (fixOne < 2 * u)
      let v := if s2 then u - fixOne / 2 else fixOne / 2 - u
      decideRnd r free s2 (enclSinPi v)
  | .tanh => decideRnd r free neg (enclTanh (enclExp true m (e + 1)))
  | .sigm => decideRnd r free false (enclSigm (enclExp true m e) neg)
  | .atanpi =>
    if m = 2 ^ lg m ∧ e + lg m = 0 then r.put 0 (.fin neg 1 (-2))
    else if e + lg m < 0 then
      let v := fixAtan (toFix m e)
      decideRnd r free neg { lo := (v - slack) * fixOne / (fixPi + slack), hi := (v + slack) * fixOne / (fixPi - slack) + 1,
                             e := -(prec : Int) }
    else
      let inv := if 0 ≤ e then fixOne / (m * 2 ^ e.toNat) else fixOne * 2 ^ (-e).toNat / m
      let v := fixAtan inv
      let a := (v + slack) * fixOne / (fixPi - slack) + 1
      let b := (v - slack) * fixOne / (fixPi + slack)
      decideRnd r free neg { lo := fixOne / 2 - a, hi := fixOne / 2 - b, e := -(prec : Int) }
  | .erf =>
    if 4 ≤ e + lg m then decideRnd r free neg belowOne
    else decideRnd r free neg (enclErf (toFix m e))

/-- A transcendental of one operand with its special operands (R265, R266). -/
def trans (r : Rounding) (fn : TransFn) (free a : Nat) : Nat × Nat :=
  match r.arg r.ty a with
  | .nan g => canon r.ty (nanFlags [.nan g])
  | .reserved => canon r.ty Flag.invalid
  | .inf neg =>
    match fn with
    | .exp2 | .exp => if neg then r.put 0 (.fin false 0 0) else r.put 0 (.inf false)
    | .log2 | .ln => if neg then canon r.ty Flag.invalid else r.put 0 (.inf false)
    | .sinpi | .cospi => canon r.ty Flag.invalid
    | .tanh | .erf => r.put 0 (.fin neg 1 0)
    | .sigm => if neg then r.put 0 (.fin false 0 0) else r.put 0 (.fin false 1 0)
    | .atanpi => r.put 0 (.fin neg 1 (-1))
  | .fin neg m e =>
    if m = 0 then
      match fn with
      | .exp2 | .exp | .cospi => r.put 0 (.fin false 1 0)
      | .log2 | .ln => r.put Flag.divZero (.inf true)
      | .sinpi | .tanh | .atanpi | .erf => r.put 0 (.fin neg 0 0)
      | .sigm => r.put 0 (.fin false 1 (-1))
    else transFin r fn free neg m e

end Sys2Proof.Machine
end

