-- ==== Sys2Proof/Machine/Numeric.lean ====
section
/-! DEFINITION. The Numeric Unit's instructions (R258 to R268). -/

namespace Sys2Proof.Machine

/-! ## Conversions (R259, R260) -/

/-- A conversion: one operand, read as the source type that MOD names. -/
def State.convert (s : State) (n : Niw) (g : Rounding → Ty → Nat → Nat × Nat) : Out :=
  let src := Ty.ofCode (n.opt.toNat % 16)
  s.laneWise n n.ty.isWide n.ty.width [(src, n.a)] fun f l v => g (s.rounding f n n.ty l) src (arg v 0)

/-- CVT (R259). -/
def execCvt (n : Niw) (s : State) : Out :=
  s.convert n fun r src a => let x := r.arg src a; r.put (nanFlags [x]) x

/-- CVTI (R260). -/
def execCvti (n : Niw) (s : State) : Out :=
  s.convert n fun r src a =>
    match r.arg src a with
    | .nan _ | .reserved => (0, Flag.invalid)
    | .inf neg => (wrap (if neg then Ty.lo r.ty else Ty.hi r.ty) r.ty.width, Flag.invalid)
    | .fin neg m e =>
      let (q, inexact) := rndInt r.rm r.draw { neg := neg, m := m, e := e }
      if q < Ty.lo r.ty then (wrap (Ty.lo r.ty) r.ty.width, Flag.invalid)
      else if Ty.hi r.ty < q then (wrap (Ty.hi r.ty) r.ty.width, Flag.invalid)
      else (wrap q r.ty.width, flagIf inexact Flag.inexact)

/-- CVTF (R259). -/
def execCvtf (n : Niw) (s : State) : Out :=
  s.convert n fun r src a => rnd r.ty r.rm r.sat r.fz r.draw (Exact.ofInt (asInt src a))

/-! ## Quantisation (R261 to R263) -/

/-- emax of an element format (R261). -/
def emaxOf (ty : Ty) : Int :=
  match ty with
  | .e4m3 => 8
  | .e5m2 => 15
  | _ => 2

/-- The value is an infinity or a NaN. -/
def FVal.isBad (v : FVal) : Bool := v.isNan || v.isInf

/-- |a| of a value that is finite. -/
def FVal.abs : FVal → FVal
  | .fin _ m e => .fin false m e
  | .inf _ => .inf false
  | v => v

/-- The larger of two magnitudes. -/
def FVal.max (a b : FVal) : FVal := if a.cmp b == .lt then b else a

/-- E of QNT from the largest magnitude of the block (R261). -/
def scaleOf (ty : Ty) (a : FVal) : Nat :=
  match a with
  | .fin _ m e => if m = 0 then 127 else (Max.max 0 (Min.min 254 (e + lg m - emaxOf ty + 127))).toNat
  | _ => 127

/-- QNT's scale and its lanes, with the flags that the scale itself sets (R261). -/
def quantise (ty : Ty) (fin : Bool) (rounding : Nat → Rounding) (col : List (Nat × FVal × Bool)) :
    Nat × Nat × List (Nat × Lane) :=
  let g := col.filter fun c => !c.2.2
  let bad := g.filter fun c => c.2.1.isBad
  let nan := !fin && !bad.isEmpty
  let a := (g.filter fun c => !c.2.1.isBad).foldl (fun m c => FVal.max m c.2.1.abs) (.fin false 0 0)
  let e := if nan then 0xff else scaleOf ty a
  let lane (c : Nat × FVal × Bool) : Nat × Lane :=
    if c.2.2 || fin && c.2.1.isBad then (c.1, { v := 0, psn := true })
    else if nan then (c.1, { v := 0, psn := false })
    else match c.2.1 with
      | .fin neg m x =>
        let q := { rounding c.1 with ty := ty, sat := true }.put 0 (.fin neg m (x - ((e : Int) - 127)))
        (c.1, { v := q.1, psn := false, fl := q.2 })
      | _ => (c.1, { v := 0, psn := false })
  (e, flagIf nan Flag.invalid ||| flagIf (nan && bad.any fun c => c.2.1.isNan) Flag.nanIn, col.map lane)

/-- QNT (R261): a scale token, then a value token, both in the queue at once. DEDUCED (log 98): a QNT whose effective mask is zero
sends both, each with a zero mask, though R30 speaks of one zero-mask token for each port. -/
def execQnt (n : Niw) (s : State) : Out :=
  s.withFiring fun f =>
    let pos := s.cur.pos
    match n.d with
    | .o o =>
      if !s.room pos f.ctx o 2 then .next (s.issueEarly f [])
      else
        let eff := f.eff n.pred
        let lanes := f.active n.pred
        let send (s : State) (e : Nat) (poison : Nat) (ls : List (Nat × Lane)) : State :=
          let t := valueTok f eff poison false ((List.range f.len).map fun l => if bit eff l then BitVec.ofNat 64 e else 0)
          ((s.enqueue pos f.ctx o false false { t with kind := .scale }).writeDst pos s.cur.slot f n.d false eff ls).advance
            pos s.cur.slot
        if f.skipped then
          .next (send (s.countSkip pos lanes.length) 0 eff (lanes.map fun l => (l, { v := 0, psn := true })))
        else
          let src := Ty.ofCode (n.opt.toNat % 16)
          let col := (s.column n f src 0 n.a).map fun c => (c.1, fvalFz src n.fz c.2.1, c.2.2)
          let (e, fl, ls) := quantise n.ty (bit n.opt.toNat 4) (s.rounding f n n.ty) col
          .next (send (s.raise pos f.ctx (fl ||| laneFlags ls)) e 0 ls)
    | _ => .next s

/-- The scale attached to a lane of the token on a port (R256). -/
def Firing.scale (f : Firing) (a : Sel) (l : Nat) : Nat :=
  match a with
  | .p p => match f.portIn p with
    | some i => i.scales.getD l 127
    | none => 127
  | _ => 127

/-- A dequantised lane (R262). -/
def dequantise (r : Rounding) (src : Ty) (s c : Nat) : Nat × Nat :=
  match r.arg src c with
  | .reserved => canon r.ty Flag.invalid
  | v =>
    if s = 0xff then canon r.ty Flag.invalid
    else match v with
      | .nan _ => canon r.ty Flag.nanIn
      | .inf neg => r.put 0 (.inf neg)
      | .fin neg m e => r.put 0 (.fin neg m (e + ((s : Int) - 127)))
      | .reserved => canon r.ty Flag.invalid

/-- DQNT (R262): the scale comes from B, or from the scale token attached to A's lanes. -/
def execDqnt (n : Niw) (s : State) : Out :=
  let src := Ty.ofCode (n.opt.toNat % 16)
  s.laneWise n false n.ty.width [(src, n.a), (.n8, n.b)] fun f l v =>
    dequantise (s.rounding f n n.ty l) src (if n.b = .none then f.scale n.a l else arg v 1) (arg v 0)

/-- The maximum of AMAXB over its lanes (R263): the pattern and the flags. -/
def amax (ty : Ty) (fin : Bool) (vs : List FVal) : Nat × Nat :=
  if fin then (exactCode ty ((vs.filter fun v => !v.isBad).foldl (fun m v => FVal.max m v.abs) (.fin false 0 0)), 0)
  else if vs.any (·.isNan) then canon ty Flag.nanIn
  else (exactCode ty (vs.foldl (fun m v => FVal.max m v.abs) (.fin false 0 0)), 0)

/-- AMAXB (R263). -/
def execAmaxb (n : Niw) (s : State) : Out :=
  s.result n false n.ty.width fun f =>
    let col := s.column n f n.ty 0 n.a
    let (v, fl) := amax n.ty (bit n.opt.toNat 4) (col.map fun c => fvalFz n.ty n.fz c.2.1)
    let psn := col.any fun c => c.2.2
    col.map fun c => (c.1, { v := v, psn := psn, fl := fl })

/-! ## Random bits (R264) -/

/-- RNG (R264). -/
def execRng (n : Niw) (s : State) : Out :=
  s.laneWise n false 32 [(.n32, n.a), (.n32, n.b)] fun f _ v =>
    let r := prDraw (s.ctx s.cur.pos f.ctx).srk (2 ^ 63 + arg v 1 % 2 ^ 31 * 2 ^ 32 + arg v 0)
    if n.ty = .f32 then (exactCode .f32 (.fin false (r / 2 ^ 8) (-24)), 0) else (r, 0)

/-! ## Transcendentals and division (R265, R266) -/

/-- A correctly rounded function of one operand. -/
def State.unary (s : State) (n : Niw) (g : Rounding → Nat → Nat → Nat × Nat) : Out :=
  s.laneWise n n.ty.isWide n.ty.width [(n.ty, n.a)] fun f l v => g (s.rounding f n n.ty l) (s.free (512 + l)) (arg v 0)

/-- EXP2 (R266): 2^a. -/
def execExp2 (n : Niw) (s : State) : Out := s.unary n fun r x a => trans r .exp2 x a
/-- LOG2 (R266): log2 a. -/
def execLog2 (n : Niw) (s : State) : Out := s.unary n fun r x a => trans r .log2 x a
/-- EXP (R266): e^a. -/
def execExp (n : Niw) (s : State) : Out := s.unary n fun r x a => trans r .exp x a
/-- LN (R266): ln a. -/
def execLn (n : Niw) (s : State) : Out := s.unary n fun r x a => trans r .ln x a
/-- RCP (R266): 1/a. -/
def execRcp (n : Niw) (s : State) : Out := s.unary n fun r _ a => r.rcp a
/-- RSQ (R266): 1/√a. -/
def execRsq (n : Niw) (s : State) : Out := s.unary n fun r _ a => r.rsq a
/-- SQRT (R266): √a. -/
def execSqrt (n : Niw) (s : State) : Out := s.unary n fun r _ a => r.sqrt a
/-- SINPI (R266): sin(πa). -/
def execSinpi (n : Niw) (s : State) : Out := s.unary n fun r x a => trans r .sinpi x a
/-- COSPI (R266): cos(πa). -/
def execCospi (n : Niw) (s : State) : Out := s.unary n fun r x a => trans r .cospi x a
/-- TANH (R266): tanh a. -/
def execTanh (n : Niw) (s : State) : Out := s.unary n fun r x a => trans r .tanh x a
/-- SIGM (R266): 1/(1 + e^−a). -/
def execSigm (n : Niw) (s : State) : Out := s.unary n fun r x a => trans r .sigm x a
/-- ATANPI (R266): atan(a)/π. -/
def execAtanpi (n : Niw) (s : State) : Out := s.unary n fun r x a => trans r .atanpi x a
/-- ERF (R266): erf a. -/
def execErf (n : Niw) (s : State) : Out := s.unary n fun r x a => trans r .erf x a
/-- DIV (R266): a/b. -/
def execDiv (n : Niw) (s : State) : Out := s.floatOp n fun r a b _ => r.div a b

/-! ## F64 arithmetic (R267) -/

/-- DFMA (R267). -/
def execDfma (n : Niw) (s : State) : Out := s.floatOp n fun r a b c => r.fma a b c false false
/-- DADD (R267). -/
def execDadd (n : Niw) (s : State) : Out := s.floatOp n fun r a b _ => r.add a b false
/-- DMUL (R267). -/
def execDmul (n : Niw) (s : State) : Out := s.floatOp n fun r a b _ => r.mul a b
/-- DDIV (R267). -/
def execDdiv (n : Niw) (s : State) : Out := s.floatOp n fun r a b _ => r.div a b
/-- DSQRT (R267). -/
def execDsqrt (n : Niw) (s : State) : Out := s.floatOp n fun r a _ _ => r.sqrt a

/-! ## Integer division (R268) -/

/-- IDIV (R268): the quotient, truncated; 0 with Divide-by-zero when b is 0. -/
def execIdiv (n : Niw) (s : State) : Out :=
  s.laneWise n n.ty.isWide n.ty.width [(n.ty, n.a), (n.ty, n.b)] fun _ _ v =>
    let b := asInt n.ty (arg v 1)
    if b = 0 then (0, Flag.divZero) else ires n.ty n.sat (Int.tdiv (asInt n.ty (arg v 0)) b)

/-- IREM (R268): the remainder, with the sign of a; a with Divide-by-zero when b is 0. -/
def execIrem (n : Niw) (s : State) : Out :=
  s.laneWise n n.ty.isWide n.ty.width [(n.ty, n.a), (n.ty, n.b)] fun _ _ v =>
    let a := asInt n.ty (arg v 0)
    let b := asInt n.ty (arg v 1)
    if b = 0 then (arg v 0, Flag.divZero) else (wrap (Int.tmod a b) n.ty.width, 0)

end Sys2Proof.Machine
end

