-- ==== Sys2Proof/Machine/CopyOps.lean ====
section
/-! DEFINITION. What the Copy Engine's instructions and events share: job cards (R76), addresses (R275, R276), footprints
(R277), pieces (R281 to R298) and completion (R278, R280). -/

namespace Sys2Proof.Machine

/-! ## Engines' accesses -/

/-- Why an engine's access fails: cause, code, AKIND and address. -/
structure LocFault where
  cause : Nat
  code : Nat
  akind : Nat
  addr : Nat
deriving DecidableEq, Repr

/-- A range cut at lines: address and length. -/
def linePieces (a k : Nat) : List (Nat × Nat) :=
  (lineStarts a k).map fun b => (b, min (a + k) (b / 128 * 128 + 128) - b)

/-- Where uncorrectable data were first met, as a record's AKIND and ADDR give it (R502). -/
abbrev Hurt := Option (Nat × Nat)

/-- G-space bytes as an engine reads them, at their home slices (R279): the state after the read events, the bytes, and
the first line among them that an error poisoned (R502). `meter` is the partition that pays for the events (R497). -/
def State.gRead (s : State) (meter : Option Nat) (part va k : Nat) : Sum LocFault (State × List Byte × Hurt) :=
  (linePieces va k).foldl (fun (acc : Sum LocFault (State × List Byte × Hurt)) p =>
    match acc with
    | .inl e => .inl e
    | .inr (s, bs, bad) =>
      match s.reach part p.1 false with
      | .inl (cause, code, _) => .inl { cause := cause, code := code, akind := 1, addr := p.1 % 2 ^ 48 }
      | .inr (spa, dev) =>
        let s := s.unitRead meter (lineOf spa) dev
        .inr (s, bs ++ Memory.reads s.mem spa p.2, bad <|> (if s.badLines.contains (lineOf spa) then some (1, p.1 % 2 ^ 48) else none)))
    (.inr (s, [], none))

/-- The physical places of a G-space range that an engine writes, checked first (R283: a faulting piece writes nothing). -/
def State.gPlaces (s : State) (part va k : Nat) : Sum LocFault (List (Nat × Nat × Bool)) :=
  (linePieces va k).foldl (fun (acc : Sum LocFault (List (Nat × Nat × Bool))) p =>
    match acc with
    | .inl e => .inl e
    | .inr l =>
      match s.reach part p.1 true with
      | .inl (cause, code, _) => .inl { cause := cause, code := code, akind := 1, addr := p.1 % 2 ^ 48 }
      | .inr (spa, dev) => .inr (l ++ [(spa, p.2, dev)])) (.inr [])

/-- Who performs an engine's writes, as a second-tier line names it (R45): the engine, its context and its frame. -/
def engineWriter (pos : Coord) (k frame : Nat) : List (Coord × Nat × Nat × Nat) := [(pos, k, frame, 5)]

/-- Bytes written at checked places, one write event a line; `sys` writes second-tier lines through, and what another scope leaves there is
owed by its writer `ws` (R45, R279, R346). -/
def State.gWrite (s : State) (meter : Option Nat) (sys : Bool) (ws : List (Coord × Nat × Nat × Nat)) : List (Nat × Nat × Bool) → List Byte → State
  | [], _ => s
  | (spa, k, dev) :: rest, bs =>
    let w := s.unitWrite meter (lineOf spa) dev (sys && s.dev.inTier spa) (cellsAt spa (bs.take k))
    State.gWrite (w.1.oweTier (lineOf spa) ws false false) meter sys ws rest (bs.drop k)

/-! ## Job cards (R76) -/

/-- A job card's fields. -/
structure Card where
  opc : Nat
  sty : Ty
  dty : Ty
  scope : Nat
  rrw : Nat
  dimm1 : Nat
  opt : Nat
  jobid : Nat
  ssp : Nat
  src : Nat
  dsp : Nat
  dst : Nat
  n2 : Nat
  n1 : Nat
  n0 : Nat
  sstd1 : Int
  sstd2 : Int
  dstd1 : Int
  dstd2 : Int
  xarg : Nat
  fpr : Nat
  fpw : Nat
deriving DecidableEq, Repr

/-- The fields of a card's words. -/
def cardOf (ws : List Word) : Card :=
  let w (i : Nat) : Nat := (ws.getD i 0).toNat
  { opc := bits (w 0) 56 8, sty := Ty.ofCode (bits (w 0) 52 4), dty := Ty.ofCode (bits (w 0) 48 4), scope := bits (w 0) 46 2,
    rrw := bits (w 0) 43 3, dimm1 := bits (w 0) 41 2, opt := bits (w 0) 32 9, jobid := bits (w 0) 16 16,
    ssp := bits (w 1) 62 2, src := bits (w 1) 0 48, dsp := bits (w 2) 62 2, dst := bits (w 2) 0 48,
    n2 := bits (w 3) 44 20 + 1, n1 := bits (w 3) 24 20 + 1, n0 := bits (w 3) 0 24,
    sstd1 := sx (w 4) 32, sstd2 := sx (w 4 / 2 ^ 32) 32, dstd1 := sx (w 5) 32, dstd2 := sx (w 5 / 2 ^ 32) 32,
    xarg := w 6, fpr := bits (w 7) 48 16, fpw := bits (w 7) 32 16 }

/-- The card with its highest dimension's count replaced (R273). -/
def Card.counted (c : Card) (cnt : Nat) : Card :=
  match c.dimm1 with
  | 0 => { c with n0 := cnt }
  | 1 => { c with n1 := cnt }
  | _ => { c with n2 := cnt }

/-- The count of the card's highest dimension. -/
def Card.top (c : Card) : Nat := match c.dimm1 with | 0 => c.n0 | 1 => c.n1 | _ => c.n2
/-- The greatest count of the highest dimension's field. -/
def Card.limit (c : Card) : Nat := match c.dimm1 with | 0 => 2 ^ 24 - 1 | _ => 2 ^ 20
/-- A job that moves tiles. -/
def Card.tiles (c : Card) : Bool := decide (0xb4 ≤ c.opc ∧ c.opc ≤ 0xb7)
/-- OPT's DENSE (R287). -/
def Card.dense (c : Card) : Bool := bit c.opt 6
/-- The job converts (R288, R292). -/
def Card.converts (c : Card) : Bool := c.opc == 0xba || (c.sty != c.dty && c.opc != 0xb8 && !c.tiles)
/-- N0's granule (R276, R287). -/
def Card.granule (c : Card) : Nat :=
  if c.tiles then 64 else if c.opc = 0xba then 4 * elemBits c.sty
  else if c.opc = 0xb8 then ceilDiv (elemBits c.dty) 8 else ceilDiv (elemBits c.sty) 8
/-- Source bytes of a piece, and the pieces of a row (R281). -/
def Card.unit (c : Card) : Nat := if c.tiles then 64 else if c.opc = 0xba then 4 * elemBits c.sty else 4096
def Card.segs (c : Card) : Nat := ceilDiv c.n0 c.unit
/-- Pieces of the job. -/
def Card.pieces (c : Card) : Nat := if c.opc = 0xbb then 0 else c.n2 * c.n1 * c.segs
/-- Bytes that `k` bytes of a row take on the source and on the destination side. -/
def Card.srcLen (c : Card) (k : Nat) : Nat := if c.opc = 0xb5 || ((c.opc == 0xb6 || c.opc == 0xb7) && !c.dense) then 2 * k else k
def Card.dstLen (c : Card) (k : Nat) : Nat :=
  if c.opc = 0xb4 then 2 * k
  else if c.tiles || c.opc == 0xb8 then k
  else ceilDiv (k * 8 / elemBits c.sty * elemBits c.dty) 8
/-- Bytes of the scale array (R286). -/
def Card.scaleLen (c : Card) : Nat := if c.tiles then c.pieces * tileBlocks c.sty else c.pieces
/-- The address field of XARG. -/
def Card.xaddr (c : Card) : Nat := c.xarg % 2 ^ 48

/-! ## Places (R275) -/

/-- A place that a job addresses. -/
inductive Loc where
  | g (va : Int)
  | s (me : Coord) (win : Nat) (off : Int)
  /-- A virtual cluster outside the grid. -/
  | outside (a : Nat)
deriving DecidableEq, Repr

/-- The place that an address field names, shifted (R275), in a window set. `dx` and `dy` move the virtual cluster (R289). -/
def Region.loc (r : Region) (wset : Nat) (sp field : Nat) (shift : Int) (dx dy : Nat) : Loc :=
  if sp = 1 then .g (field + shift)
  else
    let vx := 4 * (bits field 40 4 + dx)
    let vy := 4 * (bits field 36 4 + dy)
    if r.vw ≤ vx ∨ r.vh ≤ vy then .outside field
    else
      let me := (clusterMes (clusterOf (r.phys vx vy))).getD (bits field 33 3) (r.phys vx vy)
      .s me ((wset * r.n + r.fold vx vy) * r.scratch) (bits field 0 17 + shift)

/-- The same place `d` bytes on. -/
def Loc.plus (l : Loc) (d : Int) : Loc :=
  match l with
  | .g va => .g (va + d)
  | .s me w o => .s me w (o + d)
  | l => l

/-- Bounds and alignment of a place (R275, R276). -/
def Loc.check (l : Loc) (r : Region) (k align : Nat) : Option LocFault :=
  match l with
  | .g va => if wrap va 48 % align ≠ 0 then some { cause := Cause.align, code := 0, akind := 1, addr := wrap va 48 } else none
  | .s _ _ o =>
    if o < 0 ∨ (r.scratch : Int) < o + k then some { cause := Cause.sbounds, code := 0, akind := 2, addr := wrap o 48 }
    else if wrap o 48 % align ≠ 0 then some { cause := Cause.align, code := 0, akind := 2, addr := wrap o 48 } else none
  | .outside a => some { cause := Cause.sbounds, code := 1, akind := 2, addr := a }

/-- Bytes read at a place. -/
def State.locRead (s : State) (r : Region) (l : Loc) (k align : Nat) : Sum LocFault (State × List Byte × Hurt) :=
  match l.check r k align with
  | some e => .inl e
  | none =>
    match l with
    | .g va => s.gRead (s.partFor r.id) r.part (wrap va 48) k
    | .s me w o => .inr (s, (List.range k).map fun i => (s.me me).byte (w + wrap o 48 + i),
        if (s.me me).hurt (w + wrap o 48) k then some (2, wrap o 48) else none)
    | .outside a => .inl { cause := Cause.sbounds, code := 1, akind := 2, addr := a }

/-- A write at a place, checked first: what performs it. -/
def State.locWrite (s : State) (r : Region) (sys : Bool) (ws : List (Coord × Nat × Nat × Nat)) (l : Loc) (k align : Nat) : Sum LocFault (State → List Byte → State) :=
  match l.check r k align with
  | some e => .inl e
  | none =>
    match l with
    | .g va =>
      match s.gPlaces r.part (wrap va 48) k with
      | .inl e => .inl e
      | .inr ps => .inr fun s bs => s.gWrite (s.partFor r.id) sys ws ps bs
    | .s me w o => .inr fun s bs => s.modMe me fun m => m.put (w + wrap o 48) bs
    | .outside a => .inl { cause := Cause.sbounds, code := 1, akind := 2, addr := a }

/-! ## Footprints (R277) -/

/-- The space of a footprint range: G-space, a window of an ME, or the whole of S-space. -/
inductive Space where
  | g
  | win (me : Coord) (w : Nat)
  | allS
deriving DecidableEq, Repr

/-- A footprint range: its space and its bytes [lo, hi). -/
structure Range where
  space : Space
  lo : Int
  hi : Int
deriving DecidableEq, Repr

/-- The range from a place. -/
def Loc.range (l : Loc) (lo hi : Int) : List Range :=
  match l with
  | .g va => [{ space := .g, lo := va + lo, hi := va + hi }]
  | .s me w o => [{ space := .win me w, lo := o + lo, hi := o + hi }]
  | .outside _ => []

/-- Lowest and highest offset that strides add over their counts. -/
def spread (n1 n2 : Nat) (t1 t2 : Int) : Int × Int :=
  let a : Int := ((n1 : Int) - 1) * t1
  let b : Int := ((n2 : Int) - 1) * t2
  (min 0 a + min 0 b, max 0 a + max 0 b)

/-- The ranges of a footprint-table entry and of those that NEXT links to it (R96), shifted. -/
def Region.fpRanges (r : Region) (wset : Nat) (shift : Int) : Nat → Nat → List Range
  | 0, _ => []
  | fuel + 1, i =>
    match r.fpTab[i]? with
    | none => []
    | some (w0, w1) =>
      let l := r.loc wset (bits w0.toNat 62 2) (bits w0.toNat 0 48) shift 0 0
      l.range 0 (bits w1.toNat 0 48) ++
        (if bits w1.toNat 48 16 = 0xffff then [] else Region.fpRanges r wset shift fuel (bits w1.toNat 48 16))

/-- The window set of a context's block. -/
def State.wsetOf (s : State) (r : Region) (pos : Coord) (k : Nat) : Nat :=
  match (s.ctx pos k).owner with | some o => (r.blk o.blk).wset | none => 0

/-- A job's card with its count. -/
def Job.c (j : Job) : Card := (cardOf j.card).counted j.cnt

/-- The read footprint of a job (R277); a stream-position side has none, and the source of CPYC is the whole of its space. -/
def Job.reads (j : Job) (r : Region) : List Range :=
  let c := j.c
  if c.ssp = 2 then []
  else if c.fpr ≠ 0xffff then r.fpRanges j.wset j.src r.fpTab.length c.fpr
  else
    let sp := spread c.n1 c.n2 c.sstd1 c.sstd2
    let l := r.loc j.wset c.ssp c.src j.src 0 0
    let main :=
      if c.opc = 0xb8 then []
      else if c.opc = 0xb9 then [{ space := if c.ssp = 1 then .g else .allS, lo := 0, hi := 2 ^ 48 }]
      else l.range sp.1 (sp.2 + c.srcLen c.n0)
    let extra :=
      if c.opc = 0xb9 then [{ space := .g, lo := c.xaddr, hi := c.xaddr + 4 * c.n1 }]
      else if (c.opc = 0xb4 ∨ c.opc = 0xb6 ∨ c.opc = 0xb7) ∧ c.xaddr ≠ 0 then
        [{ space := .g, lo := c.xaddr, hi := c.xaddr + c.scaleLen }]
      else []
    main ++ extra

/-- The write footprint of a job (R277); a multicast's covers every destination. -/
def Job.writes (j : Job) (r : Region) : List Range :=
  let c := j.c
  if c.dsp = 2 then []
  else if c.fpw ≠ 0xffff then r.fpRanges j.wset j.dst r.fpTab.length c.fpw
  else
    let sp := spread c.n1 c.n2 c.dstd1 c.dstd2
    let side (dx dy : Nat) : List Range := (r.loc j.wset c.dsp c.dst j.dst dx dy).range sp.1 (sp.2 + c.dstLen c.n0)
    let main :=
      if c.opc = 0xb3 then (maskLanes c.xarg 16).flatMap fun d => side (d % 4) (d / 4)
      else side 0 0
    let extra := if (c.opc = 0xba ∨ c.opc = 0xb5) ∧ c.xaddr ≠ 0 then
      [{ space := .g, lo := c.xaddr, hi := c.xaddr + c.scaleLen }] else []
    main ++ extra

/-- Two ranges have a byte in common (R277). -/
def Range.meets (x y : Range) : Bool :=
  decide (x.lo < x.hi ∧ y.lo < y.hi) &&
    match x.space, y.space with
    | .g, .g => decide (x.lo < y.hi ∧ y.lo < x.hi)
    | .win a v, .win b w => decide (a = b ∧ v = w ∧ x.lo < y.hi ∧ y.lo < x.hi)
    | .allS, .win .. | .win .., .allS | .allS, .allS => true
    | .g, _ | _, .g => false

/-- Two footprints overlap. -/
def overlaps (a b : List Range) : Bool := a.any fun x => b.any x.meets

/-- J has an edge from I (R278). -/
def Region.edge (r : Region) (i j : Job) : Bool :=
  overlaps (j.reads r) (i.writes r) || overlaps (j.writes r) (i.reads r) || overlaps (j.writes r) (i.writes r)

/-- A Copy Engine. -/
def State.copy (s : State) (c : Coord) : Copy := s.copies.get {} c
/-- Change a Copy Engine. -/
def State.modCopy (s : State) (c : Coord) (f : Copy → Copy) : State := { s with copies := s.copies.set c (f (s.copy c)) }
/-- Change a job. -/
def State.modJob (s : State) (c : Coord) (id : Nat) (f : Job → Job) : State :=
  s.modCopy c fun x => { x with jobs := x.jobs.map fun j => if j.id == id then f j else j }
/-- Change an instruction's shared receipt. -/
def State.modCpOp (s : State) (c : Coord) (id : Nat) (f : CpOp → CpOp) : State :=
  s.modCopy c fun x => { x with ops := x.ops.map fun o => if o.id == id then f o else o }

/-- Where a piece stands: segment, i1 and i2. -/
def Job.place (j : Job) : Nat × Nat × Nat :=
  let c := j.c
  (j.piece % c.segs, j.piece / c.segs % c.n1, j.piece / (c.segs * c.n1))

/-- The number by which a record names a piece: of a CPYC its i1 (R283, R291). -/
def Job.pieceName (j : Job) : Nat := if j.opc = 0xb9 then j.place.2.1 else j.piece

/-- The receipt of an instruction whose instances have all completed (R273, R280). -/
def State.cpReceipt (s : State) (pos : Coord) (id : Nat) : State :=
  match (s.copy pos).ops.find? fun o => o.id == id with
  | none => s
  | some o =>
    if o.issued && o.left == 0 then
      let s := s.modCopy pos fun x => { x with ops := x.ops.filter fun o => o.id != id }
      if o.rrw = 0 then s
      else ((s.certified pos o.ctx o.frame).sendReceipt pos o.ctx o.rrw o.frame o.iter o.flags o.scope 0 o.poisoned).repay pos o.ctx o.frame 1
    else s

/-- The lane, the piece and the card of a job as a record gives them (R283, R289): i1 names a CPYC's piece, whichever of the row's segments
faults (R291). -/
def State.jobInfo (s : State) (pos : Coord) (j : Job) (cause detail : Nat) : FaultInfo :=
  { cause := cause, detail := detail, pos := pos, nk := 4, ctx := j.ctx, frame := j.frame, iter := j.iter, len := j.len,
    opc := j.opc, seqix := j.seqix, pmask := j.pmask, lmask := j.lmask, jobid := j.c.jobid, auxv := j.pieceName,
    flags := (s.ctx pos j.ctx).sf }

/-- An instance ends (R278): its edges end, its lane's share of the receipt is due, and a multicast's failed destinations are
recorded (R289). -/
def State.cpEnd (s : State) (pos : Coord) (r : Region) (j : Job) : State :=
  let s := s.modCopy pos fun x => { x with jobs := x.jobs.filter fun i => i.id != j.id, jobCnt := satAdd 32 x.jobCnt 1 }
  let s := if j.failed = 0 then s
    else s.postFor r .nothing { s.jobInfo pos j Cause.mcastPart (Cause.sbounds + 256 * j.failCode) with auxv := j.failed, parked := false }
  (s.modCpOp pos j.op fun o => { o with left := o.left - 1, poisoned := o.poisoned || j.failed != 0 }).cpReceipt pos j.op

/-- An engine's fault parks the frame with one record (R283). While the device's queue is full, the record waits, as `w` keeps it (R495,
R504). -/
def State.engineFault (s : State) (r : Region) (hold : Hold) (i : FaultInfo) (w k : State → State) : State :=
  if !s.canPost r.part then w (s.waitParked r i.frame)
  else (k (s.postFor r hold { i with parked := true })).parkFrame r i.frame

/-! ## Pieces (R281) -/

/-- How a job's conversion rounds its destination element `e` (R252, R288). -/
def State.cpRound (s : State) (pos : Coord) (j : Job) (e : Nat) : Rounding :=
  let x := s.ctx pos j.ctx
  let c := j.c
  { ty := c.dty, rm := ((Rnd.ofCode (c.opt % 8)).getD .rne).resolve x.drm, sat := bit c.opt 3, fz := bit c.opt 4,
    draw := prDraw x.srk (2 ^ 62 + ((j.iter + j.lane) * 16 + j.seqix) * 2 ^ 40 + e % 2 ^ 40) }

/-- Bytes that hold `n` elements; the spare half of a last byte is a free value. -/
def State.packBytes (s : State) (ty : Ty) (cs : List Nat) : List Byte :=
  let k := cs.length * elemBits ty
  let v := packElems ty cs + (if k % 8 = 0 then 0 else 2 ^ k * (s.free 1024 % 16))
  toBytes (ceilDiv k 8) v

/-- Elements converted (R288): the bytes and the flags. -/
def State.cpConvert (s : State) (pos : Coord) (j : Job) (first : Nat) (bs : List Byte) : List Byte × Nat :=
  let c := j.c
  if !c.converts then (bs, 0)
  else
    let v := ofBytes bs
    let out := (List.range (bs.length * 8 / elemBits c.sty)).map fun i =>
      let r := s.cpRound pos j (first + i)
      let x := r.arg c.sty (packedAt c.sty v i)
      r.put (nanFlags [x]) x
    (s.packBytes c.dty (out.map (·.1)), out.foldl (fun f x => f ||| x.2) 0)

/-- What a piece does when no access of it fails: the state after, its flags, and the uncorrectable data that it read. -/
structure PieceOut where
  s : State
  flags : Nat := 0
  bad : Hurt := none

/-- Destinations of a multicast that fail, and the code of the lowest (R289). -/
def Job.mcastFails (j : Job) (r : Region) : List (Nat × Nat) :=
  let c := j.c
  let sp := spread c.n1 c.n2 c.dstd1 c.dstd2
  (maskLanes c.xarg 16).filterMap fun d =>
    match r.loc j.wset c.dsp c.dst j.dst (d % 4) (d / 4) with
    | .s _ _ o => if o + sp.1 < 0 ∨ (r.scratch : Int) < o + sp.2 + c.dstLen c.n0 then some (d, 0) else none
    | .outside _ => some (d, 1)
    | .g _ => none

/-- The scales that a tile takes from an array in G-space (R286, R293). -/
def State.scalesIn (s : State) (r : Region) (j : Job) : Sum LocFault (State × List Nat × Hurt) :=
  let c := j.c
  let n := tileBlocks c.sty
  if c.xaddr = 0 then .inr (s, [], none)
  else match s.gRead (s.partFor r.id) r.part (c.xaddr + j.piece * n) n with
    | .inl e => .inl e
    | .inr (s, bs, bad) => .inr (s, bs.map (·.toNat), bad)

/-- The tile of a CPYZ, CPYA or CPYB piece from its source (R293, R297, R298). An address that is not a multiple of 128 is no fault: the
manual aligns a tile to its line (R284) and gives its misplacement no check, and the model reads the 128 bytes from there (DESIGN CHOICE,
log 94). -/
def State.tileIn (s : State) (r : Region) (j : Job) : Sum LocFault (State × List Word × Hurt) :=
  let c := j.c
  let (seg, i1, i2) := j.place
  let l := (r.loc j.wset c.ssp c.src j.src 0 0).plus (i1 * c.sstd1 + i2 * c.sstd2)
  if c.opc = 0xb4 || c.dense then
    match s.locRead r (l.plus (64 * seg : Nat)) 64 1 with
    | .inl e => .inl e
    | .inr (s, bs, bad) =>
      match s.scalesIn r j with
      | .inl e => .inl e
      | .inr (s, sc, bad') => .inr (s, buildTile c.sty bs sc, bad <|> bad')
  else
    match s.locRead r (l.plus (128 * seg : Nat)) 128 1 with
    | .inl e => .inl e
    | .inr (s, bs, bad) => .inr (s, tileOfBytes bs, bad)

/-- Output scales of CPYX and CPYQ, stored when there is an array (R286). -/
def State.scalesOut (s : State) (pos : Coord) (r : Region) (j : Job) (n : Nat) : Sum LocFault (State → List Nat → State) :=
  let c := j.c
  if c.xaddr = 0 then .inr fun s _ => s
  else match s.gPlaces r.part (c.xaddr + j.piece * n) n with
    | .inl e => .inl e
    | .inr ps => .inr fun s l => s.gWrite (s.partFor r.id) (c.scope == 3) (engineWriter pos j.ctx j.frame) ps (l.map fun v => BitVec.ofNat 8 v)

/-- One piece of a job whose destination has addresses (R281, R288 to R294). -/
def State.pieceOf (s : State) (pos : Coord) (r : Region) (j : Job) : Sum LocFault PieceOut :=
  let c := j.c
  let sys := c.scope == 3
  let ws := engineWriter pos j.ctx j.frame
  let (seg, i1, i2) := j.place
  let n := min c.unit (c.n0 - c.unit * seg)
  let srow := (r.loc j.wset c.ssp c.src j.src 0 0).plus (i1 * c.sstd1 + i2 * c.sstd2)
  let drow (dx dy : Nat) : Loc := (r.loc j.wset c.dsp c.dst j.dst dx dy).plus (i1 * c.dstd1 + i2 * c.dstd2)
  let ss := if c.converts then ceilDiv (elemBits c.sty) 8 else 1
  let sd := if c.converts then ceilDiv (elemBits c.dty) 8 else 1
  match c.opc with
  | 0xb4 =>
    match s.tileIn r j, s.locWrite r sys ws ((drow 0 0).plus (128 * seg : Nat)) 128 1 with
    | .inl e, _ => .inl e
    | _, .inl e => .inl e
    | .inr (s, t, bad), .inr w => .inr { s := w s (tileBytes t), bad := bad }
  | 0xb5 =>
    match s.locRead r (srow.plus (128 * seg : Nat)) 128 1, s.locWrite r sys ws ((drow 0 0).plus (64 * seg : Nat)) 64 1,
        s.scalesOut pos r j (tileBlocks c.sty) with
    | .inl e, _, _ => .inl e
    | .inr (s, bs, bad), dw, so =>
      let t := tileOfBytes bs
      match tileFault c.sty t with
      | some code =>
        let a := srow.plus (128 * seg : Nat)
        .inl { cause := Cause.bitmap, code := code, akind := if c.ssp = 1 then 1 else 2,
               addr := match a with | .g va => wrap va 48 | .s _ _ o => wrap o 48 | .outside x => x }
      | none =>
        match dw, so with
        | .inl e, _ => .inl e
        | _, .inl e => .inl e
        | .inr w, .inr z =>
          .inr { s := z (w s (expandTile c.sty t)) ((List.range (tileBlocks c.sty)).map (tileScale t)), bad := bad }
  | 0xb8 =>
    match s.locWrite r sys ws ((drow 0 0).plus (4096 * seg : Nat)) n 1 with
    | .inl e => .inl e
    | .inr w => .inr { s := w s ((List.range n).map fun i => BitVec.ofNat 8 (bits c.xarg (8 * (i % 8)) 8)) }
  | 0xba =>
    let dn := 4 * elemBits c.dty
    match s.locRead r (srow.plus (n * seg : Nat)) n ss, s.locWrite r sys ws ((drow 0 0).plus (dn * seg : Nat)) dn sd, s.scalesOut pos r j 1 with
    | .inl e, _, _ => .inl e
    | _, .inl e, _ => .inl e
    | _, _, .inl e => .inl e
    | .inr (s, bs, bad), .inr w, .inr z =>
      let v := ofBytes bs
      let col := (List.range 32).map fun i => (i, (s.cpRound pos j 0).arg c.sty (packedAt c.sty v i), false)
      let (e, fl, ls) := quantise c.dty (bit c.opt 5) (fun i => s.cpRound pos j (32 * j.piece + i)) col
      .inr { s := z (w s (s.packBytes c.dty (ls.map fun x => x.2.v))) [e], flags := fl ||| laneFlags ls, bad := bad }
  | 0xb3 =>
    let fails := j.mcastFails r
    let off := c.dstLen (c.unit * seg)
    match s.locRead r (srow.plus (c.unit * seg : Nat)) n ss with
    | .inl e => .inl e
    | .inr (s, bs, bad) =>
      let first := ((i2 * c.n1 + i1) * c.n0 + c.unit * seg) * 8 / elemBits c.sty
      let (out, fl) := s.cpConvert pos j first bs
      let good := (maskLanes c.xarg 16).filter fun d => !fails.any fun f => f.1 == d
      match good.findSome? fun d => ((drow (d % 4) (d / 4)).plus off).check r out.length sd with
      | some e => .inl e
      | none =>
        .inr { s := good.foldl (fun s d =>
                 match s.locWrite r sys ws ((drow (d % 4) (d / 4)).plus off) out.length sd with
                 | .inr w => w s out
                 | .inl _ => s) s, flags := fl, bad := bad }
  | opc =>
    -- CPY, CPY2, CPY3 and CPYC
    let row : Sum LocFault (State × Loc × Hurt) :=
      if opc = 0xb9 then
        match s.gRead (s.partFor r.id) r.part (c.xaddr + 4 * i1) 4 with
        | .inl e => .inl e
        | .inr (s, bs, bad) => .inr (s, (r.loc j.wset c.ssp c.src j.src 0 0).plus ((ofBytes bs : Int) * c.sstd1), bad)
      else .inr (s, srow, none)
    match row with
    | .inl e => .inl e
    | .inr (s, row, bad') =>
      match s.locRead r (row.plus (c.unit * seg : Nat)) n ss with
      | .inl e => .inl e
      | .inr (s, bs, bad) =>
        let first := ((i2 * c.n1 + i1) * c.n0 + c.unit * seg) * 8 / elemBits c.sty
        let (out, fl) := s.cpConvert pos j first bs
        match s.locWrite r sys ws ((drow 0 0).plus (c.dstLen (c.unit * seg))) out.length sd with
        | .inl e => .inl e
        | .inr w => .inr { s := w s out, flags := fl, bad := bad' <|> bad }

end Sys2Proof.Machine
end

