-- ==== Sys2Proof/Machine/Copy.lean ====
section
/-! DEFINITION. The Copy Engine: its instructions (R272, R273) and its events (R278, R281, R295). -/

namespace Sys2Proof.Machine

/-- Instances that a Copy Engine's queue holds (R274). -/
def cpQueue : Nat := 64
/-- Tiles that an A FIFO holds (R295). -/
def fifoMax : Nat := 256

/-! ## Starting and completing (R278, R299) -/

/-- The engine of a node works for a region: no cut has stopped the node, and the region is not frozen (R282, R461). -/
def State.engineGoes (s : State) (pos : Coord) (r : Region) : Bool := !(s.node pos).cut && !r.frozen

/-- An instance may start (R278, R295, R298): nothing it has an edge from is left, a CPYA's FIFO has room with no earlier CPYA
before it, and a CPYB's buffer is free with no earlier CPYB of the buffer before it. -/
def State.eligible (s : State) (pos : Coord) (r : Region) (j : Job) : Bool :=
  let earlier := (s.copy pos).jobs.filter fun i => decide (i.id < j.id)
  let c := j.c
  !j.running && !j.faulted &&
    earlier.all (fun i => match s.region i.region with | some ri => !(decide (ri.id = r.id) && r.edge i j) | none => true) &&
    (c.opc != 0xb6 || (decide ((s.copy pos).fifo.length < fifoMax) && !earlier.any fun i => i.c.opc == 0xb6)) &&
    (c.opc != 0xb7 ||
      (let buf := b2n (bit c.opt 0)
       let m := s.matrices.get {} (clusterNode (clusterOf pos) 3)
       (m.bufs.getD buf {}).st == 0 && !earlier.any fun i => decide (i.c.opc = 0xb7) && b2n (bit i.c.opt 0) == buf))

/-- What an FPDECL at SYS certifies goes through to its memory (R45, R299): the writes of the instances that it waited for are performed
at DEV by then. Those lines of second-tier memory that any instance of this engine has left dirty are written through (DESIGN CHOICE, log
90). -/
def State.fpCertify (s : State) (pos : Coord) (r : Region) (j : Job) : State :=
  if j.c.pieces = 0 ∧ j.c.scope = 3 then s.writeThrough (s.partFor r.id) fun t => t.writers.any fun w => w.1 == pos else s

/-- Every FPDECL that waits for nothing completes (R299): it needs no running slot. -/
def State.fpSettle (s : State) (pos : Coord) : State :=
  (s.copy pos).jobs.foldl (fun s j =>
    match s.region j.region with
    | none => s
    | some r => if j.c.pieces = 0 ∧ s.eligible pos r j ∧ s.engineGoes pos r then (s.fpCertify pos r j).cpEnd pos r j else s) s

/-- An instance completes (R278), and every FPDECL that waited for it alone (R299). -/
def State.cpComplete (s : State) (pos : Coord) (r : Region) (j : Job) : State := ((s.fpCertify pos r j).cpEnd pos r j).fpSettle pos

/-! ## Instructions (R273) -/

/-- A lane of a Copy Engine instruction: its offsets, its count, and whether it is suppressed. -/
structure CpLane where
  lane : Nat
  src : Int
  dst : Int
  cnt : Nat
  sunk : Bool
deriving DecidableEq, Repr

/-- The lanes of an instruction (R273). -/
def State.cpLanes (s : State) (n : Niw) (f : Firing) (c : Card) : List CpLane :=
  (f.active n.pred).map fun l =>
    let a := s.readSel s.cur.pos f n .i32 0 n.a l
    let b := s.readSel s.cur.pos f n .i32 1 n.b l
    let k := s.readSel s.cur.pos f n .n32 2 n.c l
    let counted := n.c != .none
    { lane := l, src := sx a.1 32 * 2 ^ bits n.imm.toNat 4 4, dst := sx b.1 32 * 2 ^ bits n.imm.toNat 8 4,
      cnt := if counted then k.1 else c.top, sunk := a.2 || b.2 || (counted && k.2) }

/-- Why a lane's instance fails the checks of its issue (R273, R298): the failing value. -/
def Card.issueFault (c : Card) (l : CpLane) : Option Nat :=
  if c.limit < l.cnt then some l.cnt
  else if c.dimm1 = 0 ∧ l.cnt % c.granule ≠ 0 then some l.cnt
  else
    let last := bits c.xarg 48 7 + (c.counted l.cnt).pieces
    if c.opc = 0xb7 ∧ 128 < last then some (last - 1) else none

/-- Lanes are enqueued in ascending order while the queue has room (R273): the lane to go on with, or none at the end. -/
def State.cpEnqueue (s : State) (r : Region) (f : Firing) (n : Niw) (card : List Word) (id : Nat) : List CpLane → State × Option Nat
  | [] => (s, none)
  | l :: ls =>
    let pos := s.cur.pos
    if l.sunk then
      let s := (s.modCopy pos fun x => { x with psup := satAdd 64 x.psup 1 }).modCpOp pos id fun o => { o with poisoned := true }
      State.cpEnqueue s r f n card id ls
    else if l.cnt = 0 then State.cpEnqueue s r f n card id ls
    else if cpQueue ≤ (s.copy pos).jobs.length then (s, some l.lane)
    else
      let j : Job := { id := (s.copy pos).nextId, op := id, region := f.region, ctx := f.ctx, frame := f.frame, iter := f.iter,
                       len := f.len, pmask := f.pmask, lmask := f.tmask, opc := (cardOf card).opc, seqix := f.ix, lane := l.lane,
                       card := card, src := l.src, dst := l.dst, cnt := l.cnt, wset := s.wsetOf r pos f.ctx }
      let s := s.modCopy pos fun x => { x with jobs := x.jobs ++ [j], nextId := x.nextId + 1 }
      State.cpEnqueue (s.modCpOp pos id fun o => { o with left := o.left + 1 }) r f n card id ls

/-- A Copy Engine instruction (R273): its lanes are checked, then issue in order; the firing goes on when every instance
is enqueued. -/
def State.cpIssue (s : State) (n : Niw) : Out :=
  s.withFiring fun f => s.withRegion f fun r =>
    let pos := s.cur.pos
    let card := (s.ctx pos f.ctx).slots.getD (n.imm.toNat % 8) []
    let c := cardOf card
    if f.skipped then
      let k := (f.active n.pred).length
      .next (((s.modCopy pos fun x => { x with psup := satAdd 64 x.psup k }).sendReceipt pos f.ctx c.rrw f.frame f.iter 0 c.scope 0
        true).goOn)
    else if f.tmask % 2 ^ f.len = 0 then .next ((s.sendReceipt pos f.ctx c.rrw f.frame f.iter 0 c.scope 0 false).goOn)
    else
      let lanes := s.cpLanes n f c
      let live := lanes.filter fun l => !l.sunk
      let sunk := lanes.filter fun l => l.sunk
      match (if f.opid = 0 then live.findSome? fun l => (c.issueFault l).map fun v => (l.lane, v) else none) with
      | some (l, v) =>
        s.takeFrameFault pos s.cur.slot .firing { s.infoOf pos f Cause.illegalCfg l with auxv := v, jobid := c.jobid }
      | none =>
        if f.opid = 0 && s.sinkMustWait f && !sunk.isEmpty then .next (s.waitToPost r.part)
        else
          let id := if f.opid = 0 then (s.copy pos).nextId else f.opid
          let s :=
            if f.opid ≠ 0 then s
            else
              let s := s.modCopy pos fun x => { x with nextId := id + 1, ops := x.ops ++
                [{ id := id, region := f.region, ctx := f.ctx, frame := f.frame, iter := f.iter, rrw := c.rrw, scope := c.scope,
                   left := 0, issued := false, poisoned := false, flags := 0 }] }
              let s := if c.rrw = 0 then s else s.owe pos f.ctx f.frame 1
              match sunk with
              | [] => s
              | l :: _ => s.reportSink pos f (if c.dsp = 2 then 3 else if c.dsp = 1 then 1 else 2)
                (if c.dsp = 2 then s.sinkEdge pos f.ctx c.rrw else wrap (c.dst + l.dst) 48) l.lane sunk.length
          match s.cpEnqueue r f n card id (lanes.filter fun l => decide (f.part ≤ l.lane)) with
          | (s, some l) => .next ((s.modSlot pos s.cur.slot fun f => { f with part := l, opid := id }).fpSettle pos)
          | (s, none) => .next ((((s.modCpOp pos id fun o => { o with issued := true }).cpReceipt pos id).fpSettle pos).goOn)

/-- CPY (R288). -/
def execCpy (n : Niw) (s : State) : Out := s.cpIssue n
/-- CPY2 (R288). -/
def execCpy2 (n : Niw) (s : State) : Out := s.cpIssue n
/-- CPY3 (R288). -/
def execCpy3 (n : Niw) (s : State) : Out := s.cpIssue n
/-- CPYM (R289). -/
def execCpym (n : Niw) (s : State) : Out := s.cpIssue n
/-- CPYZ (R293). -/
def execCpyz (n : Niw) (s : State) : Out := s.cpIssue n
/-- CPYX (R294). -/
def execCpyx (n : Niw) (s : State) : Out := s.cpIssue n
/-- CPYA (R297). -/
def execCpya (n : Niw) (s : State) : Out := s.cpIssue n
/-- CPYB (R298). -/
def execCpyb (n : Niw) (s : State) : Out := s.cpIssue n
/-- CPYF (R290). -/
def execCpyf (n : Niw) (s : State) : Out := s.cpIssue n
/-- CPYC (R291). -/
def execCpyc (n : Niw) (s : State) : Out := s.cpIssue n
/-- CPYQ (R292). -/
def execCpyq (n : Niw) (s : State) : Out := s.cpIssue n
/-- FPDECL (R299). -/
def execFpdecl (n : Niw) (s : State) : Out := s.cpIssue n

/-! ## Events -/

/-- The lowest running slot without an instance (R278, R300). -/
def Copy.freeSlot (c : Copy) : Option Nat := (List.range 4).find? fun k => !c.jobs.any fun j => j.running && j.slot == k

/-- CP_INSTANCE_START (R278): the eligible instance with the lowest issue number takes a running slot; one without pieces
completes, with no slot (R299). The event's node. -/
def execEvCpInstanceStart (s : State) : Out :=
  s.withEv fun e =>
    let pos := e.pos
    let cp := s.copy pos
    match cp.jobs.findSome? fun j => (s.region j.region).bind fun r =>
        if s.eligible pos r j && s.engineGoes pos r && (j.c.pieces == 0 || (cp.freeSlot.isSome && !s.stalled r.part)) then
          some (r, j)
        else none with
    | none => .next s
    | some (r, j) =>
      if j.c.pieces = 0 then .next (s.cpComplete pos r j)
      else .next (s.modJob pos j.id fun j => { j with running := true, slot := cp.freeSlot.getD 0 })

/-- The record of what a piece has read must wait for room (R495, R502). -/
def State.hurtWaits (s : State) (r : Region) (bad : Hurt) : Bool := bad.isSome && !s.canPost r.part

/-- A piece of an instance has been performed (R281): the record of uncorrectable data that it read (R502), its progress, and completion after the last. Pieces are performed in ascending order:
R279 leaves their order open, and the model takes this one of the orders it allows (DESIGN CHOICE, log 95). -/
def State.pieceDone (s : State) (pos : Coord) (r : Region) (j : Job) (fl : Nat) (bad : Hurt) : State :=
  let s := match bad with
    | some (k, a) => s.postFor r .nothing { s.jobInfo pos j Cause.eccUncorr 1 with akind := k, addr := a, parked := false }
    | none => s
  let s := (s.raise pos j.ctx fl).progress r.id
  let s := s.modCopy pos fun x => { x with pieceCnt := satAdd 32 x.pieceCnt 1 }
  let s := s.modCpOp pos j.op fun o => { o with flags := o.flags ||| fl, poisoned := o.poisoned || bad.isSome }
  let j' := { j with piece := j.piece + 1 }
  let s := s.modJob pos j.id fun _ => j'
  if j'.piece < j.c.pieces then s else s.cpComplete pos r j'

/-- The record of a piece's fault is posted (R283): the instance gives up its running slot and its frame is parked. -/
def State.postPiece (s : State) (pos : Coord) (r : Region) (j : Job) (i : FaultInfo) : State :=
  s.engineFault r (.piece pos j.id) i (fun s => s.modJob pos j.id fun j => { j with due := some i })
    fun s => s.modJob pos j.id fun j => { j with running := false, faulted := true, due := none }

/-- A piece faults (R283). -/
def State.pieceFault (s : State) (pos : Coord) (r : Region) (j : Job) (x : LocFault) : State :=
  s.postPiece pos r j { s.jobInfo pos j x.cause (j.lane + 256 * x.code) with akind := x.akind, addr := x.addr }

/-- The running instance that an event names by its issue number; one that has faulted posts its record. -/
def State.withJob (s : State) (k : Coord → Region → Job → Out) : Out :=
  s.withEv fun e =>
    match (s.copy e.pos).jobs.find? fun j => j.id == e.i.toNat && j.running with
    | none => .next s
    | some j =>
      match s.region j.region with
      | none => .next s
      | some r =>
        if !s.engineGoes e.pos r then .next s
        else match j.due with
          | some i => .next (s.postPiece e.pos r j i)
          | none => k e.pos r j

/-- The failed destinations of a multicast are recorded when its last piece is performed (R289). -/
def Job.lastMcast (j : Job) : Bool := j.c.opc == 0xb3 && decide (j.piece + 1 = j.c.pieces)

/-- CP_PIECE (R281, R283, R289): the next piece of a running instance. The event's node; operand i: the issue number. -/
def execEvCpPiece (s : State) : Out :=
  s.withJob fun pos r j =>
    let c := j.c
    if c.opc = 0xb6 then .next s
    else if c.opc = 0xb7 then
      if ((s.matrices.get {} (clusterNode (clusterOf pos) 3)).bufs.getD (b2n (bit c.opt 0)) {}).st ≠ 0 then .next s
      else match s.tileIn r j with
      | .inl x => .next (s.pieceFault pos r j x)
      | .inr (t', t, bad) => if s.hurtWaits r bad then .next (s.waitToPost r.part) else
        let s := t'
        let mn := clusterNode (clusterOf pos) 3
        let m := s.matrices.get {} mn
        let buf := b2n (bit c.opt 0)
        let b := m.bufs.getD buf {}
        let b := { b with cols := b.cols.set (bits c.xarg 48 7 + j.piece) t, chk := 0 }
        let s : State := { s with matrices := s.matrices.set mn { m with bufs := setNth m.bufs buf b } }
        .next (s.pieceDone pos r j 0 bad)
    else
      let fails := if c.opc = 0xb3 then j.mcastFails r else []
      if j.lastMcast && !fails.isEmpty && !s.canPost r.part then .next (s.waitToPost r.part)
      else match s.pieceOf pos r j with
        | .inl x => .next (s.pieceFault pos r j x)
        | .inr o => if s.hurtWaits r o.bad then .next (s.waitToPost r.part) else
          let j := { j with failed := fails.foldl (fun m f => m + 2 ^ f.1) 0, failCode := (fails.headD (0, 0)).2 }
          .next (o.s.pieceDone pos r j o.flags o.bad)

/-- A CPYA that finds its FIFO full waits, and gives its running slot to other instances (R295). -/
def State.fifoYield (s : State) (pos : Coord) (id : Nat) : State :=
  if fifoMax ≤ (s.copy pos).fifo.length then s.modJob pos id fun j => { j with running := false } else s

/-- A_FIFO_APPEND (R295, R297): the next tile of a CPYA instance, once the FIFO has room and earlier CPYA instances are
done. The event's node; operand i: the issue number. -/
def execEvAFifoAppend (s : State) : Out :=
  s.withJob fun pos r j =>
    let cp := s.copy pos
    if j.c.opc ≠ 0xb6 ∨ fifoMax ≤ cp.fifo.length ∨ cp.jobs.any (fun i => decide (i.id < j.id) && i.c.opc == 0xb6) then .next s
    else match s.tileIn r j with
      | .inl x => .next (s.pieceFault pos r j x)
      | .inr (t', t, bad) => if s.hurtWaits r bad then .next (s.waitToPost r.part) else
        let s := t'
        let s := s.modCopy pos fun x => { x with fifo := x.fifo ++ [{ region := r.id, frame := j.frame, tile := t }],
                                                 apos := (x.apos + 1) % 2 ^ 32 }
        .next (((s.tcntAdd r.id j.frame 1).pieceDone pos r j 0 bad).fifoYield pos j.id)

end Sys2Proof.Machine
end

