-- ==== Sys2Proof/Machine/Notify.lean ====
section
/-! DEFINITION. Notify registers (R126, R127), and strobes as they arrive (R33, R34). -/

namespace Sys2Proof.Machine

/-- A notify register takes a value; an increase sends a message when it is armed (R127). -/
def State.nfySet (s : State) (k : Nat) (v : Word) : State :=
  let n := s.nfy k
  if n.value < v && n.msien && n.armed then
    { s.modNfy k fun n => { n with value := v, armed := false } with msix := s.msix ++ [n.vec] }
  else s.modNfy k fun n => { n with value := v }

/-- A notify register grows (R113, R392). It never decreases (R127): a sum that does not fit stays at the greatest value (DESIGN
CHOICE, log 71). -/
def State.nfyAdd (s : State) (k : Nat) (v : Word) : State :=
  s.nfySet k (BitVec.ofNat 64 (satAdd 64 (s.nfy k).value.toNat v.toNat))

/-- A notify register takes the maximum (R122). -/
def State.nfyMax (s : State) (k : Nat) (v : Word) : State := 
  if (s.nfy k).value < v then s.nfySet k v else s

/-- The strobe that arrives, with its argument, when it is the first of its source and destination (R33); `k` takes the
state without it. -/
def State.withStrobe (s : State) (k : State → Strobe → Nat → Out) : Out :=
  match s.strobes[s.cur.place]?, s.cur.arg with
  | some m, .strobe a =>
    if (s.strobes.take s.cur.place).any fun o => decide (o.src = m.src ∧ o.dst = m.dst) then .next s
    else k { s with strobes := dropNth s.strobes s.cur.place } m a.toNat
  | _, _ => .next s

end Sys2Proof.Machine
end

