-- ==== Sys2Proof/Machine/LinkOps.lean ====
section
/-! DEFINITION. What the Link Engine's instructions, packets and events share: the wire (R409, R412), where a packet goes
(R416), messages and the order of receipts (R419, R421, R426), and receive records (R420, R422, R424, R427). -/

namespace Sys2Proof.Machine

/-! ## Access -/

/-- A link node. -/
def State.link (s : State) (p : Nat) : LinkNode := s.links.get {} p
/-- Change a link node. -/
def State.modLink (s : State) (p : Nat) (f : LinkNode → LinkNode) : State := { s with links := s.links.set p (f (s.link p)) }
/-- A receive window. -/
def State.win (s : State) (w : Nat) : RxWin := s.windows.get {} w
/-- Change a receive window. -/
def State.modWin (s : State) (w : Nat) (f : RxWin → RxWin) : State := { s with windows := s.windows.set w (f (s.win w)) }
/-- A channel of a link node. -/
def LinkNode.chan (l : LinkNode) (j : Nat) : Chan := l.chans.get {} j
/-- Change a channel. -/
def State.modChan (s : State) (p j : Nat) (f : Chan → Chan) : State :=
  s.modLink p fun l => { l with chans := l.chans.set j (f (l.chan j)) }

/-- Fields of a channel's words (R418). -/
def Chan.ddev (c : Chan) : Nat := bits c.desc.toNat 46 18
def Chan.win (c : Chan) : Nat := bits c.desc.toNat 38 8
def Chan.rkey (c : Chan) : Nat := bits c.desc.toNat 22 16
def Chan.ord (c : Chan) : Bool := bit c.desc.toNat 21
def Chan.tc (c : Chan) : Nat := bits c.desc.toNat 20 1
def Chan.cb (c : Chan) : Nat := bits c.base.toNat 0 40

/-- Outstanding messages of a channel. -/
def LinkNode.outs (l : LinkNode) (j : Nat) : Nat := (l.msgs.filter fun m => m.chan == j).length

/-! ## The wire (R409, R412) -/

/-- Payload bytes that a packet carries (R411). -/
def payloadLen (h : Pkt) : Nat :=
  if h.trim then 0
  else match h.kind.toNat with
    | 0 | 1 | 3 | 4 | 5 => h.len.toNat
    | 2 | 6 | 7 | 8 | 9 | 10 => 0
    | _ => h.len.toNat

/-- Flits that a packet occupies (R412). -/
def flitsOf (h : Pkt) : Nat := ceilDiv (32 + payloadLen h) 64

/-- The bytes of a packet. -/
def Packet.bytes (x : Packet) : List Byte := (encodePkt x.hdr).flatMap wordBytes ++ x.data

/-- A packet's flits, the last padded with zeros. -/
def Packet.flits (x : Packet) : List (List Byte) :=
  let bs := x.bytes
  (List.range (ceilDiv bs.length 64)).map fun i =>
    let c := (bs.drop (64 * i)).take 64
    c ++ List.replicate (64 - c.length) 0

/-- One bit of the CRC of polynomial 0x04C11DB7, in either bit order. -/
def crcBit (refl : Bool) (c : Nat) (b : Bool) : Nat :=
  if refl then (if bit c 0 != b then (c / 2) ^^^ 0xEDB88320 else c / 2)
  else (if bit c 31 != b then (c * 2 % 2 ^ 32) ^^^ 0x04C11DB7 else c * 2 % 2 ^ 32)

/-- CRC-32 of bytes (R409). The manual gives its polynomial; the rest is the implementation's (Config, log 11). -/
def crc32 (bs : List Byte) : Nat :=
  let refl := Config.crcReflected
  let order := if refl then [0, 1, 2, 3, 4, 5, 6, 7] else [7, 6, 5, 4, 3, 2, 1, 0]
  (bs.foldl (fun c b => order.foldl (fun c i => crcBit refl c (bit b.toNat i)) c) Config.crcStart.toNat) ^^^ Config.crcEnd.toNat

/-- A wire flit: 64 bytes and the link trailer. -/
def wireFlit (fseq cls cred ccls : Nat) (bs : List Byte) : List Byte :=
  let hi := pack [(8, 0), (2, ccls), (8, cred), (2, cls), (12, fseq)]
  bs ++ toBytes 4 (crc32 (bs ++ toBytes 4 hi)) ++ toBytes 4 hi

/-- The link-control flit's bytes (R409): a replay from a flit number, or credits alone. -/
def controlFlit (replay : Option Nat) : List Byte :=
  List.replicate 8 (255 : Byte) ++ toBytes 2 (match replay with | some f => f + 2 ^ 15 | none => 0) ++ List.replicate 54 0

/-- The packet whose flit leaves next (R413): class 3 first; then the data packet that is half sent, or the data classes in
turn. -/
def LinkNode.pick (l : LinkNode) : Option Nat :=
  let has (c : Nat) : Bool := decide (0 < l.credits.getD c 0)
  let first (c : Nat) : Option Nat := if has c then l.txq.findIdx? fun q => q.1 == c else none
  match first 3 with
  | some i => some i
  | none =>
    match l.txMid with
    | some c => first c
    | none => match first (1 - l.txLast) with
      | some i => some i
      | none => first l.txLast

/-- The credits that the next flit returns: number and class (R409). -/
def LinkNode.credit (l : LinkNode) : Nat × Nat :=
  match [0, 1, 2, 3].find? fun c => decide (0 < l.owedCred.getD c 0) with
  | some c => (min 255 (l.owedCred.getD c 0), c)
  | none => (0, 0)

/-- Credits have been returned. -/
def LinkNode.returned (l : LinkNode) (n c : Nat) : LinkNode := { l with owedCred := setNth l.owedCred c (l.owedCred.getD c 0 - n) }

/-- The next flit of a packet in the queue leaves: the flit as it goes on the wire. -/
def LinkNode.emit (l : LinkNode) (i : Nat) : LinkNode × List (List Byte) :=
  match l.txq[i]? with
  | some (c, bs :: rest) =>
    let (n, cc) := l.credit
    let w := wireFlit l.txSeq c n cc bs
    let l := l.returned n cc
    let data := c != 3
    ({ l with
      txSeq := (l.txSeq + 1) % 4096, credits := setNth l.credits c (l.credits.getD c 0 - 1),
      txq := if rest.isEmpty then dropNth l.txq i else setNth l.txq i (c, rest),
      txMid := if data then (if rest.isEmpty then none else some c) else l.txMid, txLast := if data then c else l.txLast,
      kept := ((l.kept ++ [(l.txSeq, w)]).reverse.take 2048).reverse }, [w])
  | some (_, []) => ({ l with txq := dropNth l.txq i }, [])
  | none => (l, [])

/-- Flits leave while there are credits. -/
def LinkNode.drive (l : LinkNode) : Nat → LinkNode × List (List Byte)
  | 0 => (l, [])
  | fuel + 1 =>
    if !l.up then (l, [])
    else match l.pick with
      | none => (l, [])
      | some i =>
        let (l, fs) := l.emit i
        let (l, gs) := LinkNode.drive l fuel
        (l, fs ++ gs)

/-- A port sends what it can. -/
def State.drivePort (s : State) (p : Nat) : State :=
  let l := s.link p
  let (l, fs) := l.drive (l.txq.foldl (fun n q => n + q.2.length + 1) 0)
  { s.modLink p fun _ => l with sentFlits := s.sentFlits ++ fs.map fun f => (p, f) }

/-! ## Where packets go (R416) -/

/-- The packet asks a window: a request, or a CLOSE. -/
def asks (h : Pkt) : Bool := [0, 1, 2, 4, 9].contains h.kind.toNat

/-- The message of a channel that a packet answers. -/
def LinkNode.msgOf (l : LinkNode) (h : Pkt) : Option Msg :=
  l.msgs.find? fun m => m.chan == h.chan.toNat && m.msn == h.msn.toNat && m.ddev == h.sdev.toNat

/-- The record of a channel. -/
def LinkNode.recOf (l : LinkNode) (h : Pkt) : Option RxRec :=
  l.recs.find? fun r => r.sdev == h.sdev.toNat && r.sport == h.sport.toNat && r.chan == h.chan.toNat
/-- A message in its record. -/
def RxRec.msg (r : RxRec) (msn : Nat) : Option RxMsg := r.msgs.find? fun m => m.msn == msn
/-- The message of the RREQ's header at the node of its SPORT, whose window and key it names. -/
def State.rreqMsg (s : State) (h : Pkt) : Option Msg :=
  ((s.link h.sport.toNat).msgOf h).filter fun m => m.win == h.win.toNat && m.rkey == h.rkey.toNat

/-- The GETQ whose GETR an RREQ asks for, in the record of its channel at the window's node. -/
def State.rreqGet (s : State) (h : Pkt) : Option (RxRec × RxMsg) :=
  ((s.link (s.win h.win.toNat).port).recOf h).bind fun r => ((r.msg h.msn.toNat).filter fun m =>
    m.kind == 2 && decide (m.hdr.win = h.win ∧ m.hdr.rkey = h.rkey) && m.written.contains h.pidx.toNat).map fun m => (r, m)

/-- An RREQ asks for a packet of a PUT or PUTN that this device's channel sent, or for a GETR of one of its windows, or for a GETQ or
ATOMQ that its holder treated as trimmed (R416, R423). The RREQ's header does not tell (DEDUCED, log 13): its message and its window
do. -/
def State.rreqOfPut (s : State) (h : Pkt) : Bool :=
  match s.rreqMsg h with
  | some m => m.kind == 0 || m.kind == 1 || (s.rreqGet h).isNone
  | none => false

/-- The RREQ asks for a GETR. -/
def State.rreqOfGet (s : State) (h : Pkt) : Bool := !s.rreqOfPut h && (s.rreqGet h).isSome

/-- The link node that a packet is for: a window's serving node, or that of its SPORT. -/
def State.packetHome (s : State) (h : Pkt) : Nat :=
  if asks h || (h.kind.toNat == 8 && s.rreqOfGet h) then (s.win h.win.toNat).port else h.sport.toNat

/-- A packet leaves a link node: by its port, or on package to a node of the same device (R416). `part` is metered for the
flits of its own contexts (R497). -/
def State.sendPkt (s : State) (p : Nat) (part : Option Nat) (x : Packet) : State :=
  let fs := x.flits
  let s := match part with
    | some q => s.modPart q fun y => y.charge 2 fs.length
    | none => s
  if x.hdr.ddev.toNat = s.dev.devno then
    let dst := s.packetHome x.hdr
    { s with packets := s.packets ++ [{ port := dst, crossing := dst != p, pkt := x }] }
  else
    ({ s with sentPackets := s.sentPackets ++ [(p, x)] } : State).modLink p (fun l =>
      { l with txq := l.txq ++ [(x.hdr.tc.toNat, fs)] }) |>.drivePort p

/-- The header of an answer (R410). -/
def answer (h : Pkt) (kind : Nat) : Pkt :=
  { h with kind := BitVec.ofNat 4 kind, trim := false, trims := 0, tc := 3, ddev := h.sdev, sdev := h.ddev, tsite := 0,
           len := 0, aop := 0, aty := 0, xtag := 0 }

/-- The packets of one class between one pair of nodes keep their order (R413): the class and the sending node, which is that of the
header's SPORT for what a channel sends and for the RREQ of a GETR, and that of its window for what answers a request. -/
def State.flow (s : State) (h : Pkt) : Nat × Nat × Nat :=
  let node := if asks h || (h.kind.toNat == 8 && s.rreqOfGet h) then h.sport.toNat
    else if h.sdev.toNat = s.dev.devno then (s.win h.win.toNat).port
    else Config.farNode h.sdev.toNat h.win.toNat
  (h.tc.toNat, h.sdev.toNat, node)

/-- A packet arrives at its link node, when it is the first of its flow; `k` takes the state without it, and answers a
partition whose record queue it must wait for instead. -/
def State.withPkt (s : State) (k : State → PktIn → Sum Nat State) : Out :=
  match s.packets[s.cur.place]? with
  | none => .next s
  | some x =>
    if (s.packets.take s.cur.place).any fun o => o.port == x.port && decide (s.flow o.pkt.hdr = s.flow x.pkt.hdr) then .next s
    else match k { s with packets := dropNth s.packets s.cur.place } x with
      | .inl part => .next (s.waitToPost part)
      | .inr s => .next s

/-! ## Local bytes (R425, R430) -/

/-- The translations of the pages of a local range, or the failing access (R218, R219): cause, code, AUXV and address. -/
def State.pagesOf (s : State) (part va k : Nat) (write : Bool) : Sum (Nat × Nat × Nat × Nat) (List Xlat) :=
  let first := va / 4096
  let n := (va + k - 1) / 4096 - first + 1
  (List.range n).foldl (fun (acc : Sum (Nat × Nat × Nat × Nat) (List Xlat)) i =>
    match acc with
    | .inl e => .inl e
    | .inr xs =>
      let a := (if i = 0 then va else (first + i) * 4096) % 2 ^ 48
      if xs.any fun x => x.covers part a then .inr xs
      else
        let x := s.walk part a
        match x.fault s.dev (!write) write a with
        | some (cause, code, aux) => .inl (cause, code, aux, a)
        | none => .inr (xs ++ [x])) (.inr [])

/-- A local address of a message: under the translations that it holds, or, once an invalidation has dropped them, walked again (R494);
none where the page is no longer there or does not permit the access. -/
def State.msgPlace (s : State) (m : Msg) (write : Bool) (a : Nat) : Option (Nat × Bool) :=
  let a := a % 2 ^ 48
  let x := (m.xl.find? fun x => x.covers m.part a).getD (s.walk m.part a)
  if (x.fault s.dev (!write) write a).isSome then none else some (x.pa a, x.dev)

/-- The partition that a message's traffic is metered to; a cut proceeds unmetered (R497, R504). -/
def State.msgPart (s : State) (m : Msg) : Option Nat := if (s.region m.region).isSome then s.partFor m.region else some m.part

/-- Local bytes of a message, read at their home slices, and the address of the first line that an error poisoned. A line that has lost
its page gives free values, and `lost` (log 96). -/
def State.msgRead (s : State) (m : Msg) (a k : Nat) : State × List Byte × Option Nat × Bool :=
  (linePieces a k).foldl (fun (acc : State × List Byte × Option Nat × Bool) q =>
    let (s, bs, bad, lost) := acc
    match s.msgPlace m false q.1 with
    | none => (s, bs ++ (List.range q.2).map fun i => BitVec.ofNat 8 (s.free (2 ^ 48 + q.1 + i)), bad, true)
    | some (spa, dev) =>
      let s := s.unitRead (s.msgPart m) (lineOf spa) dev
      (s, bs ++ Memory.reads s.mem spa q.2, bad <|> (if s.badLines.contains (lineOf spa) then some (q.1 % 2 ^ 48) else none), lost))
    (s, [], none, false)

/-- Bytes written for a message at their home slices, performed at SYS. A line that has lost its page is not written: the operation ends
poisoned (log 96). -/
def State.msgWrite (s : State) (m : Msg) : List (Nat × Nat) → List Byte → State × Bool
  | [], _ => (s, false)
  | q :: rest, bs =>
    match s.msgPlace m true q.1 with
    | none => ((State.msgWrite s m rest (bs.drop q.2)).1, true)
    | some (spa, dev) =>
      let w := s.unitWrite (s.msgPart m) (lineOf spa) dev (s.dev.inTier spa) (cellsAt spa (bs.take q.2))
      State.msgWrite w.1 m rest (bs.drop q.2)

/-! ## Sending (R410 to R412, R419, R423) -/

/-- Change a message. -/
def State.modMsg (s : State) (p id : Nat) (f : Msg → Msg) : State :=
  s.modLink p fun l => { l with msgs := l.msgs.map fun m => if m.id == id then f m else m }
/-- Change a link instruction that owes a receipt. -/
def State.modLinkOp (s : State) (p id : Nat) (f : LinkOp → LinkOp) : State :=
  s.modLink p fun l => { l with ops := l.ops.map fun o => if o.id == id then f o else o }

/-- The header of packet `i` of a message, trimmed `t` times before. -/
def State.headerOf (s : State) (p : Nat) (m : Msg) (i t len : Nat) : Pkt :=
  { kind := BitVec.ofNat 4 m.kind, trim := false, trims := BitVec.ofNat 3 t,
    tc := if m.kind = 0 ∨ m.kind = 1 then BitVec.ofNat 2 m.tc else 3,
    ddev := BitVec.ofNat 18 m.ddev, sdev := BitVec.ofNat 18 s.dev.devno, sport := BitVec.ofNat 6 p,
    chan := BitVec.ofNat 6 m.chan, ord := m.ord, msn := BitVec.ofNat 24 m.msn, dsn := BitVec.ofNat 24 m.dsn,
    pidx := BitVec.ofNat 7 i, npkm1 := BitVec.ofNat 7 (m.npk - 1), win := BitVec.ofNat 8 m.win,
    rkey := BitVec.ofNat 16 m.rkey, off := BitVec.ofNat 40 (m.rem + 4096 * i), tsite := 0, len := BitVec.ofNat 13 len,
    aop := BitVec.ofNat 4 m.aop, aty := BitVec.ofNat 4 m.aty,
    xtag := if m.kind = 2 ∨ m.kind = 4 then BitVec.ofNat 16 m.xtag else 0 }

/-- A record of a message, at its sender or requester (R438, R502). -/
def State.msgInfo (s : State) (p : Nat) (m : Msg) (cause detail : Nat) : FaultInfo :=
  let i : FaultInfo := { cause := cause, detail := detail, pos := linkNode p, nk := 6, parked := false }
  match (s.link p).ops.find? fun o => o.id == m.op with
  | some o => { i with ctx := o.ctx, frame := o.frame, iter := o.iter, len := o.len, opc := o.opc, seqix := o.seqix,
                       pmask := o.pmask, lmask := o.mask, flags := (s.ctx (linkNode p) o.ctx).sf }
  | none => i

/-- The local bytes that a message reads hold a line that an error poisoned, which no record has told yet (R502). -/
def State.msgHurt (s : State) (m : Msg) : Bool :=
  m.kind == 0 && !m.hurt && (linePieces m.loc m.len).any fun q => match s.msgPlace m false q.1 with
    | some x => s.badLines.contains (lineOf x.1)
    | none => false

/-- The records of messages' uncorrectable source bytes can be posted now (R495, R502). -/
def State.hurtFits (s : State) (part : Nat) (ms : List Msg) : Bool :=
  let k := (ms.filter s.msgHurt).length
  k == 0 || decide ((s.partOf part).held.length + k ≤ heldMax)

/-- A packet of a message is formed, or formed again, and sent: the message's timer restarts (R423, R425, R505). Uncorrectable source
bytes poison the receipt and are told once (R502). -/
def State.sendPacket (s : State) (p : Nat) (m : Msg) (i t : Nat) : State :=
  let n := min 4096 (m.len - 4096 * i)
  let told := ((s.link p).msgs.find? fun x => x.id == m.id).elim m.hurt (·.hurt)
  let (s, bs, bad, lost) := if m.kind = 0 then s.msgRead m (m.loc + 4096 * i) n else (s, m.keep, none, false)
  let s := if bad.isSome || lost then s.modLinkOp p m.op fun o => { o with poisoned := true } else s
  let s := match bad, (if told then none else s.region m.region) with
    | some a, some r => (s.postFor r .nothing { s.msgInfo p m Cause.eccUncorr 1 with akind := 1, addr := a }).modMsg p m.id fun m => { m with hurt := true }
    | _, _ => s
  (s.sendPkt p (s.msgPart m) { hdr := s.headerOf p m i t n, data := bs }).modMsg p m.id fun m => { m with last := s.cyc }

/-- A message is issued: it takes the next MSN, and a PUT or PUTN the next DSN, and its packets are sent (R419, R432). Its requester's
tag is free (log 1). -/
def State.sendMsg (s : State) (p : Nat) (m : Msg) : State :=
  let c := (s.link p).chan m.chan
  let data := m.kind = 0 ∨ m.kind = 1
  let m := { m with id := (s.link p).nextMsg, msn := c.msn, dsn := if data then c.dsn else 0, ddev := c.ddev, win := c.win,
                    rkey := c.rkey, tc := c.tc, ord := c.ord, npk := ceilDiv m.len 4096, last := s.cyc, xtag := s.free (4096 + m.lane) % 2 ^ 16 }
  let s := s.modLink p fun l => { l with msgs := l.msgs ++ [m], nextMsg := l.nextMsg + 1 }
  let s := s.modChan p m.chan fun c =>
    { c with msn := (c.msn + 1) % 2 ^ 24, dsn := if data then (c.dsn + 1) % 2 ^ 24 else c.dsn }
  let s := s.modLinkOp p m.op fun o => { o with left := o.left ++ [m.id] }
  (List.range m.npk).foldl (fun s i => s.sendPacket p m i 0) s

/-! ## Receipts and their order (R426, R430, R435) -/

/-- An instruction's reply leaves, its lanes that failed poisoned with payload 0 (R434). -/
def State.linkReply (s : State) (p : Nat) (o : LinkOp) : State :=
  if o.reply = 0 then s
  else
    let v (l : Nat) : Word := if bit o.badLanes l then 0 else (Table.find o.vals l).getD 0
    let t : Token := { kind := .value, dst := mkCoord 0 0 0, ctx := 0, port := 0, frame := o.frame, iter := o.iter, len := o.len,
                       aux := 0, mask := o.mask, poison := o.badLanes &&& o.mask, wide := o.wide,
                       lanes := (List.range o.len).map fun l => if bit o.mask l then v l else 0 }
    (s.enqueueRun (linkNode p) o.ctx (o.reply - 1) true false t).repay (linkNode p) o.ctx o.frame 1

/-- An instruction's receipt is published. -/
def State.linkReceipt (s : State) (p : Nat) (o : LinkOp) : State :=
  if o.rw = 0 then s
  else (s.sendReceipt (linkNode p) o.ctx o.rw o.frame o.iter o.flags 3 0 o.poisoned).repay (linkNode p) o.ctx o.frame 1

/-- One pass over a channel's instructions in issue order: those whose result is known reply, and those whose turn it is
publish and end. `blocked` holds once an earlier instruction has not published. -/
def State.publishOps (s : State) (p j : Nat) (ord : Bool) : Bool → List LinkOp → State × List LinkOp
  | _, [] => (s, [])
  | blocked, o :: os =>
    if o.chan != j then
      let r := State.publishOps s p j ord blocked os
      (r.1, o :: r.2)
    else
      let known := o.left.isEmpty
      let s := if known && !o.done then s.linkReply p o else s
      let o := { o with done := known }
      if known && (!blocked || !(ord || o.place)) then State.publishOps (s.linkReceipt p o) p j ord blocked os
      else
        let r := State.publishOps s p j ord true os
        (r.1, o :: r.2)

/-- Receipts of a channel that may be published are (R426). -/
def State.publish (s : State) (p j : Nat) : State :=
  let r := s.publishOps p j ((s.link p).chan j).ord false (s.link p).ops
  r.1.modLink p fun l => { l with ops := r.2 }

/-- A channel's CLOSE is sent once no message of it is outstanding (R431). Its message number is free (log 1). -/
def State.sendClose (s : State) (p : Nat) (part : Option Nat) (j : Nat) : State :=
  let c := (s.link p).chan j
  let h : Pkt := { kind := 9, trim := false, trims := 0, tc := 3, ddev := BitVec.ofNat 18 c.ddev, sdev := BitVec.ofNat 18 s.dev.devno,
                   sport := BitVec.ofNat 6 p, chan := BitVec.ofNat 6 j, ord := c.ord, msn := BitVec.ofNat 24 (s.free 4096), dsn := 0,
                   pidx := 0, npkm1 := 0, win := BitVec.ofNat 8 c.win, rkey := BitVec.ofNat 16 c.rkey, off := 0, tsite := 0,
                   len := 0, aop := 0, aty := 0, xtag := 0 }
  (s.modChan p j fun c => { c with closing := true }).sendPkt p part { hdr := h, data := [] }

/-- The CLOSE of a channel that its block or region has left, once nothing of the channel is outstanding (R439). -/
def State.closeShut (s : State) (p : Nat) (part : Option Nat) (j : Nat) : State :=
  let c := (s.link p).chan j
  if c.shut && c.opened && !c.closing && (s.link p).outs j == 0 then s.sendClose p part j else s

/-- A message completes (R421), which is progress of its region (R458): its instruction, poisoned if it failed, and every LFLUSH that
waits for it go on. -/
def State.msgDone (s : State) (p : Nat) (m : Msg) (failed lost : Bool) : State :=
  let s := s.modLink p fun l =>
    { l with msgs := l.msgs.filter fun x => x.id != m.id,
             ops := l.ops.map fun o =>
               let o := { o with left := o.left.filter (· != m.id) }
               if o.id == m.op && failed then { o with poisoned := true, badLanes := o.badLanes ||| 2 ^ m.lane } else o }
  let s := s.modChan p m.chan fun c =>
    { c with msgs := (c.msgs + 1) % 2 ^ 24, lost := if lost then satAdd 8 c.lost 1 else c.lost }
  ((s.publish p m.chan).closeShut p (s.msgPart m) m.chan).progress m.region

/-- A message completes with a failure, recorded in its launch's partition; the partition's number when its record must
wait (R495). -/
def State.msgFail (s : State) (p : Nat) (m : Msg) (lost : Bool) (i : FaultInfo) : Sum Nat State :=
  match s.region m.region with
  | none => .inr (s.msgDone p m true lost)
  | some r => if s.canPost r.part then .inr ((s.postFor r .nothing i).msgDone p m true lost) else .inl r.part

/-! ## Receive records (R420, R427) -/

/-- Change the record of a channel. -/
def State.modRec (s : State) (p : Nat) (h : Pkt) (f : RxRec → RxRec) : State :=
  s.modLink p fun l => { l with recs := l.recs.map fun r =>
    if r.sdev == h.sdev.toNat && r.sport == h.sport.toNat && r.chan == h.chan.toNat then f r else r }
/-- Change a message in its record. -/
def RxRec.modMsg (r : RxRec) (msn : Nat) (f : RxMsg → RxMsg) : RxRec :=
  { r with msgs := r.msgs.map fun m => if m.msn == msn then f m else m }

/-- A message keeps the requester's tag of a GETQ's packet (R410). -/
def RxMsg.tagged (m : RxMsg) (h : Pkt) : RxMsg :=
  if h.kind = 2 then { m with tags := m.tags.set h.pidx.toNat h.xtag.toNat } else m

/-- NEXT advances past each delivery number that is complete or lost (R427). -/
def RxRec.settle (r : RxRec) : Nat → RxRec
  | 0 => r
  | fuel + 1 =>
    if r.msgs.any fun m => m.done && decide (m.kind < 2) && m.dsn == r.next
    then RxRec.settle { r with next := (r.next + 1) % 2 ^ 24 } fuel else r

/-- Records of a link node. -/
def recMax : Nat := 1024

/-- GETR's class is its channel's, which a GETQ does not carry (R411): the channel's own on this device, a free choice for
another device's, one for the record (log 14). -/
def State.replyClass (s : State) (h : Pkt) : BitVec 2 :=
  if h.sdev.toNat = s.dev.devno then BitVec.ofNat 2 ((s.link h.sport.toNat).chan h.chan.toNat).tc
  else BitVec.ofNat 2 (s.free 5 % 2)

/-- The record and the message that a request belongs to, created by its first packet; none when no record is free. It tracks up to 64
messages that are not complete: where a further one comes, the sender has given up the earliest (R408, R420). What has completed is kept,
for NEXT and for packets that come again, until the message numbers come around. -/
def State.rxOpen (s : State) (p : Nat) (h : Pkt) : Option (State × RxMsg) :=
  let l := s.link p
  let fresh := (l.recOf h).isNone
  if fresh && decide (recMax ≤ l.recs.length) then none
  else
    let s := if fresh then
        s.modLink p fun l => { l with recs := l.recs ++
          [{ sdev := h.sdev.toNat, sport := h.sport.toNat, chan := h.chan.toNat, tc := (s.replyClass h).toNat }] }
      else s
    let s := if h.kind.toNat < 2 ∧ ¬ h.trim then s.modRec p h fun r => { r with tc := h.tc.toNat } else s
    match ((s.link p).recOf h).bind fun r => r.msg h.msn.toNat with
    | some m => some (s.modRec p h fun r => r.modMsg m.msn fun m => m.tagged h, m)
    | none =>
      let m : RxMsg := { msn := h.msn.toNat, dsn := h.dsn.toNat, kind := h.kind.toNat, npk := h.npkm1.toNat + 1, written := [],
                         done := false, arrival := none, hdr := h }
      let m := m.tagged h
      let old (x : RxMsg) : Bool :=
        x.done && decide (2 ^ 22 ≤ (m.msn + 2 ^ 24 - x.msn) % 2 ^ 24 ∧ (m.msn + 2 ^ 24 - x.msn) % 2 ^ 24 < 2 ^ 23)
      let keep (l : List RxMsg) : List RxMsg :=
        let live := l.filter fun x => !x.done
        let gone := live.take (live.length - 63)
        l.filter fun x => !gone.contains x
      some (s.modRec p h fun r => { r with msgs := keep (r.msgs.filter fun x => !old x) ++ [m] }, m)

/-- The record of a closed channel ends once every message is complete: CLOSEACK (R420). -/
def State.rxClose (s : State) (p : Nat) (h : Pkt) : State :=
  match (s.link p).recOf h with
  | none => s
  | some r =>
    match r.closing with
    | some c =>
      if r.msgs.all (·.done) then
        (s.modLink p fun l => { l with recs := l.recs.filter fun x => x != r }).sendPkt p none { hdr := answer c 10, data := [] }
      else s
    | none => s

/-- A message ends at its holder. -/
def State.rxDone (s : State) (p : Nat) (h : Pkt) : State :=
  (s.modRec p h fun r =>
    let r := r.modMsg h.msn.toNat fun m => { m with done := true, arrival := none }
    r.settle r.msgs.length).rxClose p h

/-- A message fails at its holder (R420, R424): the NACK, and for statuses 2 to 5 a record, with the address of the line; the partition to wait for when
the record cannot be posted. -/
def State.rxFail (s : State) (p : Nat) (h : Pkt) (status addr : Nat) : Sum Nat State :=
  let w := s.win h.win.toNat
  let report := decide (2 ≤ status ∧ status ≤ 5)
  if report && !s.canPost w.part then .inl w.part
  else
    let s := if report then
        s.post w.part 0 0 { cause := if status = 4 then Cause.xlate else Cause.access, detail := 256 * (16 + status),
                            pos := linkNode p, nk := 6, fv := false, akind := if status < 4 then 0 else 1, addr := addr / 128 * 128,
                            auxv := h.sdev.toNat * 2 ^ 46 + h.win.toNat * 2 ^ 38 + h.off.toNat % 2 ^ 38, parked := false }
      else if status = 1 then s.modLink p fun l => { l with badPkt := satAdd 16 l.badPkt 1 } else s
    let a := { answer h 7 with aop := BitVec.ofNat 4 status }
    let a := if status = 6 then { a with tsite := h.tsite, len := h.len } else a
    .inr ((s.sendPkt p none { hdr := a, data := [] }).rxDone p h)

/-! ## Trimmed headers (R415, R416, R422, R424) -/

/-- I(t) of R422. -/
def Dev.pace (d : Dev) (t : Nat) : Nat := min (2 ^ (d.t0e + t - 1)) (2 ^ d.cape)

/-- The re-request that is out for a packet ends when the packet arrives, trimmed or whole (R422). -/
def State.rreqSeen (s : State) (p : Nat) (h : Pkt) : State :=
  let same (q : Rreq) : Bool := q.sent && decide (q.hdr.kind = h.kind ∧ q.hdr.sdev = h.sdev ∧ q.hdr.sport = h.sport ∧
    q.hdr.chan = h.chan ∧ q.hdr.msn = h.msn ∧ q.hdr.pidx = h.pidx)
  s.modLink p fun l => { l with rreqs := l.rreqs.filter fun q => !same q }

/-- A trimmed header is counted at its endpoint, the receiving node's own trims among them (R416, R440). -/
def State.countTrim (s : State) (p : Nat) : State := s.modLink p fun l => { l with trimRx := satAdd 64 l.trimRx 1 }

/-- A trimmed header: a re-request is queued, or the eighth trim is decided (R422, R424). -/
def State.rxTrim (s : State) (p : Nat) (h : Pkt) (lost : State → Sum Nat State) : Sum Nat State :=
  let t := h.trims.toNat + 1
  if t = 8 then
    match lost s with
    | .inl q => .inl q
    | .inr s => .inr (s.modLink p fun l => { l with lostRx := satAdd 32 l.lostRx 1 })
  else
    .inr (s.modLink p fun l => { l with
      rreqs := l.rreqs ++ [{ hdr := h, t := t, eligible := s.cyc + s.dev.pace t, sent := false }] })

/-- A packet that the receiving node treats as trimmed at itself (R415, R416). -/
def trimmedAt (h : Pkt) (p reason : Nat) : Pkt :=
  { h with trim := true, tc := 3, tsite := BitVec.ofNat 24 (pack [(16, reason), (6, p), (2, 3)]) }

/-! ## The holder's accesses (R420, R421) -/

/-- Bytes written in a window, line by line; a failing line ends the message with status 4 or 5 (R420). Answers the state
and the failure, if any: status and address. -/
def State.winWrite (s : State) (part : Nat) : List (Nat × Nat) → List Byte → State × Option (Nat × Nat)
  | [], _ => (s, none)
  | q :: rest, bs =>
    match s.reach part q.1 true with
    | .inl (cause, _, _) => (s, some (if cause = Cause.xlate then 4 else 5, q.1 % 2 ^ 48))
    | .inr (spa, dev) =>
      let w := s.unitWrite (some part) (lineOf spa) dev (s.dev.inTier spa) (cellsAt spa (bs.take q.2))
      State.winWrite w.1 part rest (bs.drop q.2)

/-- Bytes of a window. -/
def State.winRead (s : State) (part va k : Nat) : Sum (Nat × Nat) (State × List Byte) :=
  match s.gRead (some part) part va k with
  | .inl e => .inl (if e.cause = Cause.xlate then 4 else 5, e.addr)
  | .inr (s, bs, _) => .inr (s, bs)

/-- A packet's lines have been performed: its message ends with an ACK once they all are (R421). -/
def State.rxWritten (s : State) (p : Nat) (h : Pkt) (ack : Bool) : State :=
  let s := s.modRec p h fun r => r.modMsg h.msn.toNat fun m =>
    { m with written := if m.written.contains h.pidx.toNat then m.written else m.written ++ [h.pidx.toNat] }
  match ((s.link p).recOf h).bind fun r => r.msg h.msn.toNat with
  | none => s
  | some m =>
    if m.npk ≤ m.written.length then
      (if ack then s.sendPkt p none { hdr := answer h 6, data := [] } else s).rxDone p h
    else s

/-- The first address of a window's range in a line that an error poisoned (R502). -/
def State.winHurt (s : State) (part va k : Nat) : Option Nat :=
  (linePieces va k).findSome? fun q => match s.reach part q.1 false with
    | .inr (spa, _) => if s.badLines.contains (lineOf spa) then some (q.1 % 2 ^ 48) else none
    | .inl _ => none

/-- A request reads uncorrectable data of a window: its record goes to the window's partition (R502), once that has room (R495). -/
def State.tellHurt (s : State) (p : Nat) (w : RxWin) (bad : Option Nat) (k : State → Sum Nat State) : Sum Nat State :=
  match bad with
  | none => k s
  | some a =>
    if !s.canPost w.part then .inl w.part
    else k (s.post w.part 0 0 { cause := Cause.eccUncorr, detail := 1, pos := linkNode p, nk := 6, fv := false, akind := 1, addr := a,
                                parked := false })

/-- A GETR for a range of a window (R432), with its channel's class and its GETQ's tag, the first time and again (R410, R411, R423). -/
def State.sendGetr (s : State) (p : Nat) (h : Pkt) (trims : Nat) : Sum (Nat × Nat) State :=
  let w := s.win h.win.toNat
  match s.winRead w.part (w.gbase + h.off.toNat) h.len.toNat with
  | .inl e => .inl e
  | .inr (s, bs) =>
    let r := (s.link p).recOf h
    let tag := (r.bind fun r => r.msg h.msn.toNat).elim h.xtag.toNat fun m => m.tags.get h.xtag.toNat h.pidx.toNat
    .inr (s.sendPkt p none { hdr := { answer h 3 with
      tc := BitVec.ofNat 2 (r.elim 0 (·.tc)), trims := BitVec.ofNat 3 trims, len := h.len, xtag := BitVec.ofNat 16 tag }, data := bs })

/-! ## Arrivals (R427, R433) -/

/-- Arrivals of a window's queue. -/
def arrivalMax : Nat := 16

/-- A PUTN's payload: its arrival. The prefix's reserved bits are ignored (R4, R433). -/
def arrivalOf (bs : List Byte) : Arrival :=
  let w := ofBytes (bs.take 8)
  let body := bs.drop 8
  { mask := bits w 0 32, run := bits w 32 5 + 1, ty := bits w 37 4,
    slots := (List.range (body.length / 4)).map fun i => ofBytes ((body.drop (4 * i)).take 4) }

/-- NW of a PUTN that arrives: a free value, for nothing in the packet carries it (R433, log 12). -/
def nwOf (h : Pkt) : Bool := Config.nwOf h.sdev.toNat h.sport.toNat h.chan.toNat h.msn.toNat

/-- The elements that a PUTN writes: offset from the packet's OFF, and bytes. -/
def Arrival.writes (a : Arrival) : List (Nat × List Byte) :=
  let ty := Ty.ofCode a.ty
  let sz := tyBytes ty
  (maskLanes a.mask a.run).map fun l =>
    let v := if ty.isWide then a.slots.getD (2 * l) 0 + 2 ^ 32 * a.slots.getD (2 * l + 1) 0 else a.slots.getD l 0
    (l * sz, toBytes sz v)

/-- An arrival enters its window's queue, and its message ends with an ACK (R421, R427). -/
def State.enterArrival (s : State) (p : Nat) (h : Pkt) (w : Nat) (a : Arrival) : State :=
  ((s.modWin w fun x => { x with arrivals := x.arrivals ++ [a] }).sendPkt p none { hdr := answer h 6, data := [] }).rxDone p h

end Sys2Proof.Machine
end

