-- ==== Sys2Proof/Machine/Link.lean ====
section
/-! DEFINITION. The Link Engine: its instructions (R429 to R437), the packets that reach a link node (R411, R420 to R424,
R431) and its events (R409, R414, R422, R427, R436, R505). -/

namespace Sys2Proof.Machine

/-! ## What the instructions share (R408, R426, R430) -/

/-- The port of the current step's link node. -/
def State.curPort (s : State) : Nat := portOfLink s.cur.pos

/-- The channel that an instruction names: context c owns channels 8c to 8c + 7 (R419). -/
def chanOf (f : Firing) (n : Niw) : Nat := 8 * f.ctx + n.imm.toNat % 8

/-- No channel: the instruction's receipt keeps no place (LCFG). -/
def noChan : Nat := 64

/-- What an instruction owes: its reply (port plus one), its receipt, the active lanes of its reply. -/
structure Owes where
  chan : Nat
  reply : Nat := 0
  rw : Nat := 0
  wide : Bool := false
  poisoned : Bool := false
  bad : Nat := 0
  vals : List (Nat × Word) := []
  place : Bool := false
  left : List Nat := []

/-- An instruction issues: it takes its place on its channel, and its reply and receipt are owed (R147, R426). -/
def State.linkOpen (s : State) (f : Firing) (o : Owes) : State × Nat :=
  let p := s.curPort
  let id := (s.link p).nextOp
  let op : LinkOp := { id := id, region := f.region, ctx := f.ctx, frame := f.frame, iter := f.iter, len := f.len,
                       mask := f.tmask % 2 ^ f.len, pmask := f.pmask, opc := (f.words.getD f.ix 0).toNat / 2 ^ 56, seqix := f.ix,
                       chan := o.chan, reply := o.reply, wide := o.wide, rw := o.rw, left := o.left, done := false,
                       poisoned := o.poisoned, flags := 0, vals := o.vals, badLanes := o.bad, place := o.place }
  let s := s.modLink p fun l => { l with ops := l.ops ++ [op], nextOp := id + 1 }
  (s.owe s.cur.pos f.ctx f.frame (b2n (o.reply != 0) + b2n (o.rw != 0)), id)

/-- An instruction that sends no message: its receipt and reply in their turn, and the firing goes on. -/
def State.linkAtOnce (s : State) (f : Firing) (o : Owes) : Out :=
  let s := (s.linkOpen f o).1
  .next ((s.publish s.curPort o.chan).goOn)

/-- Lanes or instructions suppressed at the link node (R430). -/
def State.linkSunk (s : State) (k : Nat) : State := s.modLink s.curPort fun l => { l with psup := satAdd 64 l.psup k }

/-- An instruction of a link node: after an acquire it waits for its replies (R428); SKIP, PATCH and a zero mask send no
message (R430, R449); any other runs. -/
def State.linkInsn (s : State) (o : Firing → Owes) (ty : Ty) (k : Firing → Region → Out) : Out :=
  s.withFiring fun f => s.withRegion f fun r =>
    let eff := f.tmask % 2 ^ f.len
    if f.opid ≠ 0 then
      if (s.link s.curPort).ops.any fun x => x.id == f.opid && !x.done then .next s else .next s.goOn
    else if f.skipped then
      (s.linkSunk (popcount eff f.len)).linkAtOnce f { o f with poisoned := true, bad := eff }
    else match f.patch with
      | some v => s.linkAtOnce f { o f with vals := (maskLanes eff f.len).map fun l => (l, BitVec.ofNat 64 (v.toNat % 2 ^ ty.width)) }
      | none => if eff = 0 then s.linkAtOnce f (o f) else k f r

/-- A link instruction faults (R438). -/
def State.linkFault (s : State) (f : Firing) (cause detail : Nat) (addr : Option Nat) (auxv : Nat) : Out :=
  s.takeFrameFault s.cur.pos s.cur.slot .firing { s.infoOf s.cur.pos f cause detail with
    akind := if addr.isSome then 1 else 0, addr := addr.getD 0, auxv := auxv }

/-- New messages wait: the partition stalls (R49), the node has met a cut (R439), the channel is being closed, or a limit of
R408 would be exceeded. -/
def State.linkWaits (s : State) (r : Region) (j k : Nat) : Bool :=
  let l := s.link s.curPort
  s.stalled r.part || (s.node s.cur.pos).ctxs.any (fun x => x.ownedBy r.id && x.cut) || (l.chan j).closing || (l.chan j).shut || decide (64 < l.outs j + k ∨ 512 < l.msgs.length + k)

/-- A release waits until the writes of earlier releases have left the write buffers (R353, R428). -/
def State.relWaits (s : State) (ord : Nat) : Bool := bit ord 1 && !s.relClear 3

/-- Sinks of an instruction (R430): the first reports. -/
def State.linkSinks (s : State) (f : Firing) (lanes : List Nat) (akind addr : Nat) : State :=
  match lanes with
  | [] => s
  | l :: _ => (s.linkSunk lanes.length).reportSink s.cur.pos f akind addr l lanes.length

/-- The messages of an instruction are issued, in lane order, and the firing goes on or, after an acquire, waits. With REL the lines of
second-tier memory in its release set are performed at SYS first (R428, R353). -/
def State.linkIssue (s : State) (f : Firing) (o : Owes) (ord : Nat) (ms : List Msg) : Out :=
  let s := if bit ord 1 then s.released f 3 else s
  let (s, id) := s.linkOpen f o
  let p := s.curPort
  let s := ms.foldl (fun s m => s.sendMsg p { m with op := id, region := f.region }) s
  let s := s.publish p o.chan
  if bit ord 0 && decide (f.ix + 1 < f.words.length) then .next (s.modSlot s.cur.pos s.cur.slot fun f => { f with opid := id })
  else .next s.goOn

/-- A message still to be issued. -/
def newMsg (chan kind lane rem loc len part : Nat) : Msg :=
  { id := 0, op := 0, chan := chan, kind := kind, lane := lane, msn := 0, dsn := 0, ddev := 0, win := 0, rkey := 0, rem := rem,
    loc := loc, len := len, npk := 0, tc := 0, ord := false, region := 0, part := part, aop := 0, aty := 0, keep := [] }

/-! ## LPUT and LGET (R432) -/

/-- The checks of one lane of LPUT or LGET: cause, DETAIL, address and AUXV of a failure, or its message. -/
def State.blockLane (s : State) (part : Nat) (c : Chan) (j kind len base lane b d : Nat) :
    Sum (Nat × Nat × Option Nat × Nat) Msg :=
  let loc := wrap (base + sx b 32) 48
  let rem : Int := c.cb + sx d 32
  if !c.opened then .inl (Cause.illegalCfg, lane + 256, none, 0)
  else if loc % 64 ≠ 0 ∨ rem % 64 ≠ 0 then .inl (Cause.align, lane, some loc, 0)
  else if rem < 0 ∨ (2 ^ 40 : Int) < rem + len then .inl (Cause.access, lane + 256 * 12, some loc, 0)
  else match s.pagesOf part loc len (kind == 2) with
    | .inl (cause, code, aux, a) => .inl (cause, lane + 256 * code, some a, aux)
    | .inr xs => .inr { newMsg j kind lane rem.toNat loc len part with xl := xs }

/-- LPUT and LGET: the checks of every lane come before any message (R430). -/
def State.moveBlocks (s : State) (n : Niw) (kind : Nat) : Out :=
  let rw := Niw.rwx n
  s.linkInsn (fun f => { chan := chanOf f n, rw := rw }) n.ty fun f r =>
    match f.addrConst n.a with
    | some (true, base) =>
      let j := chanOf f n
      let c := (s.link s.curPort).chan j
      let len := 64 * (n.imm.toNat / 8 + 1)
      let lanes := (f.active .token).map fun l =>
        let b := s.readSel s.cur.pos f n .i32 1 n.b l
        let d := s.readSel s.cur.pos f n .i32 2 n.c l
        (l, b.1, d.1, b.2 || d.2)
      let good := (lanes.filter fun x => !x.2.2.2).map fun x => s.blockLane r.part c j kind len base x.1 x.2.1 x.2.2.1
      let bad := lanes.filter fun x => x.2.2.2
      match good.findSome? fun x => match x with | .inl e => some e | .inr _ => none with
      | some (cause, detail, addr, aux) => s.linkFault f cause detail addr aux
      | none =>
        let ms := good.filterMap fun x => match x with | .inl _ => none | .inr m => some m
        if s.sinkMustWait f && !bad.isEmpty then .next (s.waitToPost r.part)
        else if s.linkWaits r j ms.length || s.relWaits (Niw.ord n) then .next s
        else if !s.hurtFits r.part ms then .next (s.waitToPost r.part)
        else
          let addr := match bad with | x :: _ => wrap (base + sx x.2.1 32) 48 | [] => 0
          (s.linkSinks f (bad.map (·.1)) 1 addr).linkIssue f { chan := j, rw := rw, poisoned := !bad.isEmpty }
            (Niw.ord n) ms
    | _ => s.badOperand f

/-- LPUT (R432). -/
def execLput (n : Niw) (s : State) : Out := s.moveBlocks n 0
/-- LGET (R432). -/
def execLget (n : Niw) (s : State) : Out := s.moveBlocks n 2

/-! ## LPUTN (R433) -/

/-- A PUTN's payload: its prefix, whose reserved bits are 0, and the lanes' slots (R28, R433). NW has no place in it (log 12). -/
def putnPayload (ty : Ty) (run mask : Nat) (vs : List Nat) : List Byte :=
  toBytes 8 (pack [(32, mask), (5, run - 1), (4, Ty.code ty)]) ++ vs.flatMap fun v => toBytes (if ty.isWide then 8 else 4) v

/-- LPUTN (R433). -/
def execLputn (n : Niw) (s : State) : Out :=
  let rw := Niw.rwx n
  s.linkInsn (fun f => { chan := chanOf f n, rw := rw }) n.ty fun f r =>
    let j := chanOf f n
    let c := (s.link s.curPort).chan j
    let a := (f.active .token).headD 0
    let b := s.readSel s.cur.pos f n .i32 1 n.b a
    let sz := tyBytes n.ty
    let rem : Int := c.cb + sx b.1 32
    let nw := bit n.imm.toNat 3
    let sty := if n.ty.isWide then Ty.n64 else Ty.n32
    let col := (f.active .token).map fun l => (l, s.readSel s.cur.pos f n sty 0 n.a l)
    let bad := (col.filter fun x => x.2.2).map (·.1)
    let mask := maskOf f.len fun l => col.any fun x => x.1 == l && !x.2.2
    if n.ty.isWide ∧ 16 < f.len then s.badOperand f
    else if b.2 then
      if s.sinkMustWait f then .next (s.waitToPost r.part)
      else
        let s := (s.linkSunk 1).reportSink s.cur.pos f 3 (s.sinkEdge s.cur.pos f.ctx rw) a (f.active .token).length
        s.linkAtOnce f { chan := j, rw := rw, poisoned := true }
    else if !c.opened then s.linkFault f Cause.illegalCfg (a + 256) none 0
    else if !nw && decide (rem % sz ≠ 0) then s.linkFault f Cause.align a none 0
    else if !nw && decide (rem < 0 ∨ (2 ^ 40 : Int) < rem + f.len * sz) then s.linkFault f Cause.access (a + 256 * 12) none 0
    else if s.sinkMustWait f && !bad.isEmpty then .next (s.waitToPost r.part)
    else if s.linkWaits r j 1 || s.relWaits (Niw.ord n) then .next s
    else
      let vs := (List.range f.len).map fun l => if bit mask l then ((Table.find col l).getD (0, false)).1 % 2 ^ n.ty.width else 0
      let bs := putnPayload n.ty f.len mask vs
      let m := { newMsg j 1 a (wrap rem 40) 0 bs.length r.part with keep := bs }
      (s.linkSinks f bad 3 (s.sinkEdge s.cur.pos f.ctx rw)).linkIssue f { chan := j, rw := rw, poisoned := !bad.isEmpty } (Niw.ord n) [m]

/-! ## LATOM (R434) -/

/-- The Home Slice operation of an LATOM's op code. -/
def latomOpc (op : Nat) : Nat := [0xd0, 0xd2, 0xd3, 0xd6, 0xd7, 0xd8, 0xd9, 0xda, 0xd1].getD op 0xd0

/-- LATOM (R434): one message a lane. -/
def execLatom (n : Niw) (s : State) : Out :=
  let rw := Niw.rwx n
  let rep := Dst.replyIx n.d
  let op := bits n.imm.toNat 3 4
  s.linkInsn (fun f => { chan := chanOf f n, rw := rw, reply := rep, wide := n.ty.isWide }) n.ty fun f r =>
    let j := chanOf f n
    let c := (s.link s.curPort).chan j
    let bty := if op = 7 then Ty.n64 else n.ty
    let lanes := (f.active .token).map fun l =>
      let a := s.readSel s.cur.pos f n .i32 0 n.a l
      let b := s.readSel s.cur.pos f n bty 1 n.b l
      (l, a.1, b.1, a.2 || b.2)
    let good := lanes.filter fun x => !x.2.2.2
    let bad := (lanes.filter fun x => x.2.2.2).map (·.1)
    if op = 7 ∧ 16 < f.len then s.badOperand f
    else if !c.opened && !good.isEmpty then s.linkFault f Cause.illegalCfg ((good.map (·.1)).headD 0 + 256) none 0
    else if s.sinkMustWait f && !bad.isEmpty then .next (s.waitToPost r.part)
    else if s.linkWaits r j good.length || s.relWaits (Niw.ord n) then .next s
    else
      let ms := good.map fun x =>
        { newMsg j 4 x.1 (wrap (c.cb + sx x.2.1 32 * tyBytes n.ty) 40) 0 8 r.part with
          aop := op, aty := Ty.code n.ty, keep := toBytes 8 x.2.2.1 }
      (s.linkSinks f bad 3 (s.sinkEdge s.cur.pos f.ctx (if rw = 0 then rep else rw))).linkIssue f
        { chan := j, rw := rw, reply := rep, wide := n.ty.isWide, poisoned := !bad.isEmpty, bad := maskOf f.len bad.contains }
        (Niw.ord n) ms

/-! ## LFLUSH, LCHAN, LCFG, LSTAT -/

/-- RWX of an X-form word. -/
def linkRwx (n : Niw) : Nat := n.opt.toNat % 8

/-- LFLUSH (R435): its receipt follows every message issued on the channel before it. -/
def execLflush (n : Niw) (s : State) : Out :=
  let rw := linkRwx n
  s.linkInsn (fun f => { chan := chanOf f n, rw := rw, place := true }) n.ty fun f _ =>
    let j := chanOf f n
    let l := s.link s.curPort
    if !(l.chan j).opened then s.linkFault f Cause.illegalCfg 256 none 0
    else s.linkAtOnce f { chan := j, rw := rw, place := true, left := (l.msgs.filter fun m => m.chan == j).map (·.id) }

/-- LCHAN waits in its slot until its channel is closed: first for its messages, then for CLOSEACK; `k` acts once it is. -/
def State.whenClosed (s : State) (f : Firing) (r : Region) (j : Nat) (k : State → Out) : Out :=
  let p := s.curPort
  let c := (s.link p).chan j
  if f.part = 1 then (if c.opened then .next s else k s)
  else if c.closing || decide (0 < (s.link p).outs j) then .next s
  else .next ((s.sendClose p (some r.part) j).modSlot s.cur.pos s.cur.slot fun f => { f with part := 1 })

/-- The words of LCHAN.OPEN pass their checks (R418, R431); the first that fails. -/
def chanWordBad (d b : Nat) : Option Nat :=
  if bits d 0 20 ≠ 0 then some d else if bits b 40 24 ≠ 0 ∨ b % 64 ≠ 0 then some b else none

/-- LCHAN.OPEN (R431). -/
def execLchanOpen (n : Niw) (s : State) : Out :=
  let rw := linkRwx n
  s.linkInsn (fun f => { chan := chanOf f n, rw := rw }) n.ty fun f r =>
    let p := s.curPort
    let j := chanOf f n
    let a := (f.active .token).headD 0
    let d := (s.readSel s.cur.pos f n .n64 0 n.a a).1
    let b := (s.readSel s.cur.pos f n .n64 1 n.b a).1
    let c := (s.link p).chan j
    let store (s : State) : Out :=
      (s.modChan p j fun c => { c with desc := BitVec.ofNat 64 d, base := BitVec.ofNat 64 b, msn := 0, dsn := 0,
                                       opened := true }).linkAtOnce f { chan := j, rw := rw }
    match chanWordBad d b with
    | some w => s.linkFault f Cause.illegalCfg 512 none w
    | none =>
      if c.opened && f.part == 0 && !c.closing && c.desc.toNat == d && c.base.toNat == b then s.linkAtOnce f { chan := j, rw := rw }
      else if !c.opened && f.part == 0 then store s
      else s.whenClosed f r j store

/-- LCHAN.CLOSE (R431). -/
def execLchanClose (n : Niw) (s : State) : Out :=
  let rw := linkRwx n
  s.linkInsn (fun f => { chan := chanOf f n, rw := rw }) n.ty fun f r =>
    let j := chanOf f n
    let done (s : State) : Out := s.linkAtOnce f { chan := j, rw := rw }
    if !((s.link s.curPort).chan j).opened then done s else s.whenClosed f r j done

/-- The window of an LCFG. -/
def lcfgWin (n : Niw) : Nat := n.imm.toNat % 256

/-- A context's binding of a window ends: the frame's TCNT falls (R436). -/
def State.unbind (s : State) (w : Nat) : State :=
  let x := s.win w
  (s.tcntSub x.bregion x.bframe 1).modWin w fun x => { x with bound := false, bctx := 0, bport := 0, bframe := 0, bregion := 0 }

/-- LCFG.BIND (R436). -/
def execLcfgBind (n : Niw) (s : State) : Out :=
  let rw := linkRwx n
  s.linkInsn (fun _ => { chan := noChan, rw := rw }) n.ty fun f r =>
    let w := lcfgWin n
    let x := s.win w
    let mine := decide (x.bctx = f.ctx ∧ x.bregion = r.id)
    if !x.en || x.part != r.part || x.port != s.curPort || (x.bound && !mine) || decide ((r.frame f.frame).s < 5) then
      s.linkFault f Cause.illegalCfg (256 * 3) none w
    else
      let s := if x.bound then s.unbind w else s
      let s := s.tcntAdd r.id f.frame 1
      (s.modWin w fun x => { x with bound := true, bctx := f.ctx, bport := bits n.imm.toNat 8 2, bframe := f.frame,
                                    bregion := r.id }).linkAtOnce f { chan := noChan, rw := rw }

/-- LCFG.UNBIND (R436): of a window that the context does not hold, no effect. -/
def execLcfgUnbind (n : Niw) (s : State) : Out :=
  let rw := linkRwx n
  s.linkInsn (fun _ => { chan := noChan, rw := rw }) n.ty fun f r =>
    let x := s.win (lcfgWin n)
    let s := if x.bound && decide (x.bctx = f.ctx ∧ x.bregion = r.id ∧ x.port = s.curPort) then s.unbind (lcfgWin n) else s
    s.linkAtOnce f { chan := noChan, rw := rw }

/-- The counter that LSTAT reads (R437). -/
def State.linkStat (s : State) (p j k sel : Nat) : Nat :=
  let l := s.link p
  let c := l.chan j
  (match sel with
  | 0 => c.trims
  | 1 => c.retx
  | 2 => c.lost
  | 3 => l.outs j
  | 4 => l.trimRx
  | 5 => l.trimTx
  | 6 => (s.windows.filter fun w => w.2.bound && w.2.port == p && w.2.bctx == k).foldl (fun n w => n + w.2.arrivals.length) 0
  | _ => c.msn) % 2 ^ 32

/-- LSTAT (R437). -/
def execLstat (n : Niw) (s : State) : Out :=
  s.result n false 32 fun f =>
    let v := s.linkStat s.curPort (chanOf f n) f.ctx (n.opt.toNat / 8)
    (f.active n.pred).map fun l => (l, { v := v, psn := false })

/-! ## Requests at the window holder (R420, R421, R427) -/

/-- A packet of one of this device's own channels has been accepted: progress of the channel's region (R458). -/
def State.ownPacket (s : State) (h : Pkt) : State :=
  if h.sdev.toNat = s.dev.devno then ((s.link h.sport.toNat).msgOf h).elim s fun m => s.progress m.region else s

/-- A request arrives at its holder (R416, R420): its record, the checks of its window, and its trim; `perform` acts on a
whole packet that passes. A request that finds no free record is treated as trimmed here (R416, log 15). -/
def State.rxRequest (s : State) (p : Nat) (x : Packet) (perform : State → RxMsg → RxWin → Sum Nat State) : Sum Nat State :=
  let h := x.hdr
  let s := (s.rreqSeen p h).ownPacket h
  let trimmed (s : State) (h : Pkt) : Sum Nat State := s.rxTrim p h fun s => s.rxFail p h 6 0
  match s.rxOpen p h with
  | none => if h.trim then trimmed s h else trimmed (s.countTrim p) (trimmedAt h p 1)
  | some (s, m) =>
    if m.done then .inr s
    else
      let w := s.win h.win.toNat
      let st := if !w.en then 1 else if w.rkey ≠ h.rkey.toNat then 2 else if w.len < h.off.toNat + h.len.toNat then 3 else 0
      if st ≠ 0 then s.rxFail p h st 0
      else if h.trim then trimmed s h
      else if h.kind.toNat = 1 ∧ arrivalMax ≤ w.arrivals.length then trimmed (s.countTrim p) (trimmedAt h p 2)
      else perform s m w

/-- PUT (R420, R421): its lines are performed at SYS. -/
def execPkPut (s : State) : Out :=
  s.withPkt fun s x =>
    s.rxRequest x.port x.pkt fun s _ w =>
      let h := x.pkt.hdr
      match s.winWrite w.part (linePieces (w.gbase + h.off.toNat) h.len.toNat) x.pkt.data with
      | (s', some (st, a)) =>
        match s'.rxFail x.port h st a with
        | .inl q => .inl q
        | .inr s => .inr s
      | (s', none) => .inr (s'.rxWritten x.port h true)

/-- PUTN (R421, R427, R433): its elements are written, and its arrival enters its window's queue at once, or, on an ordered
channel, when every earlier PUT and PUTN is complete. -/
def execPkPutn (s : State) : Out :=
  s.withPkt fun s x =>
    s.rxRequest x.port x.pkt fun s m w =>
      let h := x.pkt.hdr
      let a := arrivalOf x.pkt.data
      let r := (if nwOf h then [] else a.writes).foldl (fun (acc : State × Option (Nat × Nat)) e =>
        match acc with
        | (s, some f) => (s, some f)
        | (s, none) => s.winWrite w.part (linePieces (w.gbase + h.off.toNat + e.1) e.2.length) e.2) (s, none)
      match r with
      | (s', some (st, ad)) => s'.rxFail x.port h st ad
      | (s', none) =>
        let next := match (s'.link x.port).recOf h with | some c => c.next | none => 0
        if h.ord && next != m.dsn then
          .inr (s'.modRec x.port h fun c => c.modMsg m.msn fun m => { m with written := [0], arrival := some (h.win.toNat, a) })
        else .inr (s'.enterArrival x.port h h.win.toNat a)

/-- GETQ (R432): the window's bytes are read at their home slices and returned. -/
def execPkGetq (s : State) : Out :=
  s.withPkt fun s x =>
    s.rxRequest x.port x.pkt fun s _ w =>
      let h := x.pkt.hdr
      s.tellHurt x.port w (s.winHurt w.part (w.gbase + h.off.toNat) h.len.toNat) fun s =>
        match s.sendGetr x.port h 0 with
        | .inl (st, a) => s.rxFail x.port h st a
        | .inr s => .inr (s.rxWritten x.port h false)

/-- ATOMQ (R434): a Home Slice operation of one lane at scope SYS; ATOMR returns the old value and the flags. -/
def execPkAtomq (s : State) : Out :=
  s.withPkt fun s x =>
    s.rxRequest x.port x.pkt fun s _ w =>
      let h := x.pkt.hdr
      let ty := Ty.ofCode h.aty.toNat
      let sz := tyBytes ty
      let va := (w.gbase + h.off.toNat) % 2 ^ 48
      let t := s.walk w.part va
      match t.fault s.dev true true va with
      | some (cause, _, _) => s.rxFail x.port h (if cause = Cause.xlate then 4 else 5) va
      | none =>
        let op := latomOpc h.aop.toNat
        let v := ofBytes (x.pkt.data.take 8)
        let (b, c) := if op = 0xda then (v % 2 ^ 32, v / 2 ^ 32) else (v % 2 ^ ty.width, 0)
        let spa := t.pa va
        s.tellHurt x.port w (if s.badLines.contains (lineOf spa) then some va else none) fun s =>
        let s := s.lineReady (lineOf spa)
        let old := Memory.value s.mem spa sz
        let new := atomStep { ty := ty, rm := .rne, sat := false, fz := false, draw := 0 } op old b c
        let s := (s.writeEvent (some w.part) (lineOf spa) t.dev (s.dev.inTier spa) true true (cellsAt spa (toBytes sz new.1))).1
        let a := { answer h 5 with len := 16, aty := h.aty, xtag := h.xtag }
        .inr ((s.sendPkt x.port none { hdr := a, data := toBytes 8 old ++ toBytes 8 new.2 }).rxWritten x.port h false)

/-- LINK_CLOSE (R420): the channel's record is freed and CLOSEACK sent once its messages are complete, or at once when there
is no record. -/
def execPkLinkClose (s : State) : Out :=
  s.withPkt fun s x =>
    let h := x.pkt.hdr
    match (s.link x.port).recOf h with
    | none => .inr (s.sendPkt x.port none { hdr := answer h 10, data := [] })
    | some _ => .inr ((s.modRec x.port h fun r => { r with closing := some h }).rxClose x.port h)

/-- PUTN_ARRIVAL_ENTER (R427): the arrival of an ordered PUTN that is next enters its window's queue when there is room.
Operand i: the link node; j: the record's place. -/
def execEvPutnArrivalEnter (s : State) : Out :=
  s.withEv fun e =>
    let p := e.i.toNat
    match (s.link p).recs[e.j.toNat]? with
    | none => .next s
    | some r =>
      match r.msgs.find? fun m => m.arrival.isSome && !m.done && m.dsn == r.next with
      | some m =>
        match m.arrival with
        | some (w, a) => if (s.win w).arrivals.length < arrivalMax then .next (s.enterArrival p m.hdr w a) else .next s
        | none => .next s
      | none => .next s

/-- ARRIVAL_EMIT (R436): the oldest arrival of a bound window is sent as a token, when its port has the credits. Operand i:
the window. -/
def execEvArrivalEmit (s : State) : Out :=
  s.withEv fun e =>
    let w := e.i.toNat
    let x := s.win w
    match x.arrivals with
    | [] => .next s
    | a :: rest =>
      let pos := linkNode x.port
      let wide := Ty.isWide (Ty.ofCode a.ty)
      if !x.bound || s.cutAt pos x.bctx || !s.canRun x.bregion || !s.canReserve pos x.bctx x.bport (tokensOf wide a.run) then .next s
      else
        let slot (i : Nat) : Nat := a.slots.getD i 0
        let t : Token := { kind := .value, dst := mkCoord 0 0 0, ctx := 0, port := 0, frame := x.bframe, iter := 0, len := a.run,
                           aux := 0, mask := a.mask % 2 ^ a.run, poison := 0, wide := wide,
                           lanes := (List.range a.run).map fun l =>
                             BitVec.ofNat 64 (if wide then slot (2 * l) + 2 ^ 32 * slot (2 * l + 1) else slot l) }
        let s := s.modWin w fun x => { x with arrivals := rest }
        .next ((s.enqueueRun pos x.bctx x.bport true false t).progress x.bregion)

/-! ## Answers at the sender (R421, R423, R424, R431) -/

/-- An answer to a message of this device: one whose message has ended is discarded (R505); the timer restarts, and it is progress of
the message's region (R458). -/
def State.withMsg (s : State) (p : Nat) (h : Pkt) (k : State → Msg → Sum Nat State) : Sum Nat State :=
  match (s.link p).msgOf h with
  | none => .inr s
  | some m => k ((s.modMsg p m.id fun m => { m with last := s.cyc }).progress m.region) m

/-- GETR (R421): the bytes are written locally; the message completes with its last packet. -/
def execPkGetr (s : State) : Out :=
  s.withPkt fun s x =>
    let p := x.port
    let h := x.pkt.hdr
    let s := s.rreqSeen p h
    s.withMsg p h fun s m =>
      let i := h.pidx.toNat
      let (s, lost) := s.msgWrite m (linePieces (m.loc + 4096 * i) x.pkt.data.length) x.pkt.data
      let s := if lost then s.modLinkOp p m.op fun o => { o with poisoned := true } else s
      let m := { m with got := if m.got.contains i then m.got else m.got ++ [i] }
      let s := s.modMsg p m.id fun x => { x with got := m.got }
      .inr (if m.npk ≤ m.got.length then s.msgDone p m false false else s)

/-- ATOMR (R434): the lane's old value, and its flags for an FADD. -/
def execPkAtomr (s : State) : Out :=
  s.withPkt fun s x =>
    let p := x.port
    s.withMsg p x.pkt.hdr fun s m =>
      let v := BitVec.ofNat 64 (ofBytes (x.pkt.data.take 8))
      let fl := (x.pkt.data.getD 8 0).toNat % 128
      let s := s.modLinkOp p m.op fun o =>
        { o with vals := o.vals ++ [(m.lane, v)], flags := if m.aop = 8 then o.flags ||| fl else o.flags }
      .inr (s.msgDone p m false false)

/-- ACK (R421). -/
def execPkAck (s : State) : Out :=
  s.withPkt fun s x => s.withMsg x.port x.pkt.hdr fun s m => .inr (s.msgDone x.port m false false)

/-- Word 3 of a header. -/
def word3 (h : Pkt) : Nat := ((encodePkt h).getD 3 0).toNat

/-- The record of a lost packet (R438). -/
def State.lostInfo (s : State) (p : Nat) (m : Msg) (h : Pkt) : FaultInfo :=
  let i := s.msgInfo p m Cause.trimLimit (m.lane + 256 * h.pidx.toNat)
  let local' := m.kind = 0 ∨ m.kind = 2
  { i with akind := if local' then 1 else 0, addr := if local' then (m.loc + 4096 * h.pidx.toNat) % 2 ^ 48 else 0, auxv := word3 h }

/-- NACK (R420, R424, R438): the message completes as failed, or as lost with status 6. -/
def execPkNack (s : State) : Out :=
  s.withPkt fun s x =>
    let p := x.port
    let h := x.pkt.hdr
    s.withMsg p h fun s m =>
      let st := h.aop.toNat
      if st = 6 then s.msgFail p m true (s.lostInfo p m h)
      else
        s.msgFail p m false { s.msgInfo p m (if st = 4 then Cause.xlate else Cause.access) (m.lane + 256 * (16 + st)) with
          auxv := m.ddev * 2 ^ 46 + m.win * 2 ^ 38 + h.off.toNat % 2 ^ 38 }

/-- TRIMMED_HEADER (R422, R424): at a window holder for a PUT or PUTN, at the requester for a GETR. -/
def execPkTrimmedHeader (s : State) : Out :=
  s.withPkt fun s x =>
    let p := x.port
    let h := x.pkt.hdr
    let s := s.countTrim p
    if h.kind.toNat = 3 then
      let s := s.rreqSeen p h
      s.withMsg p h fun s m =>
        let s := s.modChan p m.chan fun c => { c with trims := satAdd 16 c.trims 1 }
        s.rxTrim p h fun s => s.msgFail p m true (s.lostInfo p m h)
    else s.rxRequest p x.pkt fun s _ _ => .inr s

/-- A node sends a packet again (R423, R440). -/
def LinkNode.resent (l : LinkNode) : LinkNode :=
  { l with rrRecv := satAdd 32 l.rrRecv 1, trimTx := satAdd 64 l.trimTx 1, retx := satAdd 32 l.retx 1 }

/-- RREQ (R423): the packet is formed again: a PUT from the local source, a PUTN from the payload kept, a GETR from the
window. One whose message has ended is discarded (R505). -/
def execPkRreq (s : State) : Out :=
  s.withPkt fun s x =>
    let p := x.port
    let h := x.pkt.hdr
    if s.rreqOfPut h then
      s.withMsg p h fun s m => if !s.hurtFits m.part [m] then .inl m.part else
        let s := s.modLink p LinkNode.resent
        let s := s.modChan p m.chan fun c => { c with trims := satAdd 16 c.trims 1, retx := satAdd 16 c.retx 1 }
        .inr (s.sendPacket p m h.pidx.toNat h.trims.toNat)
    else if s.rreqOfGet h && (s.win h.win.toNat).en && (s.win h.win.toNat).port == p then
      let s := (s.modLink p LinkNode.resent).ownPacket h
      match s.sendGetr p h h.trims.toNat with
      | .inl (st, a) => s.rxFail p h st a
      | .inr s => .inr s
    else .inr (s.modLink p fun l => { l with rrRecv := satAdd 32 l.rrRecv 1 })

/-- CLOSEACK (R431, R439): the channel is closed; a context that its block has left returns with its last channel. -/
def execPkCloseack (s : State) : Out :=
  s.withPkt fun s x =>
    let j := x.pkt.hdr.chan.toNat
    if ((s.link x.port).chan j).closing then
      let s := s.modChan x.port j fun c => { c with opened := false, closing := false, shut := false }
      .inr (s.modLink x.port fun l =>
        { l with leaving := l.leaving.filter fun k => k.1 != j / 8 || (List.range 8).any fun i => (l.chan (8 * k.1 + i)).opened || (l.chan (8 * k.1 + i)).closing })
    else .inr s

/-! ## Events -/

/-- RREQ_SEND (R422): the earliest eligible re-request to its device is sent, within the outstanding limit. Operand i: the
link node; j: its place. -/
def execEvRreqSend (s : State) : Out :=
  s.withEv fun e =>
    match (s.link e.i.toNat).rreqs[e.j.toNat]? with
    | none => .next s
    | some q =>
      let all := (s.links.flatMap fun l => l.2.rreqs).filter fun x => x.hdr.sdev = q.hdr.sdev
      let key (x : Rreq) : List Nat := [x.eligible, x.hdr.sport.toNat, x.hdr.chan.toNat, x.hdr.msn.toNat, x.hdr.pidx.toNat]
      let ended := match ((s.link e.i.toNat).recOf q.hdr).bind fun r => r.msg q.hdr.msn.toNat with
        | some m => m.done
        | none => false
      if q.sent || s.cyc < q.eligible || (all.any fun x => !x.sent && decide (x.eligible ≤ s.cyc) && decide (key x < key q)) then .next s
      else if q.hdr.kind.toNat != 3 && ended then
        .next (s.modLink e.i.toNat fun l => { l with rreqs := dropNth l.rreqs e.j.toNat })
      else if s.dev.wm1 + 1 ≤ (all.filter (·.sent)).length then .next s
      else
        let h := { answer q.hdr 8 with trims := BitVec.ofNat 3 q.t, tsite := q.hdr.tsite, len := q.hdr.len }
        let s := s.modLink e.i.toNat fun l =>
          { l with rreqs := setNth l.rreqs e.j.toNat { q with sent := true }, rrSent := satAdd 32 l.rrSent 1 }
        .next (s.sendPkt e.i.toNat none { hdr := h, data := [] })

/-- MESSAGE_LIFETIME_EXPIRY (R505). Operand i: the link node; j: the message's number. -/
def execEvMessageLifetimeExpiry (s : State) : Out :=
  s.withEv fun e =>
    let p := e.i.toNat
    match (s.link p).msgs.find? fun m => m.id == e.j.toNat with
    | none => .next s
    | some m =>
      if (s.cyc + 2 ^ 64 - m.last) % 2 ^ 64 < 2 ^ (s.dev.cape + 3) then .next s
      else match s.msgFail p m true (s.msgInfo p m Cause.trimLimit (m.lane + 0x8000)) with
        | .inl part => .next (s.waitToPost part)
        | .inr s => .next s

/-- Flits of packets of classes 0 to 2 that cross on package and that may stand before the packet at a place in a queue that it joins
(R414): those sent later between the same nodes follow it (R413). -/
def State.crossingFlits (s : State) (i : Nat) : Nat :=
  let later (x : PktIn) : Bool := match s.packets[i]? with
    | some y => x.port == y.port && decide (s.flow x.pkt.hdr = s.flow y.pkt.hdr)
    | none => false
  (s.packets.take i ++ (s.packets.drop (i + 1)).filter (!later ·)).foldl
    (fun n x => if x.crossing && x.pkt.hdr.tc != 3 then n + flitsOf x.pkt.hdr else n) 0

/-- PACKET_TRIM (R414 to R416): a crossing router on the package trims a packet. The queue that the packet would join is
the schedule's; it can be above LE_TQ only when that many flits are on their way. Operand i: the packet's place; j: the
crossing; v: its die. -/
def execEvPacketTrim (s : State) : Out :=
  s.withEv fun e =>
    let i := e.i.toNat
    match s.packets[i]? with
    | none => .next s
    | some x =>
      let h := x.pkt.hdr
      if !x.crossing || h.trim || h.len.toNat ≤ 32 || !([0, 1, 3].contains h.kind.toNat) || s.crossingFlits i ≤ s.dev.tq ||
          decide (16 ≤ e.j.toNat ∨ 10 ≤ e.v.toNat) then .next s
      else
        let key := (e.v.toNat, e.j.toNat)
        let site := pack [(14, 0), (4, e.j.toNat), (4, e.v.toNat), (2, 1)]
        let y := { x with pkt := { hdr := { h with trim := true, tc := 3, tsite := BitVec.ofNat 24 site }, data := [] } }
        .next { s with packets := dropNth s.packets i ++ [y],
                       dev := { s.dev with xtrim := s.dev.xtrim.set key (satAdd 64 (s.dev.xtrim.get 0 key) 1) } }

/-- A packet that has come in by a port goes to its link node (R416); one of a reserved kind is dropped and counted (R411). -/
def State.enterPacket (s : State) (p : Nat) (bs : List Byte) : State :=
  let ws := (List.range 4).map fun i => BitVec.ofNat 64 (ofBytes ((bs.drop (8 * i)).take 8))
  match decodePkt ws with
  | .ok { instr := _, arg := .pkt h } =>
    let home := s.packetHome h
    { s with packets := s.packets ++ [{ port := home, crossing := home != p,
                                        pkt := { hdr := h, data := (bs.drop 32).take (payloadLen h) } }] }
  | _ => if 11 ≤ (ws.getD 0 0).toNat / 2 ^ 60 then s.modLink p fun l => { l with badPkt := satAdd 16 l.badPkt 1 } else s

/-- Flits of the packet whose first flit is at hand. -/
def flitsDue (bs : List Byte) : Nat :=
  let w0 := ofBytes (bs.take 8)
  let len := bits (ofBytes ((bs.drop 24).take 8)) 27 13
  let k := bits w0 60 4
  ceilDiv (32 + (if bit w0 59 || k == 2 || (decide (6 ≤ k) && decide (k ≤ 10)) then 0 else len)) 64

/-- A flit is taken in: with the others of its packet it makes the packet (R412). Its buffer is free again. -/
def State.takeFlit (s : State) (p cls : Nat) (flit : List Byte) : State :=
  let bs := (s.link p).rxPart.get [] cls ++ flit
  let s := s.modLink p fun l => { l with owedCred := setNth l.owedCred cls (l.owedCred.getD cls 0 + 1) }
  if 64 * flitsDue bs ≤ bs.length then
    (s.modLink p fun l => { l with rxPart := l.rxPart.erase cls }).enterPacket p bs
  else s.modLink p fun l => { l with rxPart := l.rxPart.set cls bs }

/-- FLIT_RECEIVE (R409): a flit that fails its CRC, and every later one until its number comes again, is discarded.
Link-control flits are the link layer's own: a flit of all ones stands where a header would, and not inside a packet of its class (R411,
log 80). Operand i: the port; data: the 72 bytes. -/
def execEvFlitReceive (s : State) : Out :=
  s.withEv fun e =>
    let p := e.i.toNat
    let l := s.link p
    if !l.up || e.data.length != 72 || decide (36 ≤ p) then .next s
    else
      let flit := e.data.take 64
      let hi := ofBytes (e.data.drop 68)
      let ok := crc32 (flit ++ (e.data.drop 68)) == ofBytes ((e.data.drop 64).take 4)
      let credit (s : State) : State := s.modLink p fun l =>
        { l with credits := setNth l.credits (bits hi 8 2) (l.credits.getD (bits hi 8 2) 0 + bits hi 10 8) }
      if !ok then .next (s.modLink p fun l => { l with awaiting := true })
      else if flit.take 8 = List.replicate 8 255 ∧ l.rxPart.get [] (bits hi 18 2) = [] then
        let c := ofBytes ((flit.drop 8).take 2)
        let s := credit s
        if bit c 15 then
          let again := l.kept.dropWhile fun k => k.1 != c % 4096
          .next (({ s with sentFlits := s.sentFlits ++ again.map fun k => (p, k.2) } : State).modLink p fun l =>
            { l with replays := satAdd 32 l.replays 1 })
        else .next (s.drivePort p)
      else if bits hi 20 12 = l.rxSeq then
        let s := credit s
        let s := s.modLink p fun l => { l with rxSeq := (l.rxSeq + 1) % 4096, awaiting := false }
        .next ((s.takeFlit p (bits hi 18 2) flit).drivePort p)
      else .next (s.modLink p fun l => { l with awaiting := true })

/-- LINK_REPLAY_REQUEST (R409): a port sends a link-control flit: a replay from the flit that it awaits, or the credits that
it owes. Its own flit number is free (log 1). Operand i: the port. -/
def execEvLinkReplayRequest (s : State) : Out :=
  s.withEv fun e =>
    let p := e.i.toNat
    let l := s.link p
    let (n, c) := l.credit
    if !l.up || (!l.awaiting && n == 0) then .next s
    else
      let w := wireFlit (s.free 4097 % 4096) 3 n c (controlFlit (if l.awaiting then some l.rxSeq else none))
      .next (({ s with sentFlits := s.sentFlits ++ [(p, w)] } : State).modLink p fun l => l.returned n c)

/-- PORT_UP_CHANGE (R440). Operand i: the port; j: 1 when it is trained. -/
def execEvPortUpChange (s : State) : Out :=
  s.withEv fun e =>
    if 36 ≤ e.i.toNat then .next s
    else .next ((s.modLink e.i.toNat fun l => { l with up := e.j == 1 }).drivePort e.i.toNat)

end Sys2Proof.Machine
end

