-- ==== Sys2Proof/Machine/MatrixOps.lean ====
section
/-! DEFINITION. What the Matrix Node's instructions and events share: configurations (R78, R79), tiles and pairs (R310,
R311, R314), accumulation (R316 to R318), row-slot order (R313, R322), holds (R308, R309), rows sent (R328 to R331) and
BITMAP answers (R334, R335). -/

namespace Sys2Proof.Machine

/-! ## Configurations (R79) -/

/-- The output types that a pair of element types accepts (R79); empty for a pair outside the table. -/
def otysOf (a b : Nat) : List Nat :=
  if 12 ≤ a ∧ a ≤ 14 ∧ 12 ≤ b ∧ b ≤ 14 then [8, 9, 10]
  else if a = 15 ∧ b = 15 then [8, 9, 10]
  else if a = 9 ∧ b = 9 then [9, 10]
  else if a = 0 ∧ b = 0 then [2] else []

/-- The word of a configuration that fails R79: 1 for word 0, 2 for word 1. -/
def mnCfgBad (aor : Nat) (w0 w1 : Word) : Option Nat :=
  let a := w0.toNat
  let b := w1.toNat
  let otys := otysOf (bits a 60 4) (bits a 56 4)
  if otys.isEmpty ∨ bits a 53 3 ≠ aor ∨ (¬ bit a 51 ∧ bits a 32 16 ≠ 0) ∨ 127 < bits a 25 7 + bits a 18 7 then some 1
  else if ¬ otys.contains (bits b 60 4) ∨ 5 < bits b 57 3 ∨ 3 < bits b 52 3 ∨ (1 ≤ bits b 49 3 ∧ bits b 49 3 ≤ 3) then some 2
  else none

/-- AOR of the code object (R91). -/
def Region.aor (r : Region) : Nat := bits (r.hw 0) 21 3

/-- Row slot `i` of a configuration's ring (R312, R327). -/
def MnCfg.row (c : MnCfg) (i : Nat) : Nat := c.row0 + i % c.nr

/-- The greatest iteration that `n` rows reach, plus 1 (R331). -/
def MnCfg.reach (c : MnCfg) (n : Nat) : Nat :=
  128 * (n - 1) + 32 * (c.toks - 1) + min 32 (c.nc - 32 * (c.toks - 1))

/-! ## Tiles and pairs (R310, R311, R314) -/

/-- A tile with ZF = 1. -/
def zfTile : List Word := [0, 0, 0, BitVec.ofNat 64 (2 ^ 63), 0, 0, 0, 0, 0, 0, 0, 0, 0, 0, 0, 0]

/-- A tile's bitmap, empty for a ZF tile. -/
def tileMap (t : List Word) : Nat := if tileZf t then 0 else tileBm t

/-- A column as runs read it. -/
def MnBuf.col (b : MnBuf) (c : Nat) : List Word := if b.zfCols.contains c then zfTile else b.cols.get zfTile c

/-- Pairs of a column. -/
def pairsOf (a b : List Word) : Nat := popcount (tileMap a &&& tileMap b) 128

/-- Units that a pair takes (R314). -/
def unitsOf (ty : Ty) : Nat := if ty = .bf16 then 4 else if ty = .e2m1 then 1 else 2

/-! ## Accumulation-order revision 1 (R316 to R318) -/

/-- What one block of a row firing gives a column: none when it makes the sum NaN; and its flags. -/
structure BlockSum where
  v : Option FVal
  nan : Bool
  fl : Nat
deriving DecidableEq, Repr

/-- S of a block, scaled (R316). -/
def blockSum (tya tyb : Ty) (a b : List Word) (sa sb q : Nat) : BlockSum :=
  let both := tileMap a &&& tileMap b
  let js := ((List.range 32).map (32 * q + ·)).filter (bit both)
  let ps := (js.map fun j => (fval tya (tileElem tya a j), fval tyb (tileElem tyb b j))).filter fun p => !p.1.isZero && !p.2.isZero
  let bad (v : FVal) : Bool := v.isNan || v == .reserved
  let fl := flagIf (ps.any fun p => p.1.isNan || p.2.isNan) Flag.nanIn |||
    flagIf (ps.any fun p => p.1 == .reserved || p.2 == .reserved) Flag.invalid
  let nan := ps.any fun p => bad p.1 || bad p.2
  let prods := (ps.filter fun p => !bad p.1 && !bad p.2).filterMap fun p => p.1.mul p.2
  match sumVals false prods with
  | none => { v := none, nan := nan, fl := fl }
  | some v =>
    if v.isZero then { v := some (.fin false 0 0), nan := nan, fl := fl }
    else if sa = 0xff ∨ sb = 0xff then { v := some (.fin false 0 0), nan := true, fl := fl ||| Flag.invalid }
    else
      let w := match v with
        | .fin neg m e => .fin neg m (e + ((sa + sb : Nat) : Int) - 254)
        | v => v
      { v := some w, nan := nan, fl := fl }

/-- rnd to F32 by RNE, an exact zero giving +0. -/
def rndPlus (v : FVal) : Nat × Nat :=
  if v.isZero then (0, 0) else rndVal .f32 .rne false false 0 v

/-- The new accumulator element of a float row firing (R316). -/
def accFloat (bs : List BlockSum) (old : Nat) : Nat × Nat :=
  let fl := bs.foldl (fun f b => f ||| b.fl) 0
  let p := if bs.any (·.v.isNone) then none else sumVals false (bs.filterMap (·.v))
  let fl := fl ||| flagIf p.isNone Flag.invalid
  let (c, fl) := if bs.any (·.nan) then (Ty.f32.fmt.canonNan, fl)
    else match p with
      | none => (Ty.f32.fmt.canonNan, fl)
      | some v => let r := rndPlus v; (r.1, fl ||| r.2)
  match sumVals false [fval .f32 old, fval .f32 c] with
  | none => (Ty.f32.fmt.canonNan, fl ||| Flag.invalid)
  | some v => let r := rndPlus v; (r.1, fl ||| r.2)

/-- The new accumulator element of an I8 row firing (R317). -/
def accInt (a b : List Word) (old : Nat) : Nat × Nat :=
  let js := maskLanes (tileMap a &&& tileMap b) 64
  let sum := js.foldl (fun (t : Int) j => t + sx (tileElem .i8 a j) 8 * sx (tileElem .i8 b j) 8) 0
  ires .i32 true (sx old 32 + sum)

/-- The new accumulator element of a column (R316, R317): `as` and `bs` are its scales by block (R307). -/
def accColumn (tya tyb : Ty) (a b : List Word) (as bs : Nat → Nat) (old : Nat) : Nat × Nat :=
  if tya = .i8 then accInt a b old
  else accFloat ((List.range (tileBlocks tya)).map fun q => blockSum tya tyb a b (as q) (bs q) q) old

/-! ## The node's state -/

/-- Change a Matrix Node. -/
def State.modMatrix (s : State) (c : Coord) (f : Matrix → Matrix) : State :=
  { s with matrices := s.matrices.set c (f (s.matrix c)) }
/-- Change an instruction under way. -/
def State.modMn (s : State) (c : Coord) (id : Nat) (f : MnOp → MnOp) : State :=
  s.modMatrix c fun m => { m with ops := m.ops.map fun o => if o.id == id then f o else o }
/-- A B buffer. -/
def Matrix.buf (m : Matrix) (b : Nat) : MnBuf := m.bufs.getD b {}
/-- Change a B buffer. -/
def State.modBuf (s : State) (c : Coord) (b : Nat) (f : MnBuf → MnBuf) : State :=
  s.modMatrix c fun m => { m with bufs := setNth m.bufs b (f (m.buf b)) }
/-- An accumulator row. -/
def Matrix.accRow (m : Matrix) (r : Nat) : List Half := m.acc.get (List.replicate 128 0) r
/-- Write an accumulator row; a row of zeros is not listed. -/
def Matrix.setRow (m : Matrix) (r : Nat) (l : List Half) : Matrix :=
  { m with acc := if l.all (· == 0) then Table.erase m.acc r else m.acc.set r l }
/-- Set or clear a row slot's poison flag. -/
def Matrix.setPsn (m : Matrix) (r : Nat) (p : Bool) : Matrix := { m with apsn := setBits m.apsn r 1 (b2n p) }
/-- A row slot is zeroed and its flag cleared. -/
def Matrix.zeroRow (m : Matrix) (r : Nat) : Matrix := (m.setRow r []).setPsn r false

/-- The run's window rows. -/
def Matrix.inWindow (m : Matrix) (id : Nat) : Bool := m.window.any fun w => w.op == id

/-! ## Row-slot order (R313, R322) -/

/-- The rows that an instruction has yet to act on, each with its slot; with `firing`, a run's row firings that are admitted count as
done. -/
def MnOp.rowsLeft (o : MnOp) (firing : Bool) : List (Nat × Nat) :=
  let from' (k n : Nat) : List Nat := (List.range (n - k)).map (k + ·)
  let clear (n m : Nat) : List Nat := (List.range n).filter fun j => !bit m j
  match o.work with
  | .run _ _ _ i0 n admitted prog => (from' (if firing then admitted else prog) n).map fun j => (j, o.cfg.row (i0 + j))
  | .zero a b d | .scale a b d _ => (clear b d).map fun j => (j, o.cfg.row (a + j))
  | .out _ a b d => (from' d b).map fun j => (j, o.cfg.row (a + j))
  | .save b c d _ _ | .rest b c d _ _ => (clear c d).map fun j => (j, b + j)
  | .dropping _ | .hold _ _ => []

/-- Row firings that a run has retired. -/
def MnOp.doneRows (o : MnOp) : Nat := match o.work with | .run _ _ _ _ _ _ prog => prog | _ => 0

/-- An earlier instruction still has to act on a row slot: for a row firing, an earlier run that has admitted its row firing
no longer stands before it. -/
def Matrix.blocked (m : Matrix) (id r : Nat) (firing : Bool) : Bool :=
  m.ops.any fun o => decide (o.id < id) && (o.rowsLeft firing).any fun x => x.2 == r

/-! ## Receipts -/

/-- An instruction is complete: its receipt, if it names one, and the end of what it owes (R321). -/
def State.mnDone (s : State) (pos : Coord) (o : MnOp) (scope : Nat) : State :=
  let s := s.modMatrix pos fun m => { m with ops := m.ops.filter fun x => x.id != o.id }
  (s.sendReceipt pos o.ctx o.rrw o.frame o.iter o.flags scope 0 o.poisoned).repay pos o.ctx o.frame 1

/-- The record of an instruction under way (R334). -/
def State.mnInfo (s : State) (pos : Coord) (o : MnOp) (cause detail : Nat) : FaultInfo :=
  { cause := cause, detail := detail, pos := pos, nk := 3, ctx := o.ctx, frame := o.frame, iter := o.iter, len := o.len,
    opc := o.opc, seqix := o.seqix, pmask := o.pmask, lmask := o.lmask, flags := (s.ctx pos o.ctx).sf }

/-! ## Rows sent (R328, R329, R331) -/

/-- Column values of an output row, and their flags (R328). -/
def State.mnColumn (s : State) (pos : Coord) (o : MnOp) (j col v : Nat) : Nat × Nat :=
  let c := o.cfg
  if c.oty = .f16 ∨ c.oty = .bf16 then
    let a := (maskLanes o.lmask o.len).headD 0
    let draw := prDraw (s.ctx pos o.ctx).srk (2 ^ 61 + ((o.iter + a) * 16 + o.seqix) * 2 ^ 32 + 128 * j + col)
    rndVal c.oty ((Rnd.ofCode c.orm).getD .rne) false false draw (fval .f32 v)
  else (v, 0)

/-- Send row slot `r` as row `j` of an instruction's range; with `clr` the slot is zeroed. Answers the flags. -/
def State.mnSend (s : State) (pos : Coord) (o : MnOp) (j r : Nat) (clr : Bool) : State × Nat :=
  let c := o.cfg
  let m := s.matrix pos
  let row := m.accRow r
  let out := (List.range c.nc).map fun i => s.mnColumn pos o j i (row.getD i 0).toNat
  let psn := bit m.apsn r
  let s := (List.range c.toks).foldl (fun s t =>
    let k := min 32 (c.nc - 32 * t)
    let vs := ((out.drop (32 * t)).take k).map fun x => BitVec.ofNat 64 x.1
    let tok : Token := { kind := .value, dst := mkCoord 0 0 0, ctx := 0, port := 0, frame := o.frame, iter := 128 * j + 32 * t,
                         len := k, aux := 0, mask := 2 ^ k - 1, poison := if psn then 2 ^ k - 1 else 0, wide := false, lanes := vs }
    s.enqueue pos o.ctx c.orw false false tok) s
  (if clr then s.modMatrix pos fun m => m.zeroRow r else s, out.foldl (fun f x => f ||| x.2) 0)

/-! ## Row-slot instructions, one row at a time -/

/-- MNSCL of an accumulator element (R327). -/
def scaleElem (int : Bool) (e : Int) (v : Nat) : Nat × Nat :=
  if int then
    let x := sx v 32
    let (q, inexact) := rndInt .rne 0 { neg := decide (x < 0), m := x.natAbs, e := max (-64) (min 64 e) }
    let r := ires .i32 true q
    (r.1, r.2 ||| flagIf inexact Flag.inexact)
  else match fval .f32 v with
    | .fin neg m x => if m = 0 then (v, 0) else rnd .f32 .rne false false 0 { neg := neg, m := m, e := x + max (-1000) (min 1000 e) }
    | _ => (v, 0)

/-- The bytes of a row's image (R332). -/
def rowBytes (l : List Half) : List Byte := (List.range 128).flatMap fun c => toBytes 4 (l.getD c 0).toNat

/-- A row from its image. -/
def rowOf (bs : List Byte) : List Half := (List.range 128).map fun c => BitVec.ofNat 32 (ofBytes ((bs.drop (4 * c)).take 4))

/-- The work of an instruction with row `j` done. -/
def MnWork.did (j : Nat) : MnWork → MnWork
  | .zero a b d => .zero a b (setBits d j 1 1)
  | .scale a b d e => .scale a b (setBits d j 1 1) e
  | .out c a b d => .out c a b (d + 1)
  | .save b c d l sc => .save b c (setBits d j 1 1) l sc
  | .rest b c d l sc => .rest b c (setBits d j 1 1) l sc
  | w => w

/-- The partition of a region, to meter (R497). -/
def State.mnPart (s : State) (o : MnOp) : Nat := match s.region o.region with | some r => r.part | none => 0

/-- A suppressed slot image is a sink (R332, R456); none while the device's record queue is full. -/
def State.mnSinkRow (s : State) (pos : Coord) (o : MnOp) (addr : Nat) : Option State :=
  let s' := s.modMatrix pos fun m => { m with psup := satAdd 64 m.psup 1 }
  match s.region o.region with
  | none => some s'
  | some r =>
    if (r.frame o.frame).reported then some s'
    else if !s.canPost r.part then none
    else some ((s'.modFrame r.id o.frame fun x => { x with reported := true }).postFor r .nothing
      { s.mnInfo pos o Cause.poisonSink ((maskLanes o.lmask o.len).headD 0) with akind := 1, addr := addr, auxv := 1, parked := false })

/-- The first of a row image's lines that an error poisoned (R502). -/
def State.rowHurt (s : State) (ps : List (Nat × Bool)) : Option Nat :=
  ps.findIdx? fun p => s.badLines.contains (lineOf p.1)

/-- Row `d` of an instruction has a record to post, and the device's queue is full (R495): a suppressed image's (R332, R456), or one of
uncorrectable data (R502). -/
def State.rowFull (s : State) (pos : Coord) (o : MnOp) (d : Nat) : Bool :=
  match s.region o.region with
  | none => false
  | some r => !s.canPost r.part && match o.work with
    | .save b _ _ _ _ => bit (s.matrix pos).apsn (b + d) && !(r.frame o.frame).reported
    | .rest _ _ _ spas _ => (s.rowHurt (spas.getD d [])).isSome
    | _ => false

/-- The effect of row `d` of an instruction on the accumulators, its flags and whether it poisons the receipt; none when it has to
wait: for room, for the record queue, or, before a new memory request, for its partition's budget (R49). -/
def State.rowEffect (s : State) (pos : Coord) (o : MnOp) (d : Nat) : Option (State × Nat × Bool) :=
  let c := o.cfg
  match o.work with
  | .zero a _ _ => some (s.modMatrix pos fun m => m.zeroRow (c.row (a + d)), 0, false)
  | .scale a _ _ e =>
    let r := c.row (a + d)
    let row := (s.matrix pos).accRow r
    let out := row.zipIdx.map fun x => if x.2 < c.nc then scaleElem (c.tya == .i8) e x.1.toNat else (x.1.toNat, 0)
    some (s.modMatrix pos fun m => m.setRow r (out.map fun x => BitVec.ofNat 32 x.1), out.foldl (fun f x => f ||| x.2) 0, false)
  | .out clr a _ _ =>
    if s.room pos o.ctx c.orw c.toks then
      let x := s.mnSend pos o d (c.row (a + d)) clr
      some (x.1, x.2, false)
    else none
  | .save b _ _ spas scope =>
    let r := b + d
    let m := s.matrix pos
    let ps := spas.getD d []
    if bit m.apsn r then (s.mnSinkRow pos o (bits (o.cfg0.toNat + 512 * d) 0 48)).map fun s => (s, 0, true)
    else if s.stalled (s.mnPart o) then none
    else
      let bs := rowBytes (m.accRow r)
      let s := ps.zipIdx.foldl (fun s p =>
        (s.unitWrite (s.partFor o.region) (lineOf p.1.1) p.1.2 (scope == 3 && s.dev.inTier p.1.1)
          (cellsAt p.1.1 ((bs.drop (128 * p.2)).take 128))).1.oweTier (lineOf p.1.1) [(pos, o.ctx, o.frame, 5)] false false) s
      some (s, 0, false)
  | .rest b _ _ spas _ => if s.stalled (s.mnPart o) then none else
    let r := b + d
    let ps := spas.getD d []
    let hurt := s.rowHurt ps
    if s.rowFull pos o d then none
    else
      let s := ps.foldl (fun s p => s.unitRead (s.partFor o.region) (lineOf p.1) p.2) s
      let bs := ps.flatMap fun p => Memory.reads s.mem p.1 128
      let s := match hurt, s.region o.region with
        | some i, some x => s.postFor x .nothing { s.mnInfo pos o Cause.eccUncorr 1 with
            akind := 1, addr := (o.cfg0.toNat + 512 * d + 128 * i) % 2 ^ 48, parked := false }
        | _, _ => s
      some (s.modMatrix pos fun m => (m.setRow r (rowOf bs)).setPsn r hurt.isSome, 0, hurt.isSome)
  | _ => none

/-- The rows of an instruction while their slots are free (R313, R322): MNOUT's strictly in order, any other's as their slots become
free. The instruction ends after the last. -/
def State.rowSteps (s : State) (pos : Coord) (id : Nat) : Nat → State
  | 0 => s
  | fuel + 1 =>
    match (s.matrix pos).op id with
    | none => s
    | some o =>
      let scope := match o.work with | .save _ _ _ _ sc | .rest _ _ _ _ sc => sc | _ => 0
      match o.work with
      | .run .. | .dropping _ | .hold _ _ => s
      | _ =>
        let rows := o.rowsLeft false
        if rows.isEmpty then s.mnDone pos o scope
        else
          let next := match o.work with | .out .. => rows.take 1 | _ => rows
          match next.findSome? fun x =>
              if (s.matrix pos).blocked id x.2 false then none else (s.rowEffect pos o x.1).map fun e => (x.1, e) with
            | none =>
              if next.any fun x => !(s.matrix pos).blocked id x.2 false && s.rowFull pos o x.1 then s.waitToPost (s.mnPart o) else s
            | some (j, s, fl, bad) =>
              let s := (s.raise pos o.ctx fl).modMn pos id fun o =>
                { o with work := o.work.did j, flags := o.flags ||| fl, poisoned := o.poisoned || bad }
              State.rowSteps s pos id fuel

/-! ## The A FIFO (R305) -/

/-- Entries of its frame that stand before those of an instruction: what earlier-issued ones have claimed. -/
def Matrix.ahead (m : Matrix) (o : MnOp) : Nat :=
  m.ops.foldl (fun k x =>
    if x.id < o.id ∧ x.region = o.region ∧ x.frame = o.frame then
      match x.work with
      | .run none _ _ _ n admitted _ => k + (n - admitted)
      | .dropping n => k + n
      | _ => k
    else k) 0

/-- The place in the FIFO of the entry that an instruction takes next. -/
def State.fifoPlace (s : State) (pos : Coord) (o : MnOp) : Option Nat :=
  let fifo := (s.copy (clusterNode (clusterOf pos) 4)).fifo
  let mine := (fifo.zipIdx.filter fun e => decide (e.1.region = o.region ∧ e.1.frame = o.frame)).map (·.2)
  mine[(s.matrix pos).ahead o]?

/-- An entry leaves the FIFO (R296, R305). -/
def State.fifoTake (s : State) (pos : Coord) (o : MnOp) (i : Nat) : State :=
  (s.modCopy (clusterNode (clusterOf pos) 4) fun x => { x with fifo := dropNth x.fifo i }).tcntSub o.region o.frame 1

/-- The entries that a DISCARD removes go as they become their frame's first (R335). -/
def State.dropEntries (s : State) (pos : Coord) (id : Nat) : Nat → State
  | 0 => s
  | fuel + 1 =>
    match (s.matrix pos).op id with
    | some o =>
      match o.work with
      | .dropping 0 => s.modMatrix pos fun m => { m with ops := m.ops.filter fun x => x.id != id }
      | .dropping (n + 1) =>
        if (s.matrix pos).ahead o ≠ 0 then s
        else match s.fifoPlace pos o with
          | some i => State.dropEntries ((s.fifoTake pos o i).modMn pos id fun o => { o with work := .dropping n }) pos id fuel
          | none => s
      | _ => s
    | none => s

/-! ## Holds (R308, R309) -/

/-- A buffer covers a configuration's columns under its TYB. -/
def MnBuf.covers (b : MnBuf) (c : MnCfg) : Bool := decide (b.tyb = Ty.code c.tyb ∧ c.nc ≤ b.chk)

/-- A run may read its buffer (R308, R313). -/
def Matrix.readable (m : Matrix) (o : MnOp) : Bool :=
  let b := m.buf o.cfg.bsel
  (b.st == 2 && b.covers o.cfg) || (b.st == 3 && decide (o.id < b.rel))

/-- An instruction waits for a hold of a buffer: a hold, or a run that cannot read it. -/
def Matrix.wantsHold (m : Matrix) (buf : Nat) (o : MnOp) : Bool :=
  !o.parked && match o.work with
    | .hold b _ => b == buf
    | .run _ _ _ _ n admitted _ => o.cfg.bsel == buf && decide (admitted < n) && o.bad.isNone && !m.readable o
    | _ => false

/-- The instruction whose hold of a buffer comes first. -/
def Matrix.holder (m : Matrix) (buf : Nat) : Option MnOp := m.ops.find? (m.wantsHold buf)

/-- A hold that finds its buffer FREE begins (R308). -/
def State.beginHold (s : State) (pos : Coord) (buf : Nat) : State :=
  let m := s.matrix pos
  match m.holder buf with
  | some o =>
    if (m.buf buf).st = 0 then
      let s := s.modBuf pos buf fun b => { b with st := 1 }
      s.modMn pos o.id fun o => match o.work with
        | .hold b _ => { o with work := .hold b true }
        | _ => o
    else s
  | none => s

/-- A releasing buffer is FREE once every row firing issued before the release has retired (R308). -/
def State.freeBuf (s : State) (pos : Coord) (buf : Nat) : State :=
  let m := s.matrix pos
  let reads (o : MnOp) : Bool := match o.work with
    | .run .. => o.cfg.bsel == buf && decide (o.id < (m.buf buf).rel)
    | _ => false
  if (m.buf buf).st = 3 ∧ ¬ m.ops.any reads then s.modBuf pos buf fun b => { b with st := 0, zfCols := [] } else s

/-! ## Faults and answers (R334, R335) -/

/-- The record of a failed A tile, once the run's admitted row firings have retired. -/
def State.postTile (s : State) (pos : Coord) (id : Nat) : State :=
  match (s.matrix pos).op id with
  | none => s
  | some o =>
    match o.bad, s.region o.region with
    | some (reason, w3), some r =>
      if o.parked || (s.matrix pos).inWindow id then s
      else if !s.canPost r.part then s.waitParked r o.frame
      else
        let s := s.postFor r (.matrix pos id) { s.mnInfo pos o Cause.bitmap (256 * reason) with auxv := w3.toNat, mnprog := o.doneRows }
        (s.modMn pos id fun o => { o with parked := true }).parkFrame r o.frame
    | _, _ => s

/-- Everything at the node that can go on does, in issue order: row-slot instructions, dropped entries, records, holds. -/
def State.mnPump (s : State) (pos : Coord) : State :=
  let ids := (s.matrix pos).ops.map (·.id)
  let s := ids.foldl (fun s id => ((s.rowSteps pos id 129).dropEntries pos id 4097).postTile pos id) s
  (s.beginHold pos 0).beginHold pos 1

/-- A run ends (R325, R335): its slot empties and its receipt is sent. -/
def State.mnEndRun (s : State) (pos : Coord) (o : MnOp) : State :=
  (s.modMatrix pos fun m => { m with progs := setNth m.progs o.runSlot 0 }).mnDone pos o 0

/-- RESUME of a BITMAP record (R335): the check is repeated, or, with `zero`, goes on with tiles of zeros. -/
def State.mnResume (s : State) (pos : Coord) (id : Nat) (zero : Bool) : State :=
  match (s.matrix pos).op id with
  | none => s
  | some o =>
    match o.bad with
    | some _ => (s.modMn pos id fun o => { o with parked := false, bad := none, asZero := zero, poisoned := o.poisoned || zero }).mnPump pos
    | none =>
      let c := o.cfg
      let buf := match o.work with | .hold b _ => b | _ => c.bsel
      let b := (s.matrix pos).buf buf
      let fails := (List.range c.nc).filter fun i => (tileFault c.tyb (b.col i)).isSome
      let s := if zero then s.modBuf pos buf fun b => { b with zfCols := b.zfCols ++ fails } else s
      (s.modMn pos id fun o => { o with parked := false, poisoned := o.poisoned || zero }).mnPump pos

/-- DISCARD of a BITMAP record (R335): the run ends, its entries are dropped and its remaining slots poisoned; or the
instruction ends. -/
def State.mnDiscard (s : State) (pos : Coord) (id : Nat) : State :=
  match (s.matrix pos).op id with
  | none => s
  | some o =>
    let o := { o with poisoned := true, parked := false }
    match o.work with
    | .run port _ _ _ n admitted prog =>
      let s := if o.bad.isNone then s
        else s.modMatrix pos fun m => (o.rowsLeft true).foldl (fun m x => m.setPsn x.2 true) m
      let s := s.mnEndRun pos o
      let s := s.repay pos o.ctx o.frame (n - prog)
      let s := if o.bad.isNone || port.isSome then s
        else s.modMatrix pos fun m =>
          { m with ops := sortBy (fun a b => decide (a.id ≤ b.id)) (m.ops ++ [{ o with work := .dropping (n - admitted) }]) }
      s.mnPump pos
    | _ => (s.mnDone pos o 0).mnPump pos

end Sys2Proof.Machine
end

