-- ==== Sys2Proof/Machine/Matrix.lean ====
section
/-! DEFINITION. The Matrix Node: its instructions (R320 to R333) and its events (R308, R313, R314). -/

namespace Sys2Proof.Machine

/-! ## What the instructions share (R304, R321) -/

/-- The words of the slot that an instruction names. -/
def State.mnWords (s : State) (n : Niw) (f : Firing) : List Word := (s.ctx s.cur.pos f.ctx).slots.getD (n.imm.toNat % 8) []

/-- The lane in which operands are read (R321). -/
def Firing.laneA (f : Firing) : Nat := (f.active .token).headD 0

/-- An instruction of a Matrix Node refuses with ILLEGAL_CFG. -/
def State.mnCfgFault (s : State) (f : Firing) (detail auxv : Nat) : Out :=
  s.takeFrameFault s.cur.pos s.cur.slot .firing { s.infoOf s.cur.pos f Cause.illegalCfg detail with auxv := auxv }

/-- A receipt at once. -/
def State.mnReceipt (s : State) (f : Firing) (rw scope : Nat) (poisoned : Bool) : State :=
  s.sendReceipt s.cur.pos f.ctx rw f.frame f.iter 0 scope 0 poisoned

/-- A suppressed instruction (R321). -/
def State.mnSuppress (s : State) : State := s.modMatrix s.cur.pos fun m => { m with psup := satAdd 64 m.psup 1 }

/-- An instruction with operands (R321): suppressed under SKIP, a receipt alone under a zero mask, and a sink when an operand
is poisoned. `rw` is the receipt's routing word; `zero` says that a zero-mask firing performs it all the same; `vacant`
that an empty slot may be named. -/
def State.mnInsn (s : State) (ops : List (Ty × Sel)) (n : Niw) (rw scope : Nat) (zero : Bool) (empty : Option Nat)
    (k : Firing → Region → List Nat → Out) : Out :=
  s.withFiring fun f => s.withRegion f fun r =>
    if f.skipped then .next ((s.mnSuppress.mnReceipt f rw scope true).goOn)
    else if !zero && f.tmask % 2 ^ f.len == 0 then .next ((s.mnReceipt f rw scope false).goOn)
    else match empty with
      | some slot => s.mnCfgFault f 3 slot
      | none =>
        let a := if zero then 0 else f.laneA
        let vs := ops.zipIdx.map fun q => s.readSel s.cur.pos f n q.1.1 q.2 q.1.2 a
        if vs.any (·.2) then
          if s.sinkMustWait f then .next (s.waitToPost r.part)
          else .next (((s.mnSuppress.reportSink s.cur.pos f 3 (s.sinkEdge s.cur.pos f.ctx rw) a 1).mnReceipt f rw scope true).goOn)
        else k f r (vs.map (·.1))

/-- An instruction that names a configuration slot: its configuration, and operands. -/
def State.mnSlot (s : State) (ops : List (Ty × Sel)) (n : Niw) (zero : Bool)
    (k : Firing → Region → MnCfg → List Nat → Out) : Out :=
  s.withFiring fun f =>
    let ws := s.mnWords n f
    let c := mnCfgOf ws
    s.mnInsn ops n c.rrw 0 zero (if ws.isEmpty then some (n.imm.toNat % 8) else none) fun f r vs => k f r c vs

/-- An instruction that a firing issues, with its tag and its slot's words. -/
def mnOpOf (s : State) (n : Niw) (f : Firing) (work : MnWork) (rw : Nat) : MnOp :=
  let ws := s.mnWords n f
  { id := (s.matrix s.cur.pos).nextId, region := f.region, ctx := f.ctx, frame := f.frame, iter := f.iter, len := f.len,
    pmask := f.pmask, lmask := f.tmask, opc := (f.words.getD f.ix 0).toNat / 2 ^ 56, seqix := f.ix, slot := n.imm.toNat % 8,
    cfg0 := ws.getD 0 0, cfg1 := ws.getD 1 0, work := work, rrw := rw }

/-- The instruction is issued; it owes `1 + rows`, and the node goes on as far as it can. -/
def State.mnIssue (s : State) (f : Firing) (o : MnOp) (rows : Nat) : State :=
  let s := s.modMatrix s.cur.pos fun m => { m with ops := m.ops ++ [o], nextId := m.nextId + 1 }
  ((s.owe s.cur.pos f.ctx f.frame (1 + rows)).goOn).mnPump s.cur.pos

/-! ## MNCFG (R323) -/

/-- MNCFG with A and B (R323): the words are checked and written. -/
def execMncfg (n : Niw) (s : State) : Out :=
  s.withFiring fun f =>
    let rw := (mnCfgOf (s.mnWords n f)).rrw
    s.mnInsn [(.n64, n.a), (.n64, n.b)] n rw 0 false none fun f r vs =>
      let w0 : Word := BitVec.ofNat 64 (vs.getD 0 0)
      let w1 : Word := BitVec.ofNat 64 (vs.getD 1 0)
      match mnCfgBad r.aor w0 w1 with
      | some d => s.mnCfgFault f d (if d = 1 then w0.toNat else w1.toNat)
      | none =>
        let s := s.modCtx s.cur.pos f.ctx fun x => { x with slots := setNth x.slots (n.imm.toNat % 8) [w0, w1] }
        .next ((s.mnReceipt f (mnCfgOf [w0, w1]).rrw 0 false).goOn)

/-- MNCFG without operands (R323): the slot is checked as it stands. -/
def execMncfgCheck (n : Niw) (s : State) : Out :=
  s.mnSlot [] n false fun f r c _ =>
    let ws := s.mnWords n f
    match mnCfgBad r.aor (ws.getD 0 0) (ws.getD 1 0) with
    | some d => s.mnCfgFault f d (ws.getD (d - 1) 0).toNat
    | none => .next ((s.mnReceipt f c.rrw 0 false).goOn)

/-! ## Buffers (R324) -/

/-- MNLDB (R324): a hold of the slot's buffer. -/
def execMnldb (n : Niw) (s : State) : Out :=
  s.mnSlot [] n false fun f _ c _ => .next (s.mnIssue f (mnOpOf s n f (.hold c.bsel false) c.rrw) 0)

/-- MNSWAP (R308, R324): the buffer is released, behind the holds of it issued before, and the other one is held. -/
def execMnswap (n : Niw) (s : State) : Out :=
  s.mnSlot [] n false fun f _ c _ =>
    let pos := s.cur.pos
    let m := s.matrix pos
    if (m.holder c.bsel).isSome ∨ (m.buf c.bsel).st = 1 then .next s
    else
      let s := if (m.buf c.bsel).st = 2 then (s.modBuf pos c.bsel fun b => { b with st := 3, rel := m.nextId }) else s
      .next (s.mnIssue f (mnOpOf s n f (.hold (1 - c.bsel) false) c.rrw) 0)

/-! ## Runs (R325, R326) -/

/-- A run is issued into a free run slot, or waits for one (R325). -/
def State.mnStart (s : State) (n : Niw) (f : Firing) (c : MnCfg) (port : Option PortIn) (i0 rows : Nat) : Out :=
  let pos := s.cur.pos
  let out := bit n.opt.toNat 1
  let m := s.matrix pos
  let used := m.ops.filterMap fun o => match o.work with | .run .. => some o.runSlot | _ => none
  if rows = 0 then .next ((s.mnReceipt f c.rrw 0 false).goOn)
  else if c.nr ≤ i0 then s.mnCfgFault f 1 i0
  else if 4096 < rows then s.mnCfgFault f 2 rows
  else match s.region f.region with
    | none => .next s
    | some r =>
      if out && decide (r.space f.frame < c.reach rows) then
        s.takeFrameFault pos s.cur.slot .firing { s.infoOf pos f Cause.tagRange 4 with auxv := c.reach rows }
      else match [0, 1, 2, 3].find? fun k => !used.contains k with
        | none => .next s
        | some k =>
          let dit := c.dit || bit m.dit f.ctx
          let o := { mnOpOf s n f (.run port out dit i0 rows 0 0) c.rrw with runSlot := k }
          .next (s.mnIssue f o rows)

/-- MNRUN (R325): rows from the A FIFO. -/
def execMnrun (n : Niw) (s : State) : Out :=
  s.mnSlot [(.n32, n.a), (.n32, n.b)] n false fun f _ c vs => s.mnStart n f c none (vs.getD 0 0) (vs.getD 1 0)

/-- MNRUN.P (R325): one row, the token on the port that C names. -/
def execMnrunP (n : Niw) (s : State) : Out :=
  s.mnSlot [(.n32, n.a)] n true fun f _ c vs =>
    if f.len ≠ 16 then
      s.takeFrameFault s.cur.pos s.cur.slot .firing { s.infoOf s.cur.pos f Cause.illegalInsn 0x8000 with auxv := f.len }
    else match (match n.c with | .p p => f.portIn p | _ => none) with
      | some i => s.mnStart n f c (some i) (vs.getD 0 0) 1
      | none => .next s

/-! ## Row-slot instructions (R327 to R332) -/

/-- The limits of a range of rows (R327, R330), and a receipt alone for none. -/
def State.mnRows (s : State) (f : Firing) (c : MnCfg) (a b : Nat) (k : Out) : Out :=
  if c.nr ≤ a then s.mnCfgFault f 1 a
  else if c.nr < b then s.mnCfgFault f 2 b
  else if b = 0 then .next ((s.mnReceipt f c.rrw 0 false).goOn)
  else k

/-- MNZERO (R327). -/
def execMnzero (n : Niw) (s : State) : Out :=
  s.mnSlot [(.n32, n.a), (.n32, n.b)] n false fun f _ c vs =>
    let a := vs.getD 0 0
    let b := vs.getD 1 0
    s.mnRows f c a b (.next (s.mnIssue f (mnOpOf s n f (.zero a b 0) c.rrw) 0))

/-- MNSCL (R327). -/
def execMnscl (n : Niw) (s : State) : Out :=
  s.mnSlot [(.n32, n.a), (.n32, n.b), (.i32, n.c)] n false fun f _ c vs =>
    let a := vs.getD 0 0
    let b := vs.getD 1 0
    s.mnRows f c a b (.next (s.mnIssue f (mnOpOf s n f (.scale a b 0 (sx (vs.getD 2 0) 32)) c.rrw) 0))

/-- MNOUT (R328 to R331). -/
def execMnout (n : Niw) (s : State) : Out :=
  s.mnSlot [(.n32, n.a), (.n32, n.b)] n false fun f r c vs =>
    let a := vs.getD 0 0
    let b := vs.getD 1 0
    s.mnRows f c a b <|
      if r.space f.frame < c.reach b then
        s.takeFrameFault s.cur.pos s.cur.slot .firing { s.infoOf s.cur.pos f Cause.tagRange 4 with auxv := c.reach b }
      else .next (s.mnIssue f (mnOpOf s n f (.out (bit n.opt.toNat 0) a b 0) c.rrw) 0)

/-- The lines of `c` row images at a base, as physical addresses; or the cause, code, AUXV and address of the first that
fails (R224, R332). -/
def State.mnLines (s : State) (part base c : Nat) (write : Bool) : Sum (Nat × Nat × Nat × Nat) (List (Nat × Bool)) :=
  (List.range (4 * c)).foldl (fun (acc : Sum (Nat × Nat × Nat × Nat) (List (Nat × Bool))) i =>
    match acc with
    | .inl e => .inl e
    | .inr l =>
      match s.reach part (base + 128 * i) write with
      | .inl (cause, code, lvl) => .inl (cause, code, lvl, (base + 128 * i) % 2 ^ 48)
      | .inr p => .inr (l ++ [p])) (.inr [])

/-- MNSAVE and MNREST (R332): the checks, then the instruction issues. -/
def State.mnMove (s : State) (n : Niw) (write : Bool) (work : Nat → Nat → List (List (Nat × Bool)) → Nat → MnWork) : Out :=
  let rw := n.opt.toNat % 8
  let scope := n.opt.toNat / 32
  s.mnInsn [(.n32, n.b), (.n32, n.c)] n rw scope false none fun f r vs =>
    let b := vs.getD 0 0
    let c := vs.getD 1 0
    let pos := s.cur.pos
    let fault (cause detail akind addr auxv : Nat) : Out :=
      s.takeFrameFault pos s.cur.slot .firing { s.infoOf pos f cause detail with akind := akind, addr := addr, auxv := auxv }
    match f.addrConst n.a with
    | some (true, base) =>
      if 128 < b + c then fault Cause.illegalCfg (s.free 2048 % 2 ^ 16) 0 0 (s.free 2049 % 2 ^ 64)
      else if base % 128 ≠ 0 then fault Cause.align f.laneA 1 base 0
      else match s.mnLines r.part base c write with
        | .inl (cause, code, lvl, a) => fault cause (f.laneA + 256 * code) 1 a lvl
        | .inr ls =>
          let l := (List.range c).map fun j => (ls.drop (4 * j)).take 4
          if c = 0 then .next ((s.mnReceipt f rw scope false).goOn)
          else
            let o := { mnOpOf s n f (work b c l scope) rw with cfg0 := BitVec.ofNat 64 base, cfg1 := 0 }
            .next (s.mnIssue f o 0)
    | _ => s.badOperand f

/-- MNSAVE (R332). -/
def execMnsave (n : Niw) (s : State) : Out := s.mnMove n true fun b c l sc => .save b c 0 l sc
/-- MNREST (R332). -/
def execMnrest (n : Niw) (s : State) : Out := s.mnMove n false fun b c l sc => .rest b c 0 l sc

/-! ## Queries (R333) -/

/-- A query (R321, R333): the value in every active lane. -/
def State.mnQuery (s : State) (n : Niw) (g : Firing → Nat) : Out :=
  s.withFiring fun f =>
    match n.d with
    | .o o =>
      if !s.room s.cur.pos f.ctx o 1 then .next s
      else s.result n false 32 fun f => (f.active n.pred).map fun l => (l, { v := g f % 2 ^ 32, psn := false })
    | _ => .next s

/-- MNPROG (R333): the progress of the runs of the firing's context and frame. -/
def execMnprog (n : Niw) (s : State) : Out :=
  s.mnQuery n fun f => (s.matrix s.cur.pos).ops.foldl (fun v o =>
    match o.work with
    | .run .. => if o.ctx = f.ctx ∧ o.frame = f.frame then v + o.doneRows else v
    | _ => v) 0

/-- MNAOR (R333): the revisions supported, and the code object's. -/
def execMnaor (n : Niw) (s : State) : Out :=
  s.mnQuery n fun f => 2 + 256 * (match s.region f.region with | some r => r.aor | none => 0)

/-- MNCHK (R333): the failing columns of the slot's buffer. -/
def execMnchk (n : Niw) (s : State) : Out :=
  s.withFiring fun f =>
    let ws := s.mnWords n f
    if ws.isEmpty && !f.skipped && f.patch.isNone && f.tmask % 2 ^ f.len != 0 then s.mnCfgFault f 3 (n.imm.toNat % 8)
    else s.mnQuery n fun _ =>
      let c := mnCfgOf ws
      let b := (s.matrix s.cur.pos).buf c.bsel
      let bad := (List.range c.nc).filterMap fun i => (tileFault c.tyb (b.col i)).map fun r => (i, r)
      let first := bad.headD (0, 0)
      bad.length + 2 ^ 8 * first.1 + 2 ^ 16 * first.2 + 2 ^ 20 * b2n (b.st == 2)

/-- Runs in progress. -/
def Matrix.runs (m : Matrix) : List MnOp := m.ops.filter fun o => match o.work with | .run .. => true | _ => false

/-- MNSTAT (R333): buffers, the frame's A FIFO entries, rows retired, or sticky flags. -/
def execMnstat (n : Niw) (s : State) : Out :=
  let pos := s.cur.pos
  let m := s.matrix pos
  s.mnQuery n fun f =>
    match n.opt.toNat % 4 with
    | 0 => (m.buf 0).st + 4 * (m.buf 1).st + 16 * m.runs.length + 128 * m.window.length
    | 1 => ((s.copy (clusterNode (clusterOf pos) 4)).fifo.filter fun e => decide (e.region = f.region ∧ e.frame = f.frame)).length
    | 2 => m.rows
    | _ => (s.ctx pos f.ctx).sf

/-- MNDIT.ON and MNDIT.OFF (R333): once for a firing with an active lane. -/
def State.setDit (s : State) (on : Bool) : Out :=
  s.withFiring fun f =>
    if f.skipped then .next (s.mnSuppress.goOn)
    else if f.tmask % 2 ^ f.len = 0 then .next s.goOn
    else .next ((s.modMatrix s.cur.pos fun m => { m with dit := setBits m.dit f.ctx 1 (b2n on) }).goOn)

/-- MNDIT.ON (R333). -/
def execMnditOn (s : State) : Out := s.setDit true
/-- MNDIT.OFF (R333). -/
def execMnditOff (s : State) : Out := s.setDit false

/-! ## Events -/

/-- The region of an instruction under way lets its node work (R337). -/
def State.mnGoes (s : State) (pos : Coord) (o : MnOp) : Bool :=
  match s.region o.region with
  | some r => !(s.node pos).cut && !r.frozen
  | none => false

/-- The next A row of a run: its tile, its scales, and whether it poisons its slot (R305, R321); none when it is absent. -/
def State.aRow (s : State) (pos : Coord) (o : MnOp) (port : Option PortIn) : Option (List Word × List Nat × Bool) :=
  let c := o.cfg
  match port with
  | some i =>
    let bs := (List.range 16).flatMap fun l => toBytes 4 (if bit i.mask l then (i.lanes.getD l 0).toNat else 0)
    let sc := (List.range 4).map fun q => bits (i.scales.getD 0 0) (8 * q) 8
    some (buildTile c.tya bs sc, sc, (i.mask &&& i.poison) % 2 ^ 16 != 0)
  | none =>
    match s.fifoPlace pos o with
    | none => none
    | some p =>
      let t := ((s.copy (clusterNode (clusterOf pos) 4)).fifo.map (·.tile)).getD p zfTile
      if o.asZero then some (zfTile, [127, 127, 127, 127], true)
      else some (t, (List.range 4).map (tileScale t), false)

/-- A run's next row firing meets the conditions of R313 but the check of its tile. -/
def State.rowReady (s : State) (pos : Coord) (o : MnOp) : Bool :=
  let m := s.matrix pos
  match o.work with
  | .run port out _ i0 n admitted _ =>
    decide (admitted < n) && o.bad.isNone && !o.parked && s.mnGoes pos o && m.readable o && decide (m.window.length < 4) &&
      !m.blocked o.id (o.cfg.row (i0 + admitted)) true && (!out || s.room pos o.ctx o.cfg.orw o.cfg.toks) &&
      (s.aRow pos o port).isSome
  | _ => false

/-- ROW_FIRING_ADMIT (R313, R310, R334): the earliest-issued run whose next row firing qualifies admits it, or stops at a tile
whose header fails. The event's node. -/
def execEvRowFiringAdmit (s : State) : Out :=
  s.withEv fun e =>
    let pos := e.pos
    match (s.matrix pos).ops.find? (s.rowReady pos) with
    | none => .next (s.mnPump pos)
    | some o =>
      match o.work with
      | .run port out dit i0 n admitted prog =>
        match s.aRow pos o port with
        | none => .next s
        | some (t, sc, psn) =>
          match (if port.isSome then none else tileFault o.cfg.tya t) with
          | some reason => .next ((s.modMn pos o.id fun o => { o with bad := some (reason, t.getD 3 0) }).mnPump pos)
          | none =>
            let c := o.cfg
            let b := (s.matrix pos).buf c.bsel
            let left := (List.range c.nc).map fun i => if dit then 128 else unitsOf c.tya * pairsOf t (b.col i)
            let row : MnRow := { op := o.id, j := admitted, slot := c.row (i0 + admitted), tile := t, scales := sc, psn := psn, left := left }
            let s := match port with
              | some _ => s
              | none => match s.fifoPlace pos o with
                | some p => s.fifoTake pos o p
                | none => s
            let s := s.modMn pos o.id fun o => { o with work := .run port out dit i0 n (admitted + 1) prog, asZero := false }
            .next ((s.modMatrix pos fun m => { m with window := m.window ++ [row] }).mnPump pos)
      | _ => .next s

/-- One column's 128 units drawn from the window in admission order (R314). -/
def drawColumn (c : Nat) (cap : Nat) : List MnRow → List MnRow
  | [] => []
  | w :: ws =>
    let x := w.left.getD c 0
    let take := min cap x
    { w with left := setNth w.left c (x - take) } :: drawColumn c (cap - take) ws

/-- One cycle of every column (R314). -/
def drawAll (ws : List MnRow) : List MnRow := (List.range 128).foldl (fun ws c => drawColumn c 128 ws) ws

/-- A row firing adds into its accumulator row (R316 to R318), with .OUT the row is sent (R326), and the run ends with its
last. -/
def State.retireRow (s : State) (pos : Coord) (w : MnRow) : State :=
  let m := s.matrix pos
  match m.op w.op with
  | none => s
  | some o =>
    match o.work with
    | .run port out dit i0 n admitted prog =>
      let c := o.cfg
      let b := m.buf c.bsel
      let row := m.accRow w.slot
      let sa (q : Nat) : Nat := if c.scfix then c.sca else w.scales.getD q 127
      let res := row.zipIdx.map fun x =>
        if x.2 < c.nc then
          let t := b.col x.2
          accColumn c.tya c.tyb w.tile t sa (fun q => if c.scfix then c.scb else tileScale t q) x.1.toNat
        else (x.1.toNat, 0)
      let fl := res.foldl (fun f x => f ||| x.2) 0
      let pairs := (List.range c.nc).foldl (fun k i => k + pairsOf w.tile (b.col i)) 0
      let s := s.modMatrix pos fun m =>
        let m := m.setRow w.slot (res.map fun x => BitVec.ofNat 32 x.1)
        let m := if w.psn then m.setPsn w.slot true else m
        { m with rows := (m.rows + 1) % 2 ^ 32, zrows := if pairs = 0 then satAdd 32 m.zrows 1 else m.zrows,
                 pairs := (m.pairs + (if dit then tileElems c.tya * c.nc else pairs)) % 2 ^ 64,
                 progs := setNth m.progs o.runSlot (prog + 1), window := m.window.erase w }
      let (s, fo) := if out then s.mnSend pos o w.j w.slot true else (s, 0)
      let s := (s.raise pos o.ctx (fl ||| fo)).repay pos o.ctx o.frame 1
      let o' := { o with work := .run port out dit i0 n admitted (prog + 1), flags := o.flags ||| fl ||| fo,
                         poisoned := o.poisoned || w.psn }
      let s := (s.modMn pos o.id fun _ => o').progress o.region
      if prog + 1 = n then s.mnEndRun pos o' else s
    | _ => s

/-- Row firings at the head of the window with nothing left retire (R314). -/
def State.retireAll (s : State) (pos : Coord) : List MnRow → State
  | [] => s
  | w :: ws => if w.left.all (· == 0) then State.retireAll (s.retireRow pos w) pos ws else s

/-- ROW_FIRING_RETIRE (R314): one cycle of the node: units are drawn, finished row firings retire in admission order, and
row-slot instructions that have become free act. The event's node. -/
def execEvRowFiringRetire (s : State) : Out :=
  s.withEv fun e =>
    let pos := e.pos
    let s := s.modMatrix pos fun m => { m with window := drawAll m.window }
    .next ((s.retireAll pos (s.matrix pos).window).mnPump pos)

/-- B_BUFFER_FREE (R308). The event's node; operand i: the buffer. -/
def execEvBBufferFree (s : State) : Out :=
  s.withEv fun e => .next ((s.freeBuf e.pos (e.i.toNat % 2)).mnPump e.pos)

/-- HOLD_COMPLETE (R308 to R310, R334): the first hold of a buffer finishes its check. A failing column's record is posted
once the buffer's row firings have left the window. The event's node; operand i: the buffer. -/
def execEvHoldComplete (s : State) : Out :=
  s.withEv fun e =>
    let pos := e.pos
    let buf := e.i.toNat % 2
    let m := s.matrix pos
    let b := m.buf buf
    match m.holder buf with
    | none => .next s
    | some o =>
      if b.st ≠ 1 ∧ b.st ≠ 2 then .next (s.mnPump pos)
      else
        let c := o.cfg
        let lo := if b.tyb = Ty.code c.tyb then b.chk else 0
        let bad := (List.range c.nc).findSome? fun i =>
          if i < lo then none else (tileFault c.tyb (b.col i)).map fun r => (i, r)
        match bad with
        | none =>
          let s := s.modBuf pos buf fun b => { b with st := 2, chk := c.nc, tyb := Ty.code c.tyb }
          match o.work with
          | .hold _ _ => .next ((s.mnDone pos o 0).mnPump pos)
          | _ => .next (s.mnPump pos)
        | some (i, reason) =>
          match s.region o.region with
          | none => .next s
          | some r =>
            let busy := m.window.any fun w => match m.op w.op with | some x => x.cfg.bsel == buf | none => false
            if busy then .next s
            else if !s.canPost r.part then .next (s.waitParked r o.frame)
            else
              let s := s.postFor r (.matrix pos o.id) { s.mnInfo pos o Cause.bitmap (i + 128 + 256 * reason) with
                auxv := ((b.col i).getD 3 0).toNat }
              let s := s.modBuf pos buf fun b => { b with st := 0, zfCols := [] }
              .next (((s.modMn pos o.id fun o => { o with parked := true }).parkFrame r o.frame).mnPump pos)

end Sys2Proof.Machine
end

