-- ==== Sys2Proof/Machine/WorkOps.lean ====
section
/-! DEFINITION. What the Worklist Engine's instructions and events share: the Tills of a region (R370), placing tasks and
the spill ring (R373 to R376), the bound (R377 to R379), pop sources (R382, R384) and transfers (R387). -/

namespace Sys2Proof.Machine

/-! ## The Tills of a region (R370) -/

/-- A region's Tills, in the order of their numbers. -/
def Region.tills (r : Region) : List Coord := r.clusters.map fun g => clusterNode g 5

/-- A Till by its number, modulo NT. -/
def Region.tillAt (r : Region) (k : Nat) : Coord := r.tills.getD (k % r.tills.length) r.seqCoord

/-- The number of a Till. -/
def Region.tillNo (r : Region) (c : Coord) : Nat := r.tills.idxOf c

/-- The region that holds a node's cluster. -/
def State.regionAt (s : State) (c : Coord) : Option Region := s.regions.find? fun r => r.clusters.contains (clusterOf c)

/-- A region's Clearing. -/
def State.clearing (s : State) (r : Nat) : Clearing := s.clearings.get {} r
/-- Change a region's Clearing. -/
def State.modClearing (s : State) (r : Nat) (f : Clearing → Clearing) : State :=
  { s with clearings := s.clearings.set r (f (s.clearing r)) }

/-- HIWM, LOWM, TNFY, TEN and RINGLG (R372). -/
def Till.hiwm (t : Till) : Nat := bits t.cfg.toNat 36 11
def Till.lowm (t : Till) : Nat := bits t.cfg.toNat 25 11
def Till.ringSize (t : Till) : Nat := 2 ^ bits t.cfg.toNat 11 5
/-- Tasks in the ring. -/
def Till.ringCount (t : Till) : Nat := t.rTail - t.rHead
/-- The worklist is configured and not closed. -/
def Till.openNow (t : Till) : Bool := t.cfgd && !t.term
/-- Tasks in a Till and its ring (R390). -/
def Till.held (t : Till) : Nat := t.tasks.length + t.ringCount

/-! ## Priorities (R377 to R379) -/

/-- The absent priority. -/
def noPri : Nat := 0xffffffff

/-- The least of some priorities. -/
def leastPri (l : List Nat) : Nat := l.foldl min noPri

/-- PMIN, 0 while a WLPUSHB has unread records (R378). -/
def Till.pending (t : Till) : Nat := if t.ops.any fun o => decide (0 < o.records) then 0 else t.pmin

/-- The sample of a Till (R377). -/
def Till.sample (t : Till) : Nat :=
  min (min (leastPri (t.tasks.map fun x => x.2.pri)) t.spmin) (min (leastPri (t.inService.map (·.pri))) t.pending)

/-- LOCLOW falls to a priority below L_eff (R379). -/
def Till.lower (t : Till) (p : Nat) : Till := if p < t.leff then { t with locLow := p, lowered := true } else t

/-- WB rises to bucket(L_eff) (R373). -/
def Till.rise (t : Till) : Till := { t with wb := max t.wb (t.bkt t.leff) }

/-! ## The spill ring (R374 to R376) -/

/-- The ring address of an entry by its number since WLCFG. -/
def State.ringAddr (s : State) (pos : Coord) (k : Nat) : Nat :=
  let t := s.till pos
  let n := match s.regionAt pos with | some r => r.tillNo pos | none => 0
  t.rbase + n * 16 * t.ringSize + 16 * (k % t.ringSize)

/-- A ring access faults: one record, and the Till stops spilling and refilling (R376). -/
def State.ringFault (s : State) (r : Region) (pos : Coord) (cause addr lvl : Nat) : State :=
  if !s.canPost r.part then s.waitToPost r.part
  else
    (s.postFor r (.ring pos) { cause := cause, detail := 0x0700, pos := pos, nk := 5, fv := false, akind := 1,
                               addr := addr % 2 ^ 48, auxv := lvl, parked := true }).modTill pos fun t => { t with ringStop := true }

/-- The bytes of a task (R371). -/
def Task.bytes (t : Task) : List Byte := toBytes 8 (t.pri % 2 ^ 32 + 2 ^ 32 * (t.key % 2 ^ 32)) ++ toBytes 8 t.pay

/-- A task from its bytes. -/
def taskOf (bs : List Byte) : Task :=
  { pri := ofBytes (bs.take 4), key := ofBytes ((bs.drop 4).take 4), pay := ofBytes ((bs.drop 8).take 8) }

/-- A task is appended at the ring's tail (R374), if the ring has room and the Till may reach it. -/
def State.ringWrite (s : State) (r : Region) (pos : Coord) (x : Task) : State × Bool :=
  let t := s.till pos
  if t.ringStop || s.stalled r.part || decide (t.ringSize ≤ t.ringCount) then (s, false)
  else
    let a := s.ringAddr pos t.rTail
    match s.reach r.part a true with
    | .inl (cause, _, lvl) => (s.ringFault r pos cause a lvl, false)
    | .inr (spa, dev) =>
      let s := (s.unitWrite (s.partFor r.id) (lineOf spa) dev false (cellsAt spa x.bytes)).1
      (s.modTill pos fun t =>
        { t with rTail := t.rTail + 1, spmin := min t.spmin x.pri, spills := (t.spills + 1) % 2 ^ 32 }, true)

/-- A Till's tasks in order: by true bucket, and within one by arrival (R373). -/
def Till.insert (t : Till) (x : Task) : Till :=
  let le (a b : Nat × Task) : Bool := decide (t.bkt a.2.pri < t.bkt b.2.pri ∨ (t.bkt a.2.pri = t.bkt b.2.pri ∧ a.1 ≤ b.1))
  { t with tasks := insertBy le (t.nextArr, x) t.tasks, nextArr := t.nextArr + 1 }

/-- The task whose bucket is beyond the window belongs in the ring (R373). -/
def Till.beyond (t : Till) (x : Task) : Bool := decide (t.wb + 64 ≤ t.bkt x.pri)

/-- A Till accepts a task (R373, R374): in its window or its ring; beyond HIWM the last task of its highest bucket goes to
the ring. It answers whether there was room. -/
def State.tillAccept (s : State) (r : Region) (pos : Coord) (x : Task) : State × Bool :=
  let t := s.till pos
  let accept (s : State) : State := s.modTill pos fun t => t.lower x.pri
  if t.beyond x then
    let w := s.ringWrite r pos x
    if w.2 then (accept w.1, true) else w
  else
    let t' := t.insert x
    if t'.tasks.length ≤ t.hiwm then (accept (s.modTill pos fun _ => t'), true)
    else match t'.tasks.getLast? with
      | none => (s, false)
      | some out =>
        let w := s.ringWrite r pos out.2
        if w.2 then
          (accept (w.1.modTill pos fun t => { t with tasks := t'.tasks.dropLast, nextArr := t'.nextArr }), true)
        else w

/-- A Till has taken a task that was pushed to it (R390). -/
def State.received (s : State) (pos : Coord) (steal : Bool) : State :=
  s.modTill pos fun t => { t with recv := (t.recv + 1) % 2 ^ 48, stolen := if steal then (t.stolen + 1) % 2 ^ 32 else t.stolen }

/-! ## Transfers (R378, R387) -/

/-- Tasks that travel to, or wait at, a Till. -/
def State.inbox (s : State) (dst : Coord) : List Transfer := s.transfers.filter fun x => x.carry == .sent && decide (x.dst = dst)

/-- The sender holds a transfer credit towards a Till. -/
def State.transferCredit (s : State) (src dst : Coord) : Bool :=
  let l := s.inbox dst
  decide (l.length < 64) && decide ((l.filter fun x => decide (x.src = src)).length < 4)

/-- A task leaves for another Till: PMIN and LOCLOW fall at once (R378, R379). -/
def State.transfer (s : State) (src dst : Coord) (region : Nat) (x : Task) (steal : Bool) (op : Nat) : State :=
  let t : Transfer := { id := s.nextTransfer, src := src, dst := dst, region := region, task := x, steal := steal, op := op }
  ({ s with transfers := s.transfers ++ [t], nextTransfer := s.nextTransfer + 1 } : State).modTill src fun t =>
    { t with pmin := min t.pmin x.pri }.lower x.pri

/-- The receipt of a push whose tasks have all been accepted (R396, R397). -/
def State.wlReceipt (s : State) (pos : Coord) (id : Nat) : State :=
  match (s.till pos).ops.find? fun o => o.id == id with
  | none => s
  | some o =>
    if o.issued && o.left == 0 && !o.drain then
      let s := s.modTill pos fun t => { t with ops := t.ops.filter fun x => x.id != id }
      if o.rw = 0 then s
      else (s.sendReceipt pos o.ctx o.rw o.frame o.iter 0 0 0 o.poisoned).repay pos o.ctx o.frame 1
    else s

/-- Change a push under way. -/
def State.modWlOp (s : State) (pos : Coord) (id : Nat) (f : WlOp → WlOp) : State :=
  s.modTill pos fun t => { t with ops := t.ops.map fun o => if o.id == id then f o else o }

/-- One task is issued to its destination (R396): to the Till itself if it has room, or by transfer if it has the credit.
It answers whether the task went. -/
def State.pushTask (s : State) (r : Region) (pos dst : Coord) (x : Task) (op : Nat) (count : Bool) : State × Bool :=
  let sent (s : State) : State :=
    if count then s.modTill pos fun t => { t with sent := (t.sent + 1) % 2 ^ 48 } else s
  if dst = pos then
    let w := s.tillAccept r pos x
    if w.2 then (sent (w.1.received pos false), true) else w
  else if s.transferCredit pos dst then
    ((sent (s.transfer pos dst r.id x false op)).modWlOp pos op fun o => { o with left := o.left + 1 }, true)
  else (s, false)

/-- Where a push goes (R396): this Till, the key's Till, or the hash's. -/
def pushDest (hash : Nat → Nat) (r : Region) (pos : Coord) (mode key : Nat) : Coord :=
  match mode with
  | 0 => pos
  | 1 => r.tillAt key
  | _ => r.tillAt (hash key)

/-! ## Pop sources (R382, R384) -/

/-- WLPOP's fields: NRES, NLOW and FAN. -/
def popFields (imm : Nat) : Nat × Nat × Nat := (imm % 32 + 1, imm / 32 % 32, imm / 1024 % 4)

/-- A pop source's context. -/
def Ctx.isPop (x : Ctx) : Bool := x.mode == 3

/-- A pop source asks the Mint for its frames, one request a frame (R382). -/
def State.askFrames (s : State) (pos : Coord) (k : Nat) : State :=
  let x := s.ctx pos k
  match x.owner with
  | some o =>
    if x.isPop then
      let n := (popFields (bits (x.sequence.headD 0).toNat 0 16)).1
      (s.modRegion o.region fun r => { r with requests := r.requests ++ List.replicate n (.pop pos k) }).modTill pos fun t =>
        t.modSource k fun p => { p with asked := p.asked + n }
    else s
  | none => s

/-- Batches that are over leave their pop source (R384). -/
def Pop.reclaim (p : Pop) (r : Region) : Pop := { p with batches := p.batches.filter fun b => !(b.over r && b.inService.isEmpty) }

/-- The frames of a pop source that hold no batch. -/
def Pop.free (p : Pop) (r : Region) : List Nat :=
  p.frames.filter fun f => !p.batches.any fun b => b.frame == f && !b.over r

/-- A pop source returns its frames to the Mint, in STATE 2, and its requests end (R392, R403). -/
def State.giveFrames (s : State) (pos : Coord) (k : Nat) : State :=
  let p := (s.till pos).source k
  let region := s.regionOf pos k
  let s := p.frames.foldl (fun s f => s.modFrame region f fun x => { x with state := 2 }) s
  let s := s.modRegion region fun r => { r with requests := r.requests.filter fun q => q != .pop pos k }
  s.modTill pos fun t => t.modSource k fun p => { p with frames := [], asked := 0, batches := [] }

end Sys2Proof.Machine
end

