-- ==== Sys2Proof/Machine/Worklist.lean ====
section
/-! DEFINITION. The Worklist Engine: its instructions (R394 to R401), its events (R375, R377, R387, R388, R391, R392) and the
retire notice (R399). -/

namespace Sys2Proof.Machine

/-! ## What the instructions share -/

/-- RWX of an X-form word, and its options (R394). -/
def wlRwx (n : Niw) : Nat := n.opt.toNat % 8
def wlSel (n : Niw) : Nat := n.opt.toNat / 8 % 8

/-- A worklist instruction faults (R402). -/
def State.wlFault (s : State) (f : Firing) (cause detail auxv : Nat) : Out :=
  s.takeFrameFault s.cur.pos s.cur.slot .firing { s.infoOf s.cur.pos f cause detail with auxv := auxv }

/-- A receipt at once. -/
def State.wlReply (s : State) (f : Firing) (rw : Nat) (poisoned : Bool) : State :=
  s.sendReceipt s.cur.pos f.ctx rw f.frame f.iter 0 0 0 poisoned

/-- Suppressed lanes or instructions (R396, R404). -/
def State.wlSink (s : State) (k : Nat) : State := s.modTill s.cur.pos fun t => { t with psup := satAdd 64 t.psup k }

/-- The lowest active lane. -/
def Firing.laneLow (f : Firing) : Nat := (f.active .token).headD 0

/-- The firing has no active lane. -/
def Firing.empty (f : Firing) : Bool := f.tmask % 2 ^ f.len == 0

/-- The first firing step of a push: its operation, numbered. -/
def State.wlOpen (s : State) (f : Firing) (rw records : Nat) (poisoned drain : Bool) : State × Nat :=
  let pos := s.cur.pos
  let id := (s.till pos).nextId + 1
  let o : WlOp := { id := id, region := f.region, ctx := f.ctx, frame := f.frame, iter := f.iter, rw := rw, left := 0,
                    issued := drain, poisoned := poisoned, drain := drain, records := records }
  let s := s.modTill pos fun t => { t with ops := t.ops ++ [o], nextId := id }
  let s := if rw = 0 then s else s.owe pos f.ctx f.frame 1
  (s.modSlot pos s.cur.slot fun f => { f with opid := id }, id)

/-- Every task of a push has been issued: its receipt is due when they have been accepted. -/
def State.wlIssued (s : State) (id : Nat) : State :=
  ((s.modWlOp s.cur.pos id fun o => { o with issued := true }).wlReceipt s.cur.pos id).goOn

/-! ## WLCFG (R395) -/

/-- The limits of the configuration word (R372); its reserved bits are ignored (R4). -/
def wlWordOk (w : Nat) : Bool :=
  decide (1 ≤ bits w 36 11 ∧ bits w 36 11 ≤ 1024 ∧ bits w 25 11 < bits w 36 11 ∧ 10 ≤ bits w 11 5 ∧ bits w 11 5 ≤ 26)

/-- The limits of the ring's address constant (R229, R372). -/
def wlRingOk (w : Nat) : Bool := decide (bits w 62 2 = 1 ∧ bits w 48 14 = 0 ∧ bits w 0 12 = 0)

/-- A Till as WLCFG leaves it: every counter is 0, and its pop sources keep their frames (R395). The reserved bits of WL_CFG are ignored,
and read 0 (R4, R372). -/
def Till.configured (t : Till) (w : Word) (base : Nat) : Till :=
  { cfg := BitVec.ofNat 64 (setBits (setBits w.toNat 47 6 0) 0 11 0), rbase := base, cfgd := true, hold := true, sources := t.sources, nextId := t.nextId, lastPop := t.lastPop }

/-- Every Till of the region is configured, the wave timers start, and pop sources that hold no frame ask for theirs (R382,
R395). -/
def State.configure (s : State) (r : Region) (w : Word) (base : Nat) : State :=
  let s := r.tills.foldl (fun s c => s.modTill c fun t => t.configured w base) s
  let s : State := { s with transfers := s.transfers.filter fun x => x.region != r.id }
  let s := s.modClearing r.id fun _ => { startAt := s.cyc }
  r.tills.foldl (fun s c => (List.range 8).foldl (fun s k =>
    let p := (s.till c).source k
    if (s.ctx c k).ownedBy r.id && (s.ctx c k).isPop && p.frames.isEmpty && p.asked == 0 then s.askFrames c k else s) s) s

/-- WLCFG (R395). -/
def execWlcfg (n : Niw) (s : State) : Out :=
  s.withFiring fun f => s.withRegion f fun r =>
    let rw := wlRwx n
    if f.skipped then .next (((s.countSkip s.cur.pos (popcount f.tmask f.len)).wlReply f rw true).goOn)
    else if f.empty then .next ((s.wlReply f rw false).goOn)
    else
      let w := (s.readSel s.cur.pos f n .n64 0 n.a f.laneLow).1
      let base := (s.readSel s.cur.pos f n .n64 1 n.b f.laneLow).1
      let t := s.till s.cur.pos
      if !wlWordOk w || (bit w 16 && (s.nfy (bits w 17 8)).owner != r.part) then s.wlFault f Cause.illegalCfg 1 w
      else if !wlRingOk base then s.wlFault f Cause.illegalCfg 2 base
      else if t.openNow then s.wlFault f Cause.illegalCfg 3 (s.clearing r.id).lastHeld
      else .next (((s.configure r (BitVec.ofNat 64 w) (bits base 0 48)).wlReply f rw false).goOn)

/-! ## Pushes (R396, R397) -/

/-- The worklist's state refuses a push (R402). -/
def Till.refuses (t : Till) : Option Nat := if !t.cfgd then some 4 else if t.term then some 5 else none

/-- WLPUSH (R396): one lane a step, in ascending order; the firing's progress is the next lane. -/
def execWlpush (n : Niw) (s : State) : Out :=
  s.withFiring fun f => s.withRegion f fun r =>
    let pos := s.cur.pos
    let rw := wlRwx n
    let cPort := match n.c with | .p _ => true | _ => false
    if f.skipped then .next (((s.wlSink (popcount f.tmask f.len)).wlReply f rw true).goOn)
    else if f.empty then .next ((s.wlReply f rw false).goOn)
    else match (if f.opid = 0 then (s.till pos).refuses else none) with
      | some d => s.wlFault f Cause.illegalCfg d 0
      | none =>
        if cPort && decide (16 < f.len) then s.wlFault f Cause.illegalInsn 0x8000 f.len
        else
          let lanes := (f.active .token).map fun l =>
            let a := s.readSel pos f n .n32 0 n.a l
            let b := s.readSel pos f n .n32 1 n.b l
            let c := s.readSel pos f n .n64 2 n.c l
            (l, ({ pri := a.1, key := b.1, pay := c.1 } : Task), a.2 || b.2 || c.2)
          let sunk := lanes.filter fun x => x.2.2
          if f.opid = 0 && s.sinkMustWait f && !sunk.isEmpty then .next (s.waitToPost r.part)
          else
            let (s, id) :=
              if f.opid ≠ 0 then (s, f.opid)
              else
                let s := match sunk with
                  | [] => s
                  | x :: _ => (s.wlSink sunk.length).reportSink pos f 3 (s.sinkEdge pos f.ctx rw) x.1 sunk.length
                s.wlOpen f rw 0 (!sunk.isEmpty) false
            match lanes.find? fun x => decide (f.part ≤ x.1) && !x.2.2 with
            | none => .next (s.wlIssued id)
            | some (l, x, _) =>
              let dst := pushDest (fun k => hash32 k 0) r pos (wlSel n % 4) x.key
              let w := s.pushTask r pos dst x id true
              if w.2 then .next (w.1.modSlot pos s.cur.slot fun f => { f with part := l + 1 }) else .next w.1

/-- A record of a WLPUSHB is pushed to the Till that its key names; without credit or room it is kept, and is not read again (R397). -/
def State.pushRecord (s : State) (r : Region) (mode id : Nat) (x : Task) : Out :=
  let pos := s.cur.pos
  let w := s.pushTask r pos (pushDest (fun k => hash32 k 0) r pos mode x.key) x id false
  let s := w.1.modWlOp pos id fun o => { o with record := if w.2 then none else some x, records := o.records - b2n w.2 }
  if w.2 then .next ((s.modTill pos fun t => t.lower x.pri).modSlot pos s.cur.slot fun f => { f with part := f.part + 1 })
  else .next s

/-- WLPUSHB (R397): one record a step; the firing's progress is the next record. -/
def execWlpushb (n : Niw) (s : State) : Out :=
  s.withFiring fun f => s.withRegion f fun r =>
    let pos := s.cur.pos
    let rw := wlRwx n
    if f.skipped then .next (((s.wlSink 1).wlReply f rw true).goOn)
    else if f.empty then .next ((s.wlReply f rw false).goOn)
    else match (if f.opid = 0 then (s.till pos).refuses else none) with
      | some d => s.wlFault f Cause.illegalCfg d 0
      | none =>
        match f.addrConst n.a with
        | some (true, base) =>
          let b := s.readSel pos f n .n32 1 n.b f.laneLow
          let c := s.readSel pos f n .n32 2 n.c f.laneLow
          if b.2 || c.2 then
            if s.sinkMustWait f then .next (s.waitToPost r.part)
            else .next ((((s.wlSink 1).reportSink pos f 3 (s.sinkEdge pos f.ctx rw) f.laneLow 1).wlReply f rw true).goOn)
          else if b.1 = 0 then .next ((s.wlReply f rw false).goOn)
          else if 2 ^ 20 < b.1 then s.wlFault f Cause.illegalCfg 6 b.1
          else if f.opid = 0 then
            let s := s.modTill pos fun t => { t with sent := (t.sent + b.1) % 2 ^ 48 }
            .next (s.wlOpen f rw b.1 false false).1
          else if b.1 ≤ f.part then .next (s.wlIssued f.opid)
          else match ((s.till pos).ops.find? fun o => o.id == f.opid).bind (·.record) with
          | some x => s.pushRecord r (wlSel n % 4) f.opid x
          | none =>
            if s.stallsNew r then .next s else
            let a := base + 16 * (c.1 + f.part)
            let fault (cause : Nat) : Out :=
              s.takeFrameFault pos s.cur.slot (.pushb pos)
                { s.infoOf pos f cause 0 with akind := 1, addr := a % 2 ^ 48, auxv := f.part }
            if a % 16 ≠ 0 then fault Cause.align
            else match s.reach r.part a false with
              | .inl (cause, _, _) => fault cause
              | .inr (spa, dev) =>
                let s := s.unitRead (s.partFor r.id) (lineOf spa) dev
                s.pushRecord r (wlSel n % 4) f.opid (taskOf (Memory.reads s.mem spa 16))
        | _ => s.badOperand f

/-- DISCARD of a WLPUSHB record (R397): the records left count as received, and the instruction ends poisoned. -/
def State.pushbDiscard (s : State) (pos : Coord) (id : Nat) : State :=
  match (s.till pos).ops.find? fun o => o.id == id with
  | none => s
  | some o =>
    let s := s.modTill pos fun t => { t with recv := (t.recv + o.records) % 2 ^ 48 }
    (s.modWlOp pos id fun o => { o with records := 0, record := none, poisoned := true, issued := true }).wlReceipt pos id

/-! ## WLPOP (R381 to R385, R398) -/

/-- What a pop source's next batch is: its frame, its bucket and its tasks. -/
structure NextBatch where
  frame : Nat
  bucket : Nat
  tasks : List (Nat × Task)
  fan : Nat
  run : Nat
deriving DecidableEq, Repr

/-- The batch that a context's pop source can form now (R382, R383), with room for what it emits. -/
def State.nextBatch (s : State) (pos : Coord) (k : Nat) : Option NextBatch :=
  let x := s.ctx pos k
  let t := s.till pos
  match x.owner with
  | none => none
  | some o =>
    match s.region o.region with
    | none => none
    | some r =>
      if !x.isPop || !t.openNow || s.stalled r.part || (s.node pos).cut || r.stopped then none
      else
        let p := t.source k
        let (_, nlow, fan) := popFields (bits (x.sequence.headD 0).toNat 0 16)
        let free := p.free r
        match free, t.tasks with
        | f :: _, first :: _ =>
          let b := t.bkt first.2.pri
          let may := decide (b ≤ t.bkt t.leff) || decide (nlow < free.length)
          if !t.eligible first.2.pri || !may || !s.roomMany pos k (x.outPorts.map fun o => (o, 2)) then none
          else
            let ts := (t.tasks.filter fun q => t.bkt q.2.pri == b).take x.crun
            some { frame := f, bucket := b, tasks := ts, fan := 2 ^ fan, run := ts.length * 2 ^ fan }
        | _, _ => none

/-- A field of a task, by output port (R383). -/
def Task.field (x : Task) : Nat → Nat
  | 0 => x.pri
  | 1 => x.key
  | 2 => x.pay % 2 ^ 32
  | _ => x.pay / 2 ^ 32

/-- WLPOP (R383, R398): the pop source forms a batch and emits its tokens and its markers, when its turn has come in the
round robin of its Till. -/
def execWlpop (_ : Niw) (s : State) : Out :=
  let pos := s.cur.pos
  let k := s.cur.slot
  let t := s.till pos
  let order := (List.range 8).map fun i => (t.lastPop + 1 + i) % 8
  if (order.find? fun c => (s.nextBatch pos c).isSome) ≠ some k then .next s
  else match s.nextBatch pos k with
    | none => .next s
    | some b =>
      let x := s.ctx pos k
      let region := s.regionOf pos k
      match s.region region with
      | none => .next s
      | some r =>
        let batch : Batch := { frame := b.frame, run := b.run, fan := b.fan, bucket := b.bucket, tasks := b.tasks.map (·.2), id := t.nextId + 1 }
        let past (y : Batch) : Batch := if y.frame = b.frame then { y with gone := true } else y
        let s := s.modTill pos fun t =>
          { t.modSource k fun p => { p.reclaim r with batches := (p.reclaim r).batches.map past ++ [batch] } with
            nextId := t.nextId + 1,
            tasks := t.tasks.filter fun q => !b.tasks.any fun y => y.1 == q.1, pops := (t.pops + b.tasks.length) % 2 ^ 48, lastPop := k }
        let value (o : Nat) : Token :=
          { kind := .value, dst := mkCoord 0 0 0, ctx := 0, port := 0, frame := b.frame, iter := 0, len := b.run, aux := 0,
            mask := 2 ^ b.run - 1, poison := 0, wide := false,
            lanes := (List.range b.run).map fun l =>
              BitVec.ofNat 64 (((batch.tasks.getD (l / b.fan) { key := 0, pri := 0, pay := 0 })).field o) }
        let s := x.outPorts.foldl (fun s o => s.enqueue pos k o false false (value o)) s
        let s := x.outPorts.foldl (fun s o => s.enqueue pos k o false false (markerTok b.frame (b.run % 4096) 0 0 false)) s
        .next (s.progress region)

/-! ## WLDONE (R399) -/

/-- The pop source that holds a frame's batch: its Till, its context and the batch. -/
def State.batchOf (s : State) (r : Region) (frame : Nat) : Option (Coord × Nat × Batch) :=
  r.tills.findSome? fun c => (List.range 8).findSome? fun k =>
    if (s.ctx c k).ownedBy r.id then
      (((s.till c).source k).batches.find? fun b => b.frame == frame && !b.over r).map fun b => (c, k, b)
    else none

/-- Change the batch that a frame holds. -/
def State.modBatch (s : State) (c : Coord) (k frame : Nat) (f : Batch → Batch) : State :=
  s.modTill c fun t => t.modSource k fun p => { p with batches := p.batches.map fun b => if b.frame == frame && !b.gone then f b else b }

/-- Tasks whose iterations a coverage mask holds whole. -/
def Batch.coveredTasks (b : Batch) (cov : Nat) : Nat :=
  ((List.range b.tasks.length).filter fun j => bits cov (j * b.fan) b.fan == 2 ^ b.fan - 1).length

/-- WLDONE (R399): the whole run is covered, whatever its mask or poison. -/
def execWldone (_ : Niw) (s : State) : Out :=
  s.withFiring fun f => s.withRegion f fun r =>
    let pos := s.cur.pos
    if f.skipped then .next ((s.countSkip pos (popcount f.tmask f.len)).goOn)
    else match s.batchOf r f.frame with
      | none => s.wlFault f Cause.frameBudget 4 f.frame
      | some (c, k, b) =>
        let is := (List.range f.len).map (f.iter + ·)
        match is.find? fun i => decide (b.run ≤ i) || bit b.cov i with
        | some i => s.wlFault f Cause.frameBudget 5 i
        | none =>
          let m := (2 ^ f.len - 1) * 2 ^ f.iter
          let n := b.coveredTasks (b.cov + m) - b.coveredTasks b.cov
          let s := s.modBatch c k f.frame fun b => { b with cov := b.cov + m }
          let s := s.modTill pos fun t => { t with retires := (t.retires + n) % 2 ^ 48 }
          .next ((s.sendStrobe (.node pos) (.node c) r.id 11 [(32, m), (6, 0), (10, f.frame)] b.id).goOn)

/-- WLDONE.SEED (R390, R399): HOLD falls, at every Till. -/
def execWldoneSeed (_ : Niw) (s : State) : Out :=
  s.withFiring fun f => s.withRegion f fun r =>
    if f.skipped then .next ((s.countSkip s.cur.pos (popcount f.tmask f.len)).goOn)
    else if !(s.till s.cur.pos).hold then s.wlFault f Cause.frameBudget 6 0
    else .next ((r.tills.foldl (fun s c => s.modTill c fun t => { t with hold := false }) s).goOn)

/-- RETIRE (R399): the tasks that a notice covers leave service at their pop source's Till. -/
def execSkRetire (s : State) : Out :=
  s.withStrobe fun s m a =>
    match m.dst with
    | .node c =>
      let frame := a / 2 ^ 38
      let cov := a % 2 ^ 32
      let hit (b : Batch) : Bool := b.frame == frame && b.id == m.batch
      .next (s.modTill c fun t => { t with sources := t.sources.map fun p => (p.1, { p.2 with
        batches := p.2.batches.map fun b => if hit b then { b with retired := b.retired ||| cov } else b }) })
    | _ => .next s

/-- DISCARD of a batch frame (R403): every uncovered task of the batch retires at its pop source's Till. -/
def State.batchDiscard (s : State) (r : Region) (frame : Nat) : State :=
  match s.batchOf r frame with
  | none => s
  | some (c, k, b) =>
    let n := b.tasks.length - b.coveredTasks b.cov
    (s.modBatch c k frame fun b => { b with cov := b.full, retired := b.full }).modTill c fun t =>
      { t with retires := (t.retires + n) % 2 ^ 48 }

/-! ## Queries and WLDRAIN (R400, R401) -/

/-- WLMIN (R400). -/
def execWlmin (n : Niw) (s : State) : Out :=
  let t := s.till s.cur.pos
  s.result n false 32 fun f => (f.active .token).map fun l =>
    let v := if !t.cfgd then noPri
      else match wlSel n with
        | 0 => t.leff
        | 1 => t.bkt t.leff
        | 2 => t.lpkg
        | _ => leastPri (t.tasks.map fun x => x.2.pri)
    (l, { v := v, psn := false })

/-- WLSTAT (R400). -/
def execWlstat (n : Niw) (s : State) : Out :=
  let t := s.till s.cur.pos
  s.result n false 32 fun f => (f.active .token).map fun l =>
    let v := if !t.cfgd then 0
      else match wlSel n with
        | 0 => t.tasks.length
        | 1 => t.inService.length
        | 2 => t.ringCount
        | 3 => b2n t.term
        | _ => (s.clearing f.region).waves
    (l, { v := v % 2 ^ 32, psn := false })

/-- WLDRAIN (R401): the receipt waits for termination. -/
def execWldrain (n : Niw) (s : State) : Out :=
  s.withFiring fun f =>
    let rw := wlRwx n
    let t := s.till s.cur.pos
    if f.skipped then .next (((s.countSkip s.cur.pos (popcount f.tmask f.len)).wlReply f rw true).goOn)
    else if !t.cfgd then s.wlFault f Cause.illegalCfg 4 0
    else if t.term then .next ((s.wlReply f rw false).goOn)
    else .next ((s.wlOpen f rw 0 false true).1.goOn)

/-! ## Waves (R377 to R379, R391, R392) -/

/-- A wave of a period may start: the last one started that long ago. -/
def waveDue (c : Clearing) (last : Option Nat) (period now : Nat) : Bool :=
  match last with
  | none => decide (c.startAt ≤ now)
  | some t => decide (t + period ≤ now)

/-- The worklist is configured, and no freeze stops its waves. -/
def State.waves (s : State) (pos : Coord) : Option Region :=
  match s.regionAt pos with
  | some r => if (s.till pos).cfgd && !r.frozen then some r else none
  | none => none

/-- DIE_WAVE (R377): the wave of a Till's die starts if it is due, and samples the Till. The event's node: the Till. -/
def execEvDieWave (s : State) : Out :=
  s.withEv fun e =>
    match s.waves e.pos with
    | none => .next s
    | some r =>
      let c := s.clearing r.id
      let d := e.pos.die.toNat
      let sample := (e.pos, (s.till e.pos).sample)
      if kindOf e.pos ≠ .till then .next s
      else match c.die.find d with
        | some w =>
          if w.samples.any fun x => decide (x.1 = e.pos) then .next s
          else .next (s.modClearing r.id fun c => { c with die := c.die.set d { w with samples := w.samples ++ [sample] } })
        | none =>
          if waveDue c (c.dieStart.find d) 256 s.cyc then
            .next (s.modClearing r.id fun c =>
              { c with die := c.die.set d { samples := [sample] }, dieStart := c.dieStart.set d s.cyc })
          else .next s

/-- DIE_WAVE_DELIVER (R377): LDIE of the region's Tills on a die. The event's node: a Till of the die. -/
def execEvDieWaveDeliver (s : State) : Out :=
  s.withEv fun e =>
    match s.waves e.pos with
    | none => .next s
    | some r =>
      let d := e.pos.die.toNat
      let tills := r.tills.filter fun c => c.die.toNat == d
      match (s.clearing r.id).die.find d with
      | some w =>
        if w.samples.length < tills.length then .next s
        else
          let v := leastPri (w.samples.map (·.2))
          let s := s.modClearing r.id fun c => { c with die := Table.erase c.die d }
          .next (tills.foldl (fun s c => s.modTill c fun t => Till.rise { t with ldie := v, seenDie := w.samples }) s)
      | none => .next s

/-- A Till's part of a package wave's sums (R390, R391). -/
def Till.sums (t : Till) : List Nat := [t.sent, t.recv, t.pops, t.retires, t.held]

/-- PACKAGE_WAVE (R377, R378): the wave starts if it is due, and samples a Till, which sends its acknowledgements. The event's
node: the Till. -/
def execEvPackageWave (s : State) : Out :=
  s.withEv fun e =>
    match s.waves e.pos with
    | none => .next s
    | some r =>
      let c := s.clearing r.id
      let t := s.till e.pos
      let add (w : Wave) : Wave :=
        { w with samples := w.samples ++ [(e.pos, t.sample)], sums := (w.sums.zip t.sums).map fun x => x.1 + x.2 }
      let acks (s : State) : State := { s with transfers := s.transfers.map fun x =>
        if x.carry = .taken ∧ x.dst = e.pos then { x with carry := .acked } else x }
      if kindOf e.pos ≠ .till then .next s
      else match c.pkg with
        | some w =>
          if w.samples.any fun x => decide (x.1 = e.pos) then .next s
          else .next (acks (s.modClearing r.id fun c => { c with pkg := some (add w) }))
        | none =>
          if waveDue c c.pkgStart 1024 s.cyc then
            let s := r.tills.foldl (fun s c => s.modTill c fun t => { t with lowered := false }) s
            .next (acks (s.modClearing r.id fun c => { c with pkg := some (add {}), pkgStart := some s.cyc }))
          else .next s

/-- Termination (R392): the worklist closes, pop sources return their frames, the notify register grows, and WLDRAIN's
receipts are sent. -/
def State.terminate (s : State) (r : Region) : State :=
  let s := r.tills.foldl (fun s c =>
    (List.range 8).foldl (fun s k => if (s.ctx c k).ownedBy r.id && (s.ctx c k).isPop then s.giveFrames c k else s)
      (s.modTill c fun t => { t with term := true })) s
  let w := (s.till r.seqCoord).cfg.toNat
  let s := if bit w 16 then s.nfyAdd (bits w 17 8) 1 else s
  r.tills.foldl (fun s c =>
    let ds := (s.till c).ops.filter (·.drain)
    let s := s.modTill c fun t => { t with ops := t.ops.filter fun o => !o.drain }
    ds.foldl (fun s o => (s.sendReceipt c o.ctx o.rw o.frame o.iter 0 0 0 false).repay c o.ctx o.frame 1) s) s

/-- PASS after a wave (R391). -/
def Clearing.passAfter (c : Clearing) (hold : Bool) (sums : List Nat) : Nat :=
  let x (i : Nat) : Nat := sums.getD i 0
  if x 0 ≠ x 1 ∨ x 2 ≠ x 3 ∨ x 4 ≠ 0 ∨ hold then 0
  else if 0 < c.pass ∧ x 0 = c.lastSent ∧ x 2 = c.lastPops then 2
  else 1

/-- PACKAGE_WAVE_DELIVER (R377, R379, R391, R392): LPKG of every Till, LOCLOW's return, and Clearing's test. The event's node:
a Till of the region. -/
def execEvPackageWaveDeliver (s : State) : Out :=
  s.withEv fun e =>
    match s.waves e.pos with
    | none => .next s
    | some r =>
      let c := s.clearing r.id
      match c.pkg with
      | none => .next s
      | some w =>
        if w.samples.length < r.tills.length then .next s
        else
          let v := leastPri (w.samples.map (·.2))
          let s := r.tills.foldl (fun s x => s.modTill x fun t =>
            Till.rise { t with lpkg := v, seenPkg := w.samples, locLow := if t.lowered then t.locLow else noPri }) s
          let pass := c.passAfter (s.till r.seqCoord).hold w.sums
          let s := s.modClearing r.id fun c =>
            { c with pkg := none, waves := (c.waves + 1) % 2 ^ 32, pass := pass, lastSent := w.sums.getD 0 0,
                     lastPops := w.sums.getD 2 0, lastHeld := w.sums.getD 4 0 }
          if pass = 2 ∧ ¬ (s.till r.seqCoord).term then .next (s.terminate r) else .next s

/-! ## Transfers and the ring -/

/-- TRANSFER_ACCEPT (R387): the first task of a sender leaves the inbox into the Till or its ring. Operand i: the transfer. -/
def execEvTransferAccept (s : State) : Out :=
  s.withEv fun e =>
    match s.transfers.find? fun x => x.id == e.i.toNat with
    | none => .next s
    | some x =>
      match s.region x.region with
      | none => .next s
      | some r =>
        let earlier := s.transfers.any fun y => decide (y.id < x.id ∧ y.src = x.src ∧ y.dst = x.dst ∧ y.carry = .sent)
        if x.carry ≠ .sent ∨ earlier ∨ r.frozen then .next s
        else
          let w := s.tillAccept r x.dst x.task
          if !w.2 then .next w.1
          else
            let s := w.1.received x.dst x.steal
            let s : State := { s with transfers := s.transfers.map fun y => if y.id == x.id then { y with carry := .taken } else y }
            .next ((s.modWlOp x.src x.op fun o => { o with left := o.left - 1 }).wlReceipt x.src x.op)

/-- TRANSFER_ACK (R378): the sender receives an acknowledgement, and raises PMIN. Operand i: the transfer. -/
def execEvTransferAck (s : State) : Out :=
  s.withEv fun e =>
    match s.transfers.find? fun x => x.id == e.i.toNat with
    | none => .next s
    | some x =>
      if x.carry ≠ .acked then .next s
      else
        let rest := s.transfers.filter fun y => y.id != x.id
        let least := leastPri ((rest.filter fun y => decide (y.src = x.src)).map fun y => y.task.pri)
        .next (({ s with transfers := rest } : State).modTill x.src fun t => { t with pmin := least })

/-- One record read from the head of the ring (R375): placed in the window, or appended to the tail again. It answers the
task's priority and whether an eligible task was placed, or none when a ring access fails or has to wait. -/
def State.refillOne (s : State) (r : Region) (pos : Coord) : State × Option (Nat × Bool) :=
  let t := s.till pos
  let a := s.ringAddr pos t.rHead
  match s.reach r.part a false with
  | .inl (cause, _, lvl) => (s.ringFault r pos cause a lvl, none)
  | .inr (spa, dev) =>
    let s := s.lineReady (lineOf spa)
    let x := taskOf (Memory.reads s.mem spa 16)
    let read (s : State) : State :=
      (s.readEvent (s.partFor r.id) (lineOf spa) dev).modTill pos fun t => { t with rHead := t.rHead + 1 }
    let ends (s : State) : State := s.modTill pos fun t => if t.ringCount = 0 then { t with spmin := noPri } else t
    if !t.beyond x && decide (t.tasks.length < t.hiwm) then
      (ends ((read s).modTill pos fun t => { t.insert x with refills := (t.refills + 1) % 2 ^ 32 }), some (x.pri, t.eligible x.pri))
    else
      -- the place that it leaves is free for the append
      let s' := read s
      let w := s'.ringWrite r pos x
      if w.2 then (w.1, some (x.pri, false)) else (w.1.modTill pos fun t => { t with rHead := t.rHead - 1 }, none)

/-- Records read one after another, up to a number (R375): for the second reason until an eligible task is placed, with the
least priority read. -/
def State.refillRun (s : State) (r : Region) (pos : Coord) : Nat → State
  | 0 => s
  | fuel + 1 =>
    let t := s.till pos
    match t.refill with
    | some (0, least) => s.modTill pos fun t => { t with refill := none, spmin := if t.ringCount = 0 then noPri else least }
    | some (left + 1, least) =>
      match s.refillOne r pos with
        | (s, some (_, true)) => s.modTill pos fun t => { t with refill := none }
        | (s, some (p, false)) => State.refillRun (s.modTill pos fun t => { t with refill := some (left, min least p) }) r pos fuel
        | (s, none) => s
    | none =>
      if t.ringCount = 0 then s
      else match s.refillOne r pos with
        | (s, some _) => State.refillRun s r pos fuel
        | (s, none) => s

/-- RING_REFILL (R375): up to 32 records are read. The event's node: the Till. A refill of the second reason goes on at the
next one; it is taken where both reasons hold, for it does what the other asks for too (log 78). -/
def execEvRingRefill (s : State) : Out :=
  s.withEv fun e =>
    match s.regionAt e.pos with
    | none => .next s
    | some r =>
      let t := s.till e.pos
      let n := t.ringCount
      if t.ringStop || s.stalled r.part || r.frozen || (s.node e.pos).cut || !t.openNow then .next s
      else if t.refill.isSome then .next (s.refillRun r e.pos 33)
      else if 0 < n ∧ t.eligible t.spmin ∧ ¬ (t.tasks.any fun x => t.eligible x.2.pri) then
        .next ((s.modTill e.pos fun t => { t with refill := some (n, noPri) }).refillRun r e.pos 33)
      else if t.tasks.length < t.lowm ∧ 0 < n then .next (s.refillRun r e.pos (min 32 n))
      else .next s

/-! ## Stealing (R388) -/

/-- The Till that a wave shows with the lowest eligible bucket, ties to the lower number, and that bucket. -/
def stealFrom (t : Till) (r : Region) (me : Coord) (seen : List (Coord × Nat)) : Option (Coord × Nat) :=
  let able := seen.filter fun x => decide (x.1 ≠ me) && x.2 != noPri && t.eligible x.2
  let le (a b : Coord × Nat) : Bool :=
    decide (t.bkt a.2 < t.bkt b.2 ∨ (t.bkt a.2 = t.bkt b.2 ∧ r.tillNo a.1 ≤ r.tillNo b.1))
  (sortBy le able).head?.map fun x => (x.1, t.bkt x.2)

/-- A pop source of the Till may take a frame for a batch of a bucket (R382). -/
def State.mayTake (s : State) (pos : Coord) (r : Region) (bucket : Nat) : Bool :=
  let t := s.till pos
  (List.range 8).any fun k =>
    let x := s.ctx pos k
    let nlow := (popFields (bits (x.sequence.headD 0).toNat 0 16)).2.1
    let free := ((t.source k).free r).length
    x.isPop && x.ownedBy r.id && decide (nlow < free ∨ (0 < free ∧ bucket ≤ t.bkt t.leff))

/-- STEAL_REQUEST (R388): a Till without an eligible task asks another one. The event's node: the thief. -/
def execEvStealRequest (s : State) : Out :=
  s.withEv fun e =>
    match s.regionAt e.pos with
    | none => .next s
    | some r =>
      let t := s.till e.pos
      if kindOf e.pos ≠ .till ∨ !t.openNow ∨ t.asking.isSome ∨ s.stalled r.part ∨ r.stopped ∨ (s.node e.pos).cut ∨
          t.tasks.any (fun x => t.eligible x.2.pri) then .next s
      else
        let v := match stealFrom t r e.pos t.seenDie with
          | some c => some c
          | none => stealFrom t r e.pos t.seenPkg
        match v with
        | none => .next s
        | some (c, b) => if s.mayTake e.pos r b then .next (s.modTill e.pos fun t => { t with asking := some c }) else .next s

/-- One task handed over (R388): the most recently arrived of the bucket. -/
def State.handOne (s : State) (r : Region) (victim thief : Coord) (b : Nat) : Option State :=
  let t := s.till victim
  let mine := sortBy (fun a c => decide (a.1 ≤ c.1)) (t.tasks.filter fun x => t.bkt x.2.pri == b)
  match mine.getLast? with
  | none => none
  | some x =>
    if s.transferCredit victim thief then
      let s := s.modTill victim fun t =>
        { t with tasks := t.tasks.filter fun y => y.1 != x.1, sent := (t.sent + 1) % 2 ^ 48, given := (t.given + 1) % 2 ^ 32 }
      some (s.transfer victim thief r.id x.2 true 0)
    else none

/-- Tasks handed over while there is credit; what is left to hand over. -/
def State.handOver (s : State) (r : Region) (victim thief : Coord) (b : Nat) : Nat → State × Nat
  | 0 => (s, 0)
  | k + 1 =>
    match s.handOne r victim thief b with
    | some s => State.handOver s r victim thief b k
    | none => (s, k + 1)

/-- STEAL_HANDOVER (R388): the victim hands over tasks of its lowest eligible bucket as transfer credit allows, or answers
empty. The event's node: the thief. -/
def execEvStealHandover (s : State) : Out :=
  s.withEv fun e =>
    let thief := e.pos
    match s.regionAt thief, (s.till thief).asking with
    | some r, some victim =>
      let t := s.till victim
      if r.stopped ∨ (s.node victim).cut then .next s
      else
        let job := match t.giving.find? fun g => decide (g.1 = thief) with
          | some g => some (g.2.1, g.2.2)
          | none =>
            match t.tasks.head? with
            | some x =>
              if t.eligible x.2.pri then
                let b := t.bkt x.2.pri
                some (b, min 32 (ceilDiv (t.tasks.filter fun y => t.bkt y.2.pri == b).length 2))
              else none
            | none => none
        let others := t.giving.filter fun g => !decide (g.1 = thief)
        match job with
        | none => .next (s.modTill thief fun t => { t with asking := none })
        | some (b, k) =>
          let w := s.handOver r victim thief b k
          let empty := !((w.1.till victim).tasks.any fun y => t.bkt y.2.pri == b)
          if w.2 = 0 ∨ empty then
            .next ((w.1.modTill victim fun t => { t with giving := others }).modTill thief fun t => { t with asking := none })
          else .next (w.1.modTill victim fun t => { t with giving := others ++ [(thief, b, w.2)] })
    | _, _ => .next s

end Sys2Proof.Machine
end

