-- ==== Sys2Proof/Machine/Object.lean ====
section
/-! DEFINITION. The Bonko code object: its header, tables and node records (R91 to R98), read from memory and checked as
step 1 and step 2 of R101 check them. -/

namespace Sys2Proof.Machine

/-- Why a launch, or the load of a block, is refused: the fields of its record. -/
structure Refuse where
  cause : Nat := Cause.illegalCfg
  detail : Nat := 0
  akind : Nat := 0
  addr : Nat := 0
  auxv : Nat := 0
deriving DecidableEq, Repr

/-! ## Reading -/

/-- Eight-byte words of a list of bytes (R5). -/
def wordsOfBytes : Nat → List Byte → List Word
  | 0, _ => []
  | k + 1, bs => BitVec.ofNat 64 (ofBytes (bs.take 8)) :: wordsOfBytes k (bs.drop 8)

/-- Words of the configuration segment, read on demand (R92, R119, R120): `off` from the header. -/
def State.readObj (s : State) (r : Region) (off k : Nat) : Sum Refuse (State × List Word) :=
  match s.gRead (some r.part) r.part (r.obj + off) (8 * k) with
  | .inl e => .inl { cause := Cause.cfgFetch, akind := 1, addr := e.addr }
  | .inr (s, bs, _) => .inr (s, wordsOfBytes k bs)

/-- A table of `k` words lies in the configuration segment, at a multiple of 8 (R91, R92). -/
def Region.inSeg (r : Region) (off k : Nat) : Bool := decide (off % 8 = 0 ∧ off + 8 * k ≤ r.seglim)

/-- A table of the segment; refused where it does not lie in it. -/
def State.readTable (s : State) (r : Region) (off k : Nat) : Sum Refuse (State × List Word) :=
  if r.inSeg off k then s.readObj r off k else .inl {}

/-- Words in pairs. -/
def pairs : List Word → List (Word × Word)
  | a :: b :: rest => (a, b) :: pairs rest
  | _ => []

/-! ## Header and tables -/

def Region.nslot (r : Region) : Nat := bits (r.hw 2) 32 8
def Region.nfp (r : Region) : Nat := bits (r.hw 2) 16 16
def Region.nccw (r : Region) : Nat := bits (r.hw 2) 0 16
def Region.blkOff (r : Region) : Nat := bits (r.hw 3) 32 32
def Region.slotOff (r : Region) : Nat := bits (r.hw 3) 0 32
def Region.fpOff (r : Region) : Nat := bits (r.hw 4) 32 32
def Region.ctlOff (r : Region) : Nat := bits (r.hw 4) 0 32
def Region.relOff (r : Region) : Nat := bits (r.hw 5) 32 32
def Region.nrel (r : Region) : Nat := bits (r.hw 5) 0 32
def Region.dataOff (r : Region) : Nat := bits (r.hw 6) 32 32
def Region.ndata (r : Region) : Nat := bits (r.hw 6) 16 16
def Region.strOff (r : Region) : Nat := bits (r.hw 7) 0 32

/-- The header's fields lie within R91's limits, and its offsets are multiples of 8. -/
def Region.headerOk (r : Region) : Bool :=
  let grid (v m : Nat) : Bool := decide (4 ≤ v ∧ v ≤ 64 ∧ v % 4 = 0 ∧ 4 ≤ m ∧ m ≤ v ∧ m % 4 = 0)
  decide (bits (r.hw 0) 32 32 = 0x424B4F59 ∧ bits (r.hw 0) 24 8 = 1 ∧ bits (r.hw 0) 21 3 = 1) &&
    grid r.vw r.minW && grid r.vh r.minH &&
    decide (bits (r.hw 1) 18 4 ≤ 12 ∧ r.parties ≤ 64 ∧ r.scratch ≤ 81920 ∧ 1 ≤ r.nblk ∧ r.nblk ≤ 64 ∧ 1 ≤ r.nccw) &&
    [r.blkOff, r.slotOff, r.fpOff, r.ctlOff, r.relOff, r.dataOff, r.strOff].all (· % 8 == 0) &&
    decide (64 ≤ r.seglim ∧ r.strOff ≤ r.seglim)

/-- NODEOFF, NNODE, BYTES and NEDGE of a block-table entry (R93). -/
def Region.nodeOff (r : Region) (b : Nat) : Nat := bits (r.blkTab.getD b (0, 0)).1.toNat 32 32
def Region.nnode (r : Region) (b : Nat) : Nat := bits (r.blkTab.getD b (0, 0)).1.toNat 16 16
def Region.blkBytes (r : Region) (b : Nat) : Nat := bits (r.blkTab.getD b (0, 0)).2.toNat 32 32
def Region.nedge (r : Region) (b : Nat) : Nat := bits (r.blkTab.getD b (0, 0)).2.toNat 16 16

/-- A data segment's fields (R98). -/
structure Seg where
  space : Nat
  blk : Nat
  node : Nat
  doff : Nat
  len : Nat
  dest : Nat
deriving DecidableEq, Repr

/-- Data segment `i`. -/
def Region.seg (r : Region) (i : Nat) : Seg :=
  let (a, b) := r.dataTab.getD i (0, 0)
  { space := bits a.toNat 62 2, blk := bits a.toNat 56 6, node := bits a.toNat 40 16, doff := bits a.toNat 0 32,
    len := bits b.toNat 32 32, dest := bits b.toNat 0 32 }

/-- Every data segment. -/
def Region.segs (r : Region) : List Seg := (List.range r.ndata).map r.seg

/-- addr(i) of a G or H segment (R98). -/
def Region.segAddr (r : Region) (g : Seg) : Nat := if g.space = 1 then r.obj + g.doff else r.hwin + g.dest

/-! ## Relocations (R97) -/

/-- A relocation of the table: offset of the word, RKIND and value, or none where a rule of R97 is broken. -/
def Region.relocOf (r : Region) (e : Word × Word) : Option (Nat × Nat × Nat) :=
  let woff := bits e.1.toNat 32 32
  let kind := bits e.1.toNat 24 8
  let g := r.seg (bits e.1.toNat 16 8)
  let v : Int := r.segAddr g + sx e.2.toNat 64
  if r.inSeg woff 1 ∧ (kind = 1 ∨ kind = 2) ∧ bits e.1.toNat 16 8 < r.ndata ∧ g.space ≠ 0 ∧
      (kind = 2 ∨ (0 ≤ v ∧ v < 2 ^ 48)) then some (woff, kind, wrap v 64) else none

/-- A word of the segment as relocations patch it in the Sequencer's copy. -/
def Region.patched (r : Region) (off : Nat) (w : Word) : Word :=
  r.relocs.foldl (fun w e =>
    if e.1 = off then (if e.2.1 = 1 then BitVec.ofNat 64 (setBits w.toNat 0 48 e.2.2) else BitVec.ofNat 64 e.2.2) else w) w

/-- Consecutive words of the segment as relocations patch them. -/
def Region.patchWords (r : Region) (off : Nat) (ws : List Word) : List Word :=
  if r.relocs.isEmpty then ws else ws.zipIdx.map fun x => r.patched (off + 8 * x.2) x.1

/-- The header as relocations patch it; VW and VH stay as the fold table took them at step 4 (R101, R102). -/
def Region.patchedHdr (r : Region) : List Word :=
  let ws := r.patchWords 0 r.hdr
  setNth ws 1 (BitVec.ofNat 64 (setBits (ws.getD 1 0).toNat 48 16 (bits (r.hw 1) 48 16)))

/-- The tables as relocations patch them in the Sequencer's copy: header, block table, slot table, footprint table, data-segment
table and control stream. The node records and S segments are patched as they are read (R102). -/
def Region.relocated (r : Region) : Region :=
  let tab (off : Nat) (l : List (Word × Word)) : List (Word × Word) :=
    l.zipIdx.map fun x => (r.patched (off + 16 * x.2) x.1.1, r.patched (off + 16 * x.2 + 8) x.1.2)
  { r with hdr := r.patchedHdr, blkTab := tab r.blkOff r.blkTab, slotTab := tab r.slotOff r.slotTab,
           fpTab := tab r.fpOff r.fpTab, dataTab := tab r.dataOff r.dataTab, ccws := r.patchWords r.ctlOff r.ccws }

/-- A data segment's bytes as relocations patch the words of theirs that lie in the configuration segment. -/
def Region.patchBytes (r : Region) (off : Nat) (bs : List Byte) : List Byte :=
  r.relocs.foldl (fun bs e =>
    (List.range (if e.2.1 = 1 then 6 else 8)).foldl (fun bs i =>
      if off ≤ e.1 + i then setNth bs (e.1 + i - off) (BitVec.ofNat 8 (e.2.2 / 2 ^ (8 * i))) else bs) bs) bs

/-! ## Node records (R94) -/

/-- A node record: its virtual place, its kind code, its words, and its engine records by EKIND and ESLOT. -/
structure NodeRec where
  vx : Nat
  vy : Nat
  nk : Nat
  cw : Word
  niws : List Word
  consts : List (Nat × Word)
  rws : List (Nat × Word)
  engs : List (Nat × Nat × List Word)
deriving DecidableEq, Repr

/-- Words of an engine record behind its tag; 0 for a reserved EKIND. -/
def engWords (ekind : Nat) : Nat := match ekind with | 1 => 4 | 2 => 8 | 3 => 2 | _ => 0

/-- Engine records. -/
def parseEngs : Nat → List Word → Option (List (Nat × Nat × List Word))
  | 0, ws => if ws.isEmpty then some [] else none
  | _ + 1, [] => none
  | k + 1, t :: rest =>
    let e := bits t.toNat 56 8
    let m := engWords e
    if m = 0 ∨ rest.length < m then none
    else (parseEngs k (rest.drop m)).map fun l => (e, bits t.toNat 48 8, rest.take m) :: l

/-- A node record from its LEN words. -/
def parseRec (ws : List Word) : Option NodeRec :=
  match ws with
  | h :: cw :: rest =>
    let f (lo k : Nat) : Nat := bits h.toNat lo k
    let ks := maskLanes (f 32 8) 8
    let rs := maskLanes (f 24 8) 8
    let n := f 40 5
    let rest1 := rest.drop n
    let rest2 := rest1.drop ks.length
    if rest.length < n + ks.length + rs.length ∨ 16 < n ∨ (n ≠ 0 ∧ n ≠ bits cw.toNat 50 4 + 1) then none
    else (parseEngs (f 16 8) (rest2.drop rs.length)).map fun es =>
      { vx := f 58 6, vy := f 52 6, nk := f 49 3, cw := cw, niws := rest.take n, consts := ks.zip rest1, rws := rs.zip rest2,
        engs := es }
  | _ => none

/-- The node records of a block: as many as NNODE says, in all its BYTES (R93). -/
def parseRecs : Nat → List Word → Option (List NodeRec)
  | 0, ws => if ws.isEmpty then some [] else none
  | _ + 1, [] => none
  | k + 1, h :: rest =>
    let len := bits h.toNat 0 16
    if len < 2 ∨ rest.length + 1 < len then none
    else match parseRec (h :: rest.take (len - 1)), parseRecs k (rest.drop (len - 1)) with
      | some n, some l => some (n :: l)
      | _, _ => none

/-- The node kind of a virtual node (R15, R69). -/
def virtualKind (nk vx vy : Nat) : NodeKind :=
  match nk with
  | 0 => if (vx + vy) % 2 = 0 then .ce else .me
  | 1 => .nu | 2 => .nu | 3 => .mn | 4 => .cp | 5 => .till | 6 => .link | _ => .reserved

/-- The node kind of a record. -/
def NodeRec.kind (n : NodeRec) : NodeKind := virtualKind n.nk n.vx n.vy

/-- The context registers that a record gives, as a context with nothing else. -/
def NodeRec.asCtx (n : NodeRec) : Ctx := { cw := n.cw, niws := n.niws }

/-- The key of a virtual node: a cluster node is named by its virtual cluster's corner, a link node by its port. -/
def vnode (nk vx vy : Nat) : Nat × Nat × Nat :=
  if nk = 0 then (0, vx, vy) else if nk = 6 then (6, vx, 0) else (nk, vx / 4 * 4, vy / 4 * 4)

/-- The virtual places of an object-form routing word's targets, with their multicast bits (R70). -/
def rwPlaces (w : Word) : List (Nat × Nat × Nat) :=
  if bit w.toNat 11 then (maskLanes (bits w.toNat 12 16) 16).map fun i =>
    (i, bits w.toNat 58 6 + 4 * (i % 4), bits w.toNat 52 6 + 4 * (i / 4))
  else []

/-- The edge ends of an object-form routing word of block `b`. -/
def rwEnds (b : Nat) (w : Word) : List EdgeEnd :=
  let nk := bits w.toNat 49 3
  (rwPlaces w).map fun p =>
    let v := vnode nk p.2.1 p.2.2
    { src := b, tblk := bits w.toNat 43 6, nk := nk, vx := v.2.1, vy := v.2.2, port := bits w.toNat 41 2 }

/-- The edge ends of a block's routing words. -/
def endsOf (b : Nat) (l : List NodeRec) : List EdgeEnd := l.flatMap fun n => n.rws.flatMap fun w => rwEnds b w.2

/-- An edge ends at a port of a record of block `b`. -/
def NodeRec.hasEdge (n : NodeRec) (b : Nat) (ends : List EdgeEnd) (port : Nat) : Bool :=
  let v := vnode n.nk n.vx n.vy
  ends.any fun e => decide (e.tblk = b ∧ e.nk = n.nk ∧ e.vx = v.2.1 ∧ e.vy = v.2.2 ∧ e.port = port)

/-! ## The checks of a record -/

/-- The Context Word (R67, R381). -/
def NodeRec.cwOk (n : NodeRec) (b : Nat) (ends : List EdgeEnd) : Bool :=
  let x := n.asCtx
  let w := n.cw.toNat
  let counter := x.mode == 3
  let reqs := bits w 60 4
  decide (x.seqBase + bits w 50 4 ≤ 15) && decide (x.drm ≤ 5) && (counter == (reqs == 0)) &&
    (counter || (x.csel == 0 && x.crun == 1)) &&
    [0, 1, 2, 3].all (fun p =>
      if n.kind = .till ∧ p = 3 then x.dep 3 == 0 && !x.req 3 else (x.dep p != 0) == n.hasEdge b ends p) &&
    (n.kind != .cp || bits w 36 4 == 0) &&
    (n.kind != .link || (x.mode == 2 && decide (reqs = 1 ∨ reqs = 2 ∨ reqs = 4 ∨ reqs = 8)))

/-- The ports that an instruction's selectors name. -/
def Niw.portsRead (n : Niw) : List Nat :=
  [n.a, n.b, n.c].filterMap fun s => match s with | .p k => some k.val | _ => none

/-- The temporaries that an instruction's selectors name. -/
def Niw.tempsRead (n : Niw) : List Nat :=
  [n.a, n.b, n.c].filterMap fun s => match s with | .t k => some k.val | _ => none

/-- Every temporary is written before it is read (R177). -/
def tempsOk : List Nat → List (Nat × Niw) → Bool
  | _, [] => true
  | seen, (_, n) :: rest =>
    (Niw.tempsRead n).all seen.contains && tempsOk (match n.d with | .t k => k.val :: seen | _ => seen) rest

/-- No two instructions write one output port, but for an EOS behind one other (R151, R179). TAPM names a port without
writing it. -/
def outsOk (l : List (Nat × Niw)) : Bool :=
  [0, 1, 2, 3].all fun p =>
    match (l.filter fun i => i.1 != 0xff && (outsOf i.1 i.2).contains p).map (·.1) with
    | [] => true
    | [_] => true
    | [o, e] => e == 0x89 && o != 0x89
    | _ => false

/-- The engine record of an engine slot: the last that binds it (log 26). -/
def engOf (engs : List (Nat × Nat × List Word)) (kind slot : Nat) : Option (List Word) :=
  (engs.reverse.find? fun e => e.1 == kind && e.2.1 == slot).map (·.2.2)

/-- The words of an engine slot of a record; empty without an engine record. -/
def NodeRec.eng (n : NodeRec) (kind slot : Nat) : List Word := (engOf n.engs kind slot).getD []

/-- A stream instruction and its descriptor (R215, R216, R230, R234, R235). -/
def streamOk (engs : List (Nat × Nat × List Word)) (opc : Nat) (n : Niw) : Bool :=
  let modes : List Nat := match opc with
    | 0x95 => [0, 2] | 0x96 => [1] | 0x9c => [0] | 0x9d => [1] | 0xa1 => [0, 1] | _ => [0, 1, 2]
  if [0x95, 0x96, 0x9c, 0x9d, 0xa0, 0xa1, 0xa2, 0xa4, 0xa8].contains opc then
    match engOf engs 1 (Niw.stream n) with
    | none => false
    | some ws =>
      modes.contains (sdOf ws).amode &&
        (!([0x95, 0x96, 0x9c, 0x9d].contains opc) || Ty.code n.ty == bits (ws.getD 0 0).toNat 58 4)
  else if opc = 0xa3 then [0, 1, 2, 3].all fun k => !bit n.imm.toNat k || (engOf engs 1 k).isSome
  else true

/-- An instruction of a Matrix Node names a slot that has a configuration, or that the sequence fills (R304). -/
def mnSlotOk (engs : List (Nat × Nat × List Word)) (l : List (Nat × Niw)) (opc : Nat) (n : Niw) : Bool :=
  let k := n.imm.toNat % 8
  !([0xc0, 0xc1, 0xc2, 0xc3, 0xc4, 0xc8, 0xcb, 0xcd].contains opc) ||
    engs.any (fun e => e.1 == 3 && e.2.1 == k) ||
    l.any fun i => i.1 == 0xc0 && i.2.a != .none && i.2.imm.toNat % 8 == k

/-- An instruction of a sequence within its context and object. -/
def NodeRec.insnOk (n : NodeRec) (r : Region) (l : List (Nat × Niw)) (i : Nat × Niw) : Bool :=
  let x := n.asCtx
  let (opc, w) := i
  let ports := Niw.portsRead w
  (outsOf opc w).all x.outm &&
    (x.mode != 3 || ports.isEmpty) &&
    (!(decide (0x80 ≤ opc ∧ opc ≤ 0x8f) || opc == 0xfe || n.kind == .link) || ports.all x.req) &&
    (opc != 0xda || (match w.c with | .p k => x.req k.val && x.req (k.val + 1) | _ => true)) &&
    (!([0x5b, 0xd1, 0xdc].contains opc) || w.rm != .dyn || x.drm != 5) &&
    (opc != 0x80 || decide (w.imm.toNat < r.nblk)) &&
    (opc != 0xef || bit w.imm.toNat 10 || x.outm (bits w.imm.toNat 8 2)) &&
    (n.kind != .me || streamOk n.engs opc w) &&
    (n.kind != .cp || (engOf n.engs 2 (w.imm.toNat % 8)).any fun c => bits (c.getD 0 0).toNat 56 8 == opc) &&
    (n.kind != .mn || mnSlotOk n.engs l opc w) &&
    (opc != 0xe3 || x.mode == 3)

/-- A Till's counter-mode context is a pop source (R381). -/
def NodeRec.popOk (n : NodeRec) (tags : Nat) (l : List (Nat × Niw)) : Bool :=
  let x := n.asCtx
  if n.kind = .till ∧ x.mode = 3 then
    match l with
    | [(0xe3, w)] =>
      let run := x.crun * 2 ^ (popFields w.imm.toNat).2.2
      x.csel == 0 && bits n.cw.toNat 36 4 != 0 && decide (run ≤ 32 ∧ run ≤ 2 ^ tags)
    | _ => false
  else true

/-- A job card within R76, R77, R271, R276 and R287. -/
def cardOk (nfp : Nat) (ws : List Word) : Bool :=
  let c := cardOf ws
  let sty := Ty.code c.sty
  let dty := Ty.code c.dty
  let tile (t : Nat) : Bool := [0, 9, 12, 13, 14, 15].contains t
  let space (x : Nat) : Bool := decide (x ≤ 1)
  let cpyTy : Bool := sty == dty || decide (8 ≤ sty ∧ 8 ≤ dty)
  let cpyOpt : Bool := decide (bits c.opt 0 3 ≠ 7 ∧ c.opt < 32 ∧ (sty = dty → c.opt = 0))
  let fp (x : Nat) : Bool := decide (x < nfp ∨ x = 0xffff)
  let unused : Bool :=
    (decide (2 ≤ c.dimm1) || (c.n2 == 1 && c.sstd2 == 0 && c.dstd2 == 0)) &&
    (decide (1 ≤ c.dimm1) || (c.n1 == 1 && c.sstd1 == 0 && c.dstd1 == 0))
  let array : Bool := decide (c.xarg < 2 ^ 48)
  let job : Bool := match c.opc with
    | 0xb0 => cpyTy && cpyOpt && space c.ssp && space c.dsp && c.dimm1 == 0 && c.xarg == 0
    | 0xb1 => cpyTy && cpyOpt && space c.ssp && space c.dsp && c.dimm1 == 1 && c.xarg == 0
    | 0xb2 => cpyTy && cpyOpt && space c.ssp && space c.dsp && c.dimm1 == 2 && c.xarg == 0
    | 0xb3 => cpyTy && cpyOpt && space c.ssp && c.dsp == 0 && decide (1 ≤ c.xarg ∧ c.xarg < 2 ^ 16)
    | 0xb4 => sty == dty && tile sty && space c.ssp && space c.dsp && c.opt == 0 && array
    | 0xb5 => sty == dty && tile sty && space c.ssp && space c.dsp && c.opt == 0 && array
    | 0xb6 => sty == dty && tile sty && space c.ssp && c.dsp == 2 && (c.opt == 0 || c.opt == 64) &&
        (if c.dense then array else c.xarg == 0) && c.scope == 0
    | 0xb7 => sty == dty && tile sty && space c.ssp && c.dsp == 2 && [0, 1, 64, 65].contains c.opt &&
        (c.dense || c.xarg % 2 ^ 48 == 0) && bits c.xarg 55 9 == 0 && c.scope == 0
    | 0xb8 => sty == 0 && c.ssp == 0 && c.src == 0 && space c.dsp && c.opt == 0
    | 0xb9 => cpyTy && cpyOpt && space c.ssp && space c.dsp && c.dimm1 == 1
    | 0xba => decide (8 ≤ sty ∧ sty ≤ 10 ∧ 12 ≤ dty) && space c.ssp && space c.dsp && bits c.opt 0 3 != 7 && !bit c.opt 3 &&
        decide (c.opt < 64) && array
    | 0xbb => sty == 0 && dty == 0 && space c.ssp && space c.dsp && c.opt == 0 && c.xarg == 0
    | _ => false
  job && decide (c.dimm1 ≤ 2) && (c.rrw == 0 || decide (4 ≤ c.rrw)) && c.n0 != 0 && c.n0 % c.granule == 0 && unused &&
    (c.ssp != 2 || c.src == 0) && (c.dsp != 2 || c.dst == 0) && fp c.fpr && fp c.fpw

/-- An engine record fits its node and passes its engine's checks (R94, R216, R271, R304). -/
def NodeRec.engOk (n : NodeRec) (r : Region) (e : Nat × Nat × List Word) : Bool :=
  match e.1 with
  | 1 => n.kind == .me && decide (e.2.1 < 4) && sdOk e.2.2
  | 2 => n.kind == .cp && decide (e.2.1 < 8) && cardOk r.nfp e.2.2
  | _ => n.kind == .mn && decide (e.2.1 < 8) && (mnCfgBad r.aor (e.2.2.getD 0 0) (e.2.2.getD 1 0)).isNone

/-- A routing word of the object (R16, R69, R70, R83, R406). DESIGN CHOICE (log 100): a word whose TBLK is no block of the object, even
with V = 0, and one with a target outside the virtual grid are refused at LAUNCH with ILLEGAL_CFG; R69 gives the fields' meaning and
names no refusal. -/
def Region.rwOk (r : Region) (w : Word) : Bool :=
  let nk := bits w.toNat 49 3
  let mcv := bits w.toNat 12 16
  nk != 7 && decide (bits w.toNat 43 6 < r.nblk) &&
    (!bit w.toNat 11 ||
      (mcv != 0 &&
        if nk = 6 then mcv == 1 && decide (bits w.toNat 58 6 < 36)
        else (rwPlaces w).all fun p => decide (p.2.1 < r.vw ∧ p.2.2 < r.vh)))

/-- Every check that a node record of block `b` meets. -/
def NodeRec.ok (n : NodeRec) (r : Region) (b : Nat) (ends : List EdgeEnd) : Bool :=
  let l := n.niws.filterMap insnOf
  (if n.nk = 6 then decide (n.vx < 36 ∧ n.vy = 0) else decide (n.nk ≠ 7 ∧ n.vx < r.vw ∧ n.vy < r.vh)) &&
    n.cwOk b ends && n.niws.all (wordOkFor n.kind) && l.all (n.insnOk r l) && tempsOk [] l && outsOk l &&
    decide ((l.filter fun i => i.1 == 0x86 || i.1 == 0x88).length ≤ 1) && n.popOk (r.tags b) l &&
    n.engs.all (n.engOk r) && n.rws.all fun w => r.rwOk w.2

/-! ## The checks of the object -/

/-- The tables that do not depend on node records (R93, R96 to R98, R23). DESIGN CHOICE (log 70): NEDGE is held to its range only; the
manual does not say that a count which differs from the edges of the block's routing words is refused. -/
def Region.tablesOk (r : Region) : Bool :=
  let aligned := r.segs.all fun g => g.space == 0 || (g.doff % 4096 == 0 && r.obj % 4096 == 0 &&
    (g.space != 2 || (g.dest % 4096 == 0 && r.hwin % 4096 == 0)) && (g.space != 1 || g.dest == 0))
  let next (i : Nat) : Nat := bits (r.fpTab.getD i (0, 0)).2.toNat 48 16
  let rec' (i : Nat) : Bool :=
    let c := (List.range r.nfp).foldl (fun c _ => if c = 0xffff then c else next c) i
    c == 0xffff || next c == 0xffff
  decide (ceilDiv r.vw r.minW * ceilDiv r.vh r.minH ≤ 8) &&
    (List.range r.nblk).all (fun b => decide (1 ≤ r.nnode b ∧ r.tags b ≤ 12 ∧ r.nedge b ≤ 8192)) &&
    r.segs.all (fun g => g.space != 3) && aligned &&
    (List.range r.nfp).all (fun i =>
      let (a, b) := r.fpTab.getD i (0, 0)
      decide (bits a.toNat 62 2 ≤ 1 ∧ 1 ≤ bits b.toNat 0 48 ∧ (next i < r.nfp ∨ next i = 0xffff))) &&
    (List.range r.nfp).all rec'

/-- The records that a block's words give; none where they do not fill NNODE records and BYTES exactly. -/
def Region.recsOf (r : Region) (b : Nat) (ws : List Word) : Option (List NodeRec) := parseRecs (r.nnode b) ws

/-- A slot-table entry (R95). -/
def Region.slotOk (r : Region) (recs : List (List NodeRec)) (e : Word × Word) : Bool :=
  let a := e.1.toNat
  let ty := bits a 36 4
  let b := bits a 58 6
  let k := bits a 40 3
  decide (b < r.nblk) && !([3, 7, 11].contains ty) && decide (bits e.2.toNat 0 32 < 2 ^ (Ty.ofCode ty).width) &&
    decide (r.strOff + bits e.2.toNat 32 32 < r.seglim) &&
    (recs.getD b []).any fun n => decide (n.vx = bits a 52 6 ∧ n.vy = bits a 46 6 ∧ n.nk = bits a 43 3) && n.asCtx.slotm k

/-- An S data segment (R98). -/
def Region.sSegOk (r : Region) (recs : List (List NodeRec)) (g : Seg) : Bool :=
  g.space != 0 || (decide (g.blk < r.nblk ∧ g.dest + g.len ≤ r.scratch) &&
    match (recs.getD g.blk [])[g.node]? with | some n => n.kind == .me | none => false)

/-- A command of the control stream within R73 and R105; `i` is its index. -/
def State.ccwOk (s : State) (r : Region) (recs : List (List NodeRec)) (i : Nat) (w : Word) : Bool :=
  match decode { src := .control, words := [w] } with
  | .error _ => false
  | .ok f =>
    f.wf && match f.instr with
    | .seqCfg b => decide (b.toNat < r.nblk)
    | .seqRun b k c => decide (b.toNat < r.nblk ∧ c.toNat ≤ 2 ^ r.tags b.toNat) &&
        (recs.getD b.toNat []).any fun n => n.asCtx.mode == 3 && n.kind != .till && n.asCtx.csel == k.toNat
    | .seqSched b m => decide (b.toNat + m.toNat + 1 ≤ r.nblk)
    | .seqLoop _ _ t => decide (t.toNat < i)
    | .waitsBlk v => decide (v.toNat < r.nblk)
    | .seqNotify k _ => (s.nfy k.toNat).owner == r.part
    | .seqSlot b k _ => decide (b.toNat < r.nblk) && (recs.getD b.toNat []).any fun n => n.asCtx.slotm k.toNat
    | _ => true

/-- Every check of step 2 on words as read or as relocated. -/
def State.objectOk (s : State) (r : Region) (blocks : List (List Word)) (ccws : List Word) (slots : List (Word × Word)) : Bool :=
  let recs? := blocks.zipIdx.map fun x => r.recsOf x.2 x.1
  let recs := recs?.map fun x => x.getD []
  let ends := recs.zipIdx.flatMap fun x => endsOf x.2 x.1
  recs?.all (·.isSome) && recs.zipIdx.all (fun x => x.1.all fun n => n.ok r x.2 ends) &&
    slots.all (r.slotOk recs) && r.segs.all (r.sSegOk recs) && ccws.zipIdx.all (fun x => s.ccwOk r recs x.2 x.1) &&
    (match ccws.getLast? with | some w => bits w.toNat 56 8 == 0xf7 | none => false)

/-! ## Steps 1 and 2 of R101 -/

/-- Reads in sequence: a table read, then what follows. -/
def thenRead {α : Type} (x : Sum Refuse (State × α)) (k : State → α → Sum Refuse (State × Region)) : Sum Refuse (State × Region) :=
  match x with
  | .inl e => .inl e
  | .inr (s, a) => k s a

/-- The node records of every block, in order (R92, R93). -/
def State.readBlocks (s : State) (r : Region) : Nat → Sum Refuse (State × List (List Word))
  | 0 => .inr (s, [])
  | k + 1 =>
    match State.readBlocks s r k with
    | .inl e => .inl e
    | .inr (s, l) =>
      if r.blkBytes k % 8 ≠ 0 then .inl {}
      else match s.readTable r (r.nodeOff k) (r.blkBytes k / 8) with
        | .inl e => .inl e
        | .inr (s, ws) => .inr (s, l ++ [ws])

/-- The end of the highest table or record that a launch reads, from the header (R119). -/
def Region.readEnd (r : Region) : Nat :=
  ([64, r.blkOff + 16 * r.nblk, r.slotOff + 16 * r.nslot, r.fpOff + 16 * r.nfp, r.dataOff + 16 * r.ndata,
    r.relOff + 16 * r.nrel, r.ctlOff + 8 * r.nccw] ++ (List.range r.nblk).map fun b => r.nodeOff b + r.blkBytes b).foldl max 0

/-- Steps 1 and 2 of R101 (R92 to R98): the object read and checked, its tables in the region. The checks hold for the words
as read and as relocations patch them, since CFG makes them again on the relocated words (R102). -/
def State.readObject (s : State) (r : Region) : Sum Refuse (State × Region) :=
  if r.obj % 64 ≠ 0 then .inl {}
  else thenRead (s.readObj r 0 8) fun s hdr =>
    let r := { r with hdr := hdr }
    if !r.headerOk then .inl {}
    else thenRead (s.readTable r r.blkOff (2 * r.nblk)) fun s blk =>
    thenRead (s.readTable r r.slotOff (2 * r.nslot)) fun s slot =>
    thenRead (s.readTable r r.fpOff (2 * r.nfp)) fun s fp =>
    thenRead (s.readTable r r.dataOff (2 * r.ndata)) fun s dat =>
    thenRead (s.readTable r r.relOff (2 * r.nrel)) fun s rel =>
    thenRead (s.readTable r r.ctlOff r.nccw) fun s ccws =>
    let r := { r with blkTab := pairs blk, slotTab := pairs slot, fpTab := pairs fp, dataTab := pairs dat, ccws := ccws }
    thenRead (s.readBlocks r r.nblk) fun s blocks =>
    let rels := (pairs rel).map r.relocOf
    if !r.tablesOk || !rels.all (·.isSome) then .inl {}
    else
      let p := { r with relocs := rels.filterMap id }
      let q := p.relocated
      let pblocks := blocks.zipIdx.map fun x => p.patchWords (p.nodeOff x.2) x.1
      if !s.objectOk r blocks ccws r.slotTab || !q.headerOk || !q.tablesOk || !s.objectOk p pblocks q.ccws q.slotTab then .inl {}
      else
        let recs := (blocks.zipIdx.map fun x => (p.recsOf x.2 x.1).getD [])
        .inr (s, { p with recWords := blocks, ends := recs.zipIdx.flatMap fun x => endsOf x.2 x.1,
                          demanded := p.readEnd })

end Sys2Proof.Machine
end

