-- ==== Sys2Proof/Machine/Load.lean ====
section
/-! DEFINITION. Blocks made resident and freed (R21, R70, R102, R106, R118, R212, R303, R406), and the release of a region
(R116, R453). -/

namespace Sys2Proof.Machine

/-! ## Contexts -/

/-- A context that no block holds, and that no channel still keeps (R21, R406, R439). -/
def State.ctxFree (s : State) (c : Coord) (k : Nat) : Bool :=
  (s.ctx c k).owner.isNone && !(kindOf c == .link && (s.link (portOfLink c)).leaving.any fun x => x.1 == k)

/-- The lowest cbase with `n` contexts of common numbers free in every node of the region (R106). -/
def State.freeBase (s : State) (r : Region) : Option Nat :=
  (List.range (9 - r.n)).find? fun c => r.nodes.all fun p => (List.range r.n).all fun j => s.ctxFree p (c + j)

/-- Every node that may hold a context of the region: those of its clusters, and the link nodes. -/
def Region.allNodes (r : Region) : List Coord := r.nodes ++ (List.range 36).map linkNode

/-- Change every context that a block of the region holds. -/
def State.mapCtxs (s : State) (r : Region) (p : Owner → Bool) (f : Coord → Nat → Ctx → Ctx) : State :=
  r.allNodes.foldl (fun s c =>
    let n := s.node c
    let mine (x : Ctx) : Bool := match x.owner with | some o => o.region == r.id && p o | none => false
    if n.ctxs.any mine then
      s.setNode c { n with ctxs := n.ctxs.zipIdx.map fun x => if mine x.1 then f c x.2 x.1 else x.1 }
    else s) s

/-- The link contexts that a block's link records claim: port and context, in the records' order (R406). -/
def State.claimLinks (s : State) (l : List NodeRec) : Option (List (Nat × Nat)) :=
  l.foldl (fun acc n =>
    match acc with
    | none => none
    | some cs =>
      if n.nk ≠ 6 then some cs
      else match (List.range 8).find? fun k => s.ctxFree (linkNode n.vx) k && !cs.contains (n.vx, k) with
        | some k => some (cs ++ [(n.vx, k)])
        | none => none) (some [])

/-- The sum of a record's DEPn. -/
def NodeRec.chits (n : NodeRec) : Nat := [0, 1, 2, 3].foldl (fun t p => t + n.asCtx.dep p) 0

/-- The sum of a context's DEPn. -/
def Ctx.chits (x : Ctx) : Nat := [0, 1, 2, 3].foldl (fun t p => t + x.dep p) 0

/-- D(b, c) of a block with these records, for a cluster (R99). -/
def Region.chitsOf (r : Region) (l : List NodeRec) (g : Nat) : Nat :=
  (l.filter fun n => n.nk != 6 && clusterOf (r.physNode n.vx n.vy n.nk) == g).foldl (fun t n => t + n.chits) 0

/-- The first cluster whose Chits a block with these records would over-commit, with the sum (R106, R109). -/
def State.overcommit (s : State) (r : Region) (l : List NodeRec) : Option (Nat × Nat) :=
  (r.clusters.map fun g => (g, r.chitsOf l g + (s.cluster g).resv)).find? fun x => decide (480 < x.2)

/-! ## Routing words (R68, R70) -/

/-- The context that a virtual node of a resident block has, at its node. -/
def State.ctxOf (s : State) (r : Region) (b vx vy nk : Nat) : Option (Coord × Nat) :=
  if !(r.blk b).resident then none
  else if nk = 6 then
    ((List.range 8).find? fun k => match (s.ctx (linkNode vx) k).owner with
      | some o => o.region == r.id && o.blk == b && o.vx == vx
      | none => false).map fun k => (linkNode vx, k)
  else some (r.physNode vx vy nk, (r.blk b).cbase + r.fold vx vy)

/-- The resident form of an object-form word; 0 while its target's block is not resident. -/
def State.residentForm (s : State) (r : Region) (w : Word) : Word :=
  let f (lo k : Nat) : Nat := bits w.toNat lo k
  if !bit w.toNat 11 then 0
  else match s.ctxOf r (f 43 6) (f 58 6) (f 52 6) (f 49 3) with
    | none => 0
    | some (c, k) =>
      BitVec.ofNat 64 (pack [(14, 0), (1, 1), (16, f 12 16), (13, f 28 13), (3, k), (2, f 41 2), (5, c.y.toNat), (6, c.x.toNat),
        (4, c.die.toNat)])

/-- The words of block `b`, and the words into it, are resolved (R70, R106). A word into a block whose close is under way is closed
from the start (R118). -/
def State.resolve (s : State) (r : Region) (b : Nat) : State :=
  s.mapCtxs r (fun _ => true) fun _ _ x =>
    { x with rws := x.rws.map fun w =>
        if (match x.owner with | some o => o.blk == b | none => false) || (w.present && w.tblk == b) then
          { w with res := s.residentForm r w.obj, closed := w.present && (r.blk w.tblk).phase == .close } else w }

/-- The words into block `b` become unresolved (R118). -/
def State.unresolve (s : State) (r : Region) (b : Nat) : State :=
  s.mapCtxs r (fun _ => true) fun _ _ x =>
    { x with rws := x.rws.map fun w => if w.present && w.tblk == b then { w with res := 0, closed := false } else w }

/-! ## Loading (R106) -/

/-- What a load comes to. -/
inductive Load where
  | wait
  /-- The over-commit test fails: cluster and sum. -/
  | over (cluster sum : Nat)
  | refused (e : Refuse)
  | loaded (s : State)

/-- The constants of a context at its load: the record's, 0 in a context that has held nothing since reset (R55), and
otherwise a free value, since the manual does not say what the others hold (log 16). -/
def State.constsAt (s : State) (c : Coord) (k : Nat) (old : List Word) (given : List (Nat × Word)) : List Word :=
  (List.range 8).map fun i =>
    match Table.find given i with
    | some w => w
    | none => if old.isEmpty then 0 else BitVec.ofNat 64 (s.free (2 ^ 30 + 64 * (2 ^ 11 * (32 * c.die.toNat + c.y.toNat) +
        c.x.toNat) + 8 * k + i))

/-- Eight routing words of a record. -/
def NodeRec.words (n : NodeRec) : List RWord :=
  (List.range 8).map fun i => { obj := (Table.find n.rws i).getD 0, res := 0, closed := false, sent := List.replicate 16 0 }

/-- A context as a record loads it (R54, R94, R106, R252). -/
def State.ctxFrom (s : State) (r : Region) (b : Nat) (n : NodeRec) (c : Coord) (k fold : Nat) : Ctx :=
  let kind := if n.nk = 4 then 2 else 3
  { owner := some { region := r.id, blk := b, vx := n.vx, vy := n.vy, nk := n.nk, fold := fold },
    cw := n.cw, niws := if n.niws.isEmpty then [] else List.replicate n.asCtx.seqBase 0 ++ n.niws,
    consts := s.constsAt c k (s.ctx c k).consts n.consts, rws := n.words,
    streams := (List.range 4).map (n.eng 1), slots := (List.range 8).map (n.eng kind),
    srk := srkOf r.olid b n.vx n.vy n.nk fold }

/-- A context of the block in a node that no record names. -/
def State.ctxBare (s : State) (r : Region) (b : Nat) (c : Coord) (k fold : Nat) : Ctx :=
  { owner := some { region := r.id, blk := b, vx := 0, vy := 0, nk := nkOf c, fold := fold },
    consts := s.constsAt c k (s.ctx c k).consts [] }

/-- The streams of an ME's context are closed, for it has no descriptors (R215); the other bits of its registers stay. -/
def Me.shutStreams (m : Me) (k : Nat) : Me :=
  { m with sst := m.sst.map fun x => if x.1.1 = k then (x.1, BitVec.ofNat 64 (x.2.toNat % 2 ^ 63)) else x, sx := m.sx.filter fun x => x.1.1 != k, sbad := m.sbad.filter fun x => x.1 != k }

/-- The streams of an ME's context open at position 0 (R215). -/
def Me.openStreams (m : Me) (k : Nat) (streams : List EngineSlot) : Me :=
  let m := m.shutStreams k
  streams.zipIdx.foldl (fun m d =>
    { m with sst := m.sst.set (k, d.2) (if d.1.isEmpty then 0 else BitVec.ofNat 64 (2 ^ 63)),
             sad := m.sad.set (k, d.2) (BitVec.ofNat 64 (bits (d.1.getD 0 0).toNat 0 48)) }) m

/-- The windows of a set become undefined in every ME of the region (R212). -/
def State.forgetWindows (s : State) (r : Region) (w : Nat) : State :=
  r.clusters.foldl (fun s g => (clusterMes g).foldl (fun s c =>
    s.modMe c fun m => m.forget (w * r.n * r.scratch) ((w + 1) * r.n * r.scratch) s.freeCtr) s) s

/-- The current slot values are written into the contexts whose SLOTM names them (R106). -/
def State.writeSlots (s : State) (r : Region) (b : Nat) (l : List NodeRec) : State :=
  r.slotTab.zipIdx.foldl (fun s e =>
    let a := e.1.1.toNat
    if bits a 58 6 = b then
      match l.find? fun n => decide (n.vx = bits a 52 6 ∧ n.vy = bits a 46 6 ∧ n.nk = bits a 43 3) with
      | none => s
      | some n =>
        match s.ctxOf r b n.vx n.vy n.nk with
        | none => s
        | some (c, k) =>
          s.modCtx c k fun x =>
            if x.slotm (bits a 40 3) then
              { x with consts := setNth x.consts (bits a 40 3) (BitVec.ofNat 64 (r.slotVals.getD e.2 0 % 2 ^ 32)) } else x
    else s) s

/-- The block's S data segments with the ME record that each goes to. -/
def Region.sSegs (r : Region) (b : Nat) (l : List NodeRec) : List (Seg × NodeRec) :=
  (r.segs.filter fun g => g.space == 0 && g.blk == b).filterMap fun g => (l[g.node]?).map fun n => (g, n)

/-- Data segments are read, relocated (R97, R102). -/
def State.readSegs {α : Type} (s : State) (r : Region) : List (Seg × α) → Sum Refuse (State × List (Seg × α × List Byte))
  | [] => .inr (s, [])
  | (g, n) :: rest =>
    match s.gRead (some r.part) r.part (r.obj + g.doff) g.len with
    | .inl e => .inl { cause := Cause.cfgFetch, akind := 1, addr := e.addr }
    | .inr (s, bs, _) =>
      match State.readSegs s r rest with
      | .inl e => .inl e
      | .inr (s, l) => .inr (s, (g, n, r.patchBytes g.doff bs) :: l)

/-- The targets of a routing word share a fold, and lie at their offsets on one die (R70); a target on a Till's P3 lies in
the anchor (R112). -/
def Region.foldOk (r : Region) (w : Word) : Bool :=
  let f (lo k : Nat) : Nat := bits w.toNat lo k
  let nk := f 49 3
  if !bit w.toNat 11 || nk == 6 then true
  else
    let base := r.physNode (f 58 6) (f 52 6) nk
    let ps := rwPlaces w
    let fold := match ps with | p :: _ => r.fold p.2.1 p.2.2 | [] => 0
    ps.all fun p =>
      let c := r.physNode p.2.1 p.2.2 nk
      let g0 := clusterOf base
      let g := clusterOf c
      r.fold p.2.1 p.2.2 == fold && c.die == base.die &&
        decide (g % 48 = g0 % 48 + p.1 % 4 ∧ g / 48 = g0 / 48 + p.1 / 4) &&
        (nk != 5 || f 41 2 != 3 || g == r.anchor)

/-- The node records of a block, read again from where the relocated block table has them (R102). -/
def State.readBlock (s : State) (r : Region) (b : Nat) : Sum Refuse (State × List NodeRec) :=
  if r.blkBytes b % 8 ≠ 0 then .inl {}
  else match s.readTable r (r.nodeOff b) (r.blkBytes b / 8) with
  | .inl e => .inl e
  | .inr (s, ws) =>
    match r.recsOf b (r.patchWords (r.nodeOff b) ws) with
    | none => .inl {}
    | some l => .inr (s, l)

/-- A block's records pass the checks that step 2 of R101 makes on them (R102), and the one for ports that the target's node does not
have (R16, R112). -/
def Region.blockOk (r : Region) (b : Nat) (l : List NodeRec) : Bool :=
  let ends := (r.ends.filter fun e => e.src != b) ++ endsOf b l
  let all := List.replicate b [] ++ [l]
  (l.all fun n => n.ok r b ends && n.rws.all fun w => r.foldOk w.2) && (r.slotTab.all fun e => bits e.1.toNat 58 6 != b || r.slotOk all e) &&
    (r.segs.all fun g => g.blk != b || r.sSegOk all g)

/-- The lowest window set that no resident block holds (R212). -/
def Region.freeWset (r : Region) : Nat :=
  ((List.range 8).find? fun w => !r.blks.any fun b => b.2.resident && b.2.wset == w).getD 0

/-- The streams of the region's contexts that `p` names are closed (R215). -/
def State.shutStreams (s : State) (r : Region) (p : Coord → Nat → Bool) : State :=
  (r.nodes.filter fun c => kindOf c == .me).foldl (fun s c =>
    let ks := (List.range 8).filter (p c)
    if ks.isEmpty then s else s.modMe c fun m => ks.foldl Me.shutStreams m) s

/-- The records of block `b` enter contexts `cbase` and up, and the link contexts they claim; everything of R106's load from
its fourth line on. -/
def State.installBlock (s : State) (r : Region) (b cbase wset : Nat) (l : List NodeRec) (links : List (Nat × Nat))
    (segs : List (Seg × NodeRec × List Byte)) : State :=
  let s := s.forgetWindows r wset
  let bare (s : State) (c : Coord) : State :=
    let n := s.node c
    let n := (List.range r.n).foldl (fun n j => n.setCtx (cbase + j) (s.ctxBare r b c (cbase + j) j)) n
    s.setNode c { n with counts := n.counts.erase (r.id, b) }
  let old := s
  let s := r.nodes.foldl bare s
  let s := s.shutStreams r fun _ k => decide (cbase ≤ k ∧ k < cbase + r.n)
  let s := (l.filter fun n => n.nk != 6).foldl (fun s n =>
    let c := r.physNode n.vx n.vy n.nk
    let k := cbase + r.fold n.vx n.vy
    let x := old.ctxFrom r b n c k (r.fold n.vx n.vy)
    let s := s.modCtx c k fun _ => x
    let s := if n.kind = .me then s.modMe c fun m => m.openStreams k x.streams else s
    s.modCluster (clusterOf c) fun g => { g with resv := g.resv + n.chits }) s
  let s := ((l.filter fun n => n.nk == 6).zip links).foldl (fun s x =>
    let c := linkNode x.2.1
    (s.modCtx c x.2.2 fun _ => old.ctxFrom r b x.1 c x.2.2 0).modNode c fun n => { n with counts := n.counts.erase (r.id, b) }) s
  let s := r.clusters.foldl (fun s g =>
    s.modMatrix (clusterNode g 3) fun m => (List.range r.n).foldl (fun m j =>
      { m with latch := setNth m.latch (cbase + j) 0x7f7f7f7f, dit := setBits m.dit (cbase + j) 1 0 }) m) s
  let s := s.modRegion r.id fun r =>
    let r := r.modBlk b fun x => { resident := true, cbase := cbase, wset := wset, pass := x.pass, overReported := x.overReported }
    { r with ctxfree := setBits r.ctxfree cbase r.n 0, demanded := max r.demanded (r.nodeOff b + r.blkBytes b) }
  match s.region r.id with
  | none => s
  | some r =>
    let s := s.resolve r b
    let s := s.writeSlots r b l
    let s := segs.foldl (fun s g =>
      let c := r.physNode g.2.1.vx g.2.1.vy 0
      let base := (wset * r.n + r.fold g.2.1.vx g.2.1.vy) * r.scratch
      s.modMe c fun m => m.put (base + g.1.dest) g.2.2) s
    (l.filter fun n => n.kind == .till && n.asCtx.mode == 3).foldl (fun s n =>
      s.askFrames (r.physNode n.vx n.vy 5) (cbase + r.fold n.vx n.vy)) s

/-- The over-commit test of a block by the records that memory holds now; none of a block whose records cannot be read, which the load
finds out. DEDUCED (log 104): the launch keeps no D(b, c) (R102), so R109 tests what a load would load. -/
def State.overcommits (s : State) (r : Region) (b : Nat) : Option (Nat × Nat) :=
  match s.readBlock r b with
  | .inl _ => none
  | .inr (_, l) => s.overcommit r l

/-- R106 from its third line on. The Chits that the block needs are those of its records as they are read (R102). -/
def State.loadBlock (s : State) (r : Region) (b : Nat) : Load :=
  match s.freeBase r with
  | none => .wait
  | some cbase =>
    match s.readBlock r b with
    | .inl e => .refused e
    | .inr (s, l) =>
      match s.overcommit r l with
      | some (g, n) => .over g n
      | none =>
        if !r.blockOk b l then .refused {}
        else match s.readSegs r (r.sSegs b l) with
          | .inl e => .refused e
          | .inr (s, segs) =>
            match s.claimLinks l with
            | none => .wait
            | some links => .loaded (s.installBlock r b cbase r.freeWset l links segs)

/-! ## Freeing (R118) -/

/-- The tap slots bound to contexts that the test names are cleared (R479). -/
def State.untap (s : State) (p : Coord → Nat → Bool) : State :=
  { s with taps := s.taps.map fun t => if t.2.v && p t.2.pos t.2.ctx then (t.1, { t.2 with v := false }) else t }

/-- The open channels of a link context close, without a receipt, as soon as nothing of them is outstanding (R431, R439); the context is
not free until they have. -/
def State.closeChans (s : State) (r : Region) (p k : Nat) : State :=
  let js := ((List.range 8).map (8 * k + ·)).filter fun j => ((s.link p).chan j).opened
  if js.isEmpty then s
  else (js.foldl (fun s j => (s.modChan p j fun c => { c with shut := true }).closeShut p (if r.cut.isSome then none else some r.part) j) s).modLink p fun l =>
    { l with leaving := l.leaving ++ [(k, r.part)] }

/-- The contexts of block `b` return to the free pool in every node, the words into it become unresolved, its run frames and
its pop sources' frames return to the Mint, and SEQ_RES clears (R118, R382). -/
def State.freeBlock (s : State) (r : Region) (b : Nat) : State :=
  let blk := r.blk b
  let mine (x : Ctx) : Bool := match x.owner with | some o => o.region == r.id && o.blk == b | none => false
  let s := s.untap fun c k => mine (s.ctx c k)
  let s := r.clusters.foldl (fun s g =>
    let c := clusterNode g 5
    (List.range 8).foldl (fun s k => if mine (s.ctx c k) && (s.ctx c k).isPop then s.giveFrames c k else s) s) s
  let s := (List.range 36).foldl (fun s p =>
    (List.range 8).foldl (fun s k => if mine (s.ctx (linkNode p) k) then s.closeChans r p k else s) s) s
  let s := r.nodes.foldl (fun s c =>
    let d := ((s.node c).ctxs.filter mine).foldl (fun n x => n + x.chits) 0
    s.modCluster (clusterOf c) fun g => { g with resv := g.resv - d }) s
  let s := s.unresolve r b
  let s := s.shutStreams r fun c k => mine (s.ctx c k)
  let s := s.mapCtxs r (fun o => o.blk == b) fun _ _ x => { consts := x.consts, sf := x.sf }
  let s := r.allNodes.foldl (fun s c =>
    if ((s.node c).counts.find (r.id, b)).isSome then s.modNode c fun n => { n with counts := n.counts.erase (r.id, b) } else s) s
  let s := blk.runFrames.foldl (fun s f =>
    if (s.frame r.id f).state = 1 then s.modFrame r.id f fun x => { x with state := 2 } else s) s
  s.modRegion r.id fun r =>
    { r.modBlk b fun x => { pass := x.pass, overReported := x.overReported } with
      ctxfree := setBits r.ctxfree blk.cbase r.n (2 ^ r.n - 1) }

/-! ## The release of a region -/

/-- A started command of a queue is done: its completion may be published (R125). -/
def State.finishCmd (s : State) (q entry : Nat) : State :=
  s.modQueue q fun x => { x with started := x.started.map fun c => if c.entry = entry then { c with done := true } else c }

/-- A message that the region has issued is not complete (R439). -/
def State.linkBusy (s : State) (r : Region) : Bool := (List.range 36).any fun p => (s.link p).msgs.any fun m => m.region == r.id

/-- Something that the region has issued is still on its way: an access or a write that is not performed, a piece or row
firing under way, or a message that is not complete (R439, R453). -/
def State.regionBusy (s : State) (r : Region) : Bool :=
  (s.ops.any fun o => o.region == r.id) || (s.walks.any fun w => w.region == r.id) ||
  (r.clusters.any fun g => (s.cluster g).wb.any fun e => e.region == r.id) ||
  (r.clusters.any fun g => !(s.matrix (clusterNode g 3)).window.isEmpty) ||
  s.linkBusy r

/-- A link node forgets a region: its contexts, their firings, tokens and channels (R439). -/
def State.releaseLink (s : State) (r : Region) (p : Nat) : State :=
  let c := linkNode p
  let mine (k : Nat) : Bool := (s.ctx c k).ownedBy r.id
  if !(List.range 8).any mine then s
  else
    let gone (q : Piece) : Bool := mine q.tok.ctx
    let t := s.store c
    let shared := ((t.entries ++ t.overflow ++ t.held ++ t.pend).filter fun q => gone q && q.buf.inPool && q.buf != .chit).length
    let s := (List.range 8).foldl (fun s k => if mine k then s.closeChans r p k else s) s
    let s := s.modStore c fun t => { t with
      entries := t.entries.filter (!gone ·), overflow := t.overflow.filter (!gone ·), held := t.held.filter (!gone ·),
      pend := t.pend.filter (!gone ·), scales := t.scales.filter fun h => !mine h.tok.ctx }
    let s := s.modCluster (clusterOf c) fun g => { g with shared := g.shared - shared }
    let s := s.modLink p fun l => { l with ops := l.ops.filter fun o => o.region != r.id }
    s.modNode c fun n => { n with
      admitted := n.admitted.filter fun f => f.region != r.id,
      slots := n.slots.map fun f => match f with | some f => if f.region = r.id then none else some f | none => none,
      outq := n.outq.filter fun o => !mine o.ctx,
      counts := n.counts.filter fun x => x.1.1 != r.id }

/-- A Till holds nothing of a region any more: its tasks, its pop sources and what it was doing go. Its configuration and its
counters stay, for R370 has it unconfigured at LAUNCH. -/
def Till.vacate (t : Till) : Till :=
  { t with tasks := [], spmin := 0xffffffff, rHead := 0, rTail := 0, hold := false, sources := [], ops := [],
           lowered := false, ringStop := false, refill := none, asking := none, giving := [], seenDie := [], seenPkg := [] }

/-- A Till that is not configured (R370). -/
def Till.drop (t : Till) : Till :=
  { t.vacate with cfg := 0, rbase := 0, cfgd := false, term := false, pmin := 0xffffffff, lpkg := 0, ldie := 0,
                  locLow := 0xffffffff, wb := 0, clr := (0, 0) }

/-- A region ends (R116, R453, R465, R496): what its nodes, clusters, engines and networks hold of it goes, its windows are
unbound, its taps end, its frames return, its records close, and its clusters are no region's. Its statistics counters
stay, and an access that it has issued without a receipt is still performed (log 36). -/
def State.release (s : State) (r : Region) : State :=
  let s := s.untap fun c k => (s.ctx c k).ownedBy r.id
  let s := (List.range 256).foldl (fun s w =>
    if (s.win w).bound && (s.win w).bregion == r.id then s.unbind w else s) s
  let s := (List.range 36).foldl (fun s p => s.releaseLink r p) s
  let s := r.nodes.foldl (fun s c =>
    let s := if (s.nodes.find c).isSome then s.modNode c fun n => { n with
      admitted := [], slots := [], outq := [], cut := false, noticed := false, counts := [] } else s
    if (s.stores.find c).isSome then s.modStore c fun t => { t with
      entries := [], overflow := [], held := [], scales := [], pend := [] } else s) s
  let s := s.shutStreams r fun c k => (s.ctx c k).ownedBy r.id
  let s := s.mapCtxs r (fun _ => true) fun _ _ x => { consts := x.consts, sf := x.sf }
  let s := r.clusters.foldl (fun s g =>
    let s := s.modCluster g fun c => { c with
      vault := [], spill := [], shared := 0, resv := 0, withdrawn := [], parkSeen := [] }
    let s := s.modCopy (clusterNode g 4) fun c => { c with jobs := [], ops := [], fifo := [] }
    let s := s.modMatrix (clusterNode g 3) fun m => { m with ops := [], window := [] }
    s.modTill (clusterNode g 5) Till.vacate) s
  let clr := s.clearings.get {} r.id
  let s := if r.w = 0 then s else s.modTill (clusterNode r.anchor 5) fun t => { t with clr := (clr.waves, clr.pass) }
  let s := s.modPart r.part fun p => { p with opens := p.opens.filter fun o => o.region != r.id }
  let here (p : Peer) : Bool := match p with
    | .node c => r.nodes.contains c
    | .cluster g => r.clusters.contains g
    | .anchor x => x == r.id
  { s with
    regions := s.regions.filter fun x => x.id != r.id,
    wire := s.wire.filter fun w => w.region != r.id,
    strobes := s.strobes.filter fun m => m.region != r.id && !here m.src && !here m.dst,
    walks := s.walks.filter fun w => w.region != r.id,
    images := s.images.filter fun im => im.region != r.id, transfers := s.transfers.filter fun x => x.region != r.id,
    clearings := s.clearings.erase r.id }

/-- The region's launch ends: its region is released and its started command is done. -/
def State.endLaunch (s : State) (r : Region) : State := (s.release r).finishCmd r.queue r.entry

end Sys2Proof.Machine
end

