-- ==== Sys2Proof/Machine/Launch.lean ====
section
/-! DEFINITION. The region allocator (R492) and the steps of a launch behind the grant (R24, R70, R71, R99 to R101). -/

namespace Sys2Proof.Machine

/-! ## The allocator (R18, R23, R492) -/

/-- A dimension in clusters: the request, or the minimum for 0, raised to the minimum and lowered to the virtual grid. -/
def dimension (req minE vE : Nat) : Nat := min (max (if req = 0 then minE / 4 else req) (minE / 4)) (vE / 4)

/-- The size that a launch's region takes. -/
def Region.wanted (r : Region) : Nat × Nat :=
  if r.restored then (r.rgw, r.rgh) else (dimension r.rgw r.minW r.vw, dimension r.rgh r.minH r.vh)

/-- A cluster that a partition owns and no region holds (R491, R492). -/
def State.clusterFree (s : State) (part g : Nat) : Bool :=
  decide (s.dev.owner.find g = some (true, part)) && !s.regions.any fun r => r.clusters.contains g

/-- The first rectangle of a size that can be granted: ascending gy, then gx. -/
def State.findRect (s : State) (part w h : Nat) : Option (Nat × Nat) :=
  let at' (gy gx : Nat) : Bool :=
    (List.range h).all fun j => (List.range w).all fun i => s.clusterFree part ((gx + i) + 48 * (gy + j))
  (List.range (17 - h)).findSome? fun gy => ((List.range (49 - w)).find? (at' gy)).map fun gx => (gx, gy)

/-- The region request that its partition's allocator serves next (R492). -/
def State.nextRequest (s : State) (part : Nat) : Option Region := s.regions.find? fun r => r.waiting && r.part == part

/-! ## Step 4: folds and single edges (R24, R70, R71, R112) -/

/-- The records of every block as steps 4 and 5 use them, before step 6 applies relocations. -/
def Region.records (r : Region) : List (List NodeRec) := r.recWords.zipIdx.map fun x => (r.recsOf x.2 x.1).getD []

/-- The records of every block as relocations patch them. -/
def Region.patchedRecords (r : Region) : List (List NodeRec) :=
  r.recWords.zipIdx.map fun x => (r.recsOf x.2 (r.patchWords (r.nodeOff x.2) x.1)).getD []

/-- The routing words of records meet R16, R70 and R112 as folded. -/
def Region.foldsOk (r : Region) (recs : List (List NodeRec)) : Bool := recs.all fun l => l.all fun n => n.rws.all fun w => r.foldOk w.2

/-- The input port that an edge ends at once folded: block, node, fold and port. The Sequencer's port is no context's
(R112). -/
def Region.endAt (r : Region) (e : EdgeEnd) : Option (Nat × Coord × Nat × Nat) :=
  if e.nk = 5 ∧ e.port = 3 then none
  else if e.nk = 6 then some (e.tblk, linkNode e.vx, 0, e.port)
  else some (e.tblk, r.physNode e.vx e.vy e.nk, r.fold e.vx e.vy, e.port)

/-- No element of a list equals a later one. -/
def distinct {α : Type} [DecidableEq α] : List α → Bool
  | [] => true
  | x :: xs => !xs.contains x && distinct xs

/-- Step 4 of R101. -/
def Region.step4 (r : Region) : Bool :=
  r.foldsOk r.records && distinct (r.ends.filterMap r.endAt)

/-- A saved object's routing words fit the rectangle that a RESTORE is granted (R16, R70, R112), as written and as relocations patch
them. -/
def Region.refoldOk (r : Region) : Bool := r.step4 && r.foldsOk r.patchedRecords

/-! ## Step 5: the capacity check (R99, R100, R407) -/

/-- D(b, c) of every block and cluster. -/
def Region.chitTable (r : Region) : List (List Nat) :=
  r.records.map fun l => r.clusters.map (r.chitsOf l)

/-- Matching ports of a record: REQ ports of an exact or run-overlap context with two or more. -/
def NodeRec.matching (n : NodeRec) : Nat :=
  let k := n.asCtx.reqPorts.length
  if n.asCtx.mode ≤ 1 ∧ 2 ≤ k then k else 0

/-- J(b, c) of every block and cluster. -/
def Region.joinTable (r : Region) : List (List Nat) :=
  r.records.zipIdx.map fun x => r.clusters.map fun g =>
    (x.1.filter fun n => n.nk != 6 && clusterOf (r.physNode n.vx n.vy n.nk) == g).foldl
      (fun t n => t + n.matching * ceilDiv (2 ^ r.tags x.2) 32) 0

/-- top_c: the sum of the k largest over the blocks, at cluster place `i`. -/
def topOf (k : Nat) (t : List (List Nat)) (i : Nat) : Nat :=
  ((sortBy (fun a b => decide (b ≤ a)) (t.map fun l => l.getD i 0)).take k).foldl (· + ·) 0

/-- Step 5 of R101: the first cluster and inequality that fail, or the first link record with DEPn above 30. -/
def Region.step5 (r : Region) : Option Refuse :=
  let d := r.chitTable
  let j := r.joinTable
  let check (i : Nat) : Option (Nat × Nat) :=
    if 480 < topOf r.k d i then some (1, topOf r.k d i)
    else if 960 < topOf r.k j i then some (2, topOf r.k j i)
    else if 81920 < r.scratch * r.k * r.n then some (3, r.scratch * r.k * r.n)
    else if 1024 < r.budget then some (4, r.budget)
    else if 64 < r.parties then some (4, r.parties)
    else none
  let clusters := r.clusters.zipIdx.findSome? fun g => (check g.2).map fun x => (g.1, x.1, x.2)
  let links := r.records.findSome? fun l => l.findSome? fun n =>
    if n.nk = 6 then ([0, 1, 2, 3].find? fun p => decide (30 < n.asCtx.dep p)).map fun p => (1024 + n.vx, 1, n.asCtx.dep p) else none
  match clusters <|> links with
  | some (addr, detail, lhs) => some { cause := Cause.capCheck, detail := detail, addr := addr, auxv := lhs }
  | none => none

/-! ## Step 6: H segments (R98, R101) -/

/-- The places of the H segments' bytes, checked before any is written. -/
def State.hPlaces (s : State) (r : Region) (l : List (Seg × Unit × List Byte)) :
    Sum Refuse (List (List (Nat × Nat × Bool) × List Byte)) :=
  l.foldl (fun acc g =>
    match acc with
    | .inl e => .inl e
    | .inr ps =>
      match s.gPlaces r.part (r.hwin + g.1.dest) g.1.len with
      | .inl e => .inl { cause := e.cause, akind := 1, addr := e.addr }
      | .inr p => .inr (ps ++ [(p, g.2.2)])) (.inr [])

/-- Step 6 of R101 for the H segments: read, checked, then copied. -/
def State.copyH (s : State) (r : Region) : Sum Refuse State :=
  match s.readSegs r ((r.segs.filter fun g => g.space == 2).map fun g => (g, ())) with
  | .inl e => .inl e
  | .inr (s, l) =>
    match s.hPlaces r l with
    | .inl e => .inl e
    | .inr ps => .inr (ps.foldl (fun s x => s.gWrite (some r.part) false [] x.1 x.2) s)

/-! ## Steps 7 and 8 -/

/-- The slot values: DEFV, then SVi for each set bit of SVM (R101). -/
def Region.firstSlots (r : Region) (c : Cmd) : List Nat :=
  let svm := bits c.w2.toNat 56 8
  let sv (i : Nat) : Nat := bits ([c.w4, c.w5, c.w6, c.w7].getD (i / 2) 0).toNat (32 * (i % 2)) 32
  r.slotTab.zipIdx.map fun e => if e.2 < 8 ∧ bit svm e.2 then sv e.2 else bits e.1.2.toNat 0 32

/-- E of R460, and the queue's EFF and SLICEUP at a grant. -/
def State.setSlice (s : State) (r : Region) : State :=
  let e := 2 + ceilDiv (r.w * r.h) 8
  s.modQueue r.queue fun q =>
    let eff := max q.min (2 * e + 5)
    { q with eff := eff, sliceup := q.sliceup || decide (q.min < eff) }

/-- The engines of a region start afresh (R303, R370). -/
def State.freshEngines (s : State) (r : Region) : State :=
  r.clusters.foldl (fun s g =>
    let s := s.modMatrix (clusterNode g 3) fun m =>
      { m with acc := [], apsn := 0, bufs := [{}, {}], ops := [], window := [], progs := [0, 0, 0, 0] }
    s.modTill (clusterNode g 5) Till.drop) s

/-- Steps 4 to 8 of R101 for a region just granted. -/
def State.launchSteps (s : State) (r : Region) (c : Cmd) : Sum Refuse State :=
  if !r.step4 then .inl {}
  else match r.step5 with
    | some e => .inl e
    | none =>
      match s.copyH r.relocated with
      | .inl e => .inl e
      | .inr s =>
        let r := { r.relocated with recWords := [] }
        let r := { r with slotVals := r.firstSlots c, stat := 2, ctxfree := 0xff, cc := 0, waiting := false, since := s.usec }
        .inr ((s.modRegion r.id fun _ => r).freshEngines r)

end Sys2Proof.Machine
end

