-- ==== Sys2Proof/Machine/Sequencer.lean ====
section
/-! DEFINITION. The Region Sequencer's control commands (R104 to R116), and the stops of the control stream (R106). -/

namespace Sys2Proof.Machine

/-- The region whose control stream the step executes. -/
def State.withControl (s : State) (k : Region → Out) : Out :=
  match s.region s.cur.region with
  | some r => k r
  | none => .next s

/-- The command completes: SEQ_CC moves to the next one, or to LOOP's target (R104). -/
def State.ctlNext (s : State) (r : Region) : State :=
  s.modRegion r.id fun r => { r with cc := r.cc + 1, stat := 2, wcond := 0 }

/-- A record of the Sequencer (R130): NK 7, FV 0, DETAIL the SEQ_CC. -/
def Region.seqInfo (r : Region) (e : Refuse) (opc : Nat) : FaultInfo :=
  { cause := e.cause, detail := r.cc, pos := r.seqCoord, nk := 7, fv := false, opc := opc, akind := e.akind, addr := e.addr,
    auxv := e.auxv }

/-- The control stream stops on a record: SEQ_STAT.STATE is 4 (R106). -/
def State.stopControl (s : State) (r : Region) (hold : Hold) (e : Refuse) (opc : Nat) : State :=
  if !s.canPost r.part then s.waitToPost r.part
  else (s.postFor r hold { r.seqInfo e opc with parked := true }).modRegion r.id fun r => { r with stat := 4 }

/-- A block is resident and keeps its contexts. -/
def Region.holds (r : Region) (b : Nat) : Bool := (r.blk b).resident && !(r.blk b).draining

/-- CFG of a block (R106): `k` goes on once it is resident. A block that is draining is waited for. -/
def State.cfgBlock (s : State) (r : Region) (b opc : Nat) (k : State → State) : State :=
  if r.holds b then k s
  else if (r.blk b).resident then s
  else match s.loadBlock r b with
    | .wait => s
    | .over _ sum => s.stopControl r .control { cause := Cause.cfgOvercommit, auxv := sum } opc
    | .refused e => s.stopControl r .control e opc
    | .loaded s => k s

/-- CFG (R106). -/
def execSeqCfg (blk : BitVec 6) (s : State) : Out :=
  s.withControl fun r => .next (s.cfgBlock r blk.toNat 0xf0 fun s => s.ctlNext r)

/-- The counter sources of a block that a counter drives: the contexts of MODE 3 with its CSEL, outside Tills (R107, R381). -/
def State.sourcesOf (s : State) (r : Region) (b ic : Nat) : List Coord :=
  r.nodes.flatMap fun c =>
    if kindOf c = .till then []
    else ((s.node c).ctxs.filter fun x => x.mode == 3 && x.csel == ic &&
      match x.owner with | some o => o.region == r.id && o.blk == b | none => false).map fun _ => c

/-- A counter of a region. -/
def Region.ic (r : Region) (k : Nat) : Counter := r.ics.getD k {}

/-- RUN (R107): an implicit CFG first; then the counter and a frame are waited for; then the start strobes go out, one to
each node with a source of the counter. -/
def execSeqRun (blk : BitVec 6) (ic : BitVec 2) (count : Half) (s : State) : Out :=
  s.withControl fun r =>
    let b := blk.toNat
    let k := ic.toNat
    if !r.holds b then .next (s.cfgBlock r b 0xf1 id)
    else if (r.ic k).act then .next s
    else match r.granted with
      | some (_, f) =>
        let src := s.sourcesOf r b k
        let s := s.modRegion r.id fun r =>
          { r.modBlk b fun x => { x with runFrames := x.runFrames ++ [f] } with
            granted := none,
            ics := setNth r.ics k { act := true, frame := f, blk := b, limit := count.toNat, count := 0, left := src.length } }
        let s := src.eraseDups.foldl (fun s c =>
          s.sendStrobe (.anchor r.id) (.node c) r.id 0 [(23, 0), (13, count.toNat), (10, f), (2, k)]) s
        .next (s.ctlNext r)
      | none =>
        if (r.requests.any fun q => match q with | .run _ _ => true | _ => false) then .next s
        else .next (s.modRegion r.id fun r => { r with requests := r.requests ++ [.run k b] })

/-- SCHED (R108). -/
def execSeqSched (blk : BitVec 6) (m1 : BitVec 5) (s : State) : Out :=
  s.withControl fun r =>
    let m := m1.toNat + 1
    let s := s.modRegion r.id fun r =>
      (List.range m).foldl (fun r i => r.modBlk (blk.toNat + i) fun x => { x with pass := 0, overReported := false })
        { r with sched := some (blk.toNat, m) }
    .next (s.ctlNext r)

/-- LOOP (R110). -/
def execSeqLoop (ic : BitVec 2) (trips target : BitVec 16) (s : State) : Out :=
  s.withControl fun r =>
    let k := ic.toNat
    let t := (r.trips.getD k 0 + 1) % 2 ^ 16
    .next (s.modRegion r.id fun r =>
      if t < trips.toNat then { r with trips := setNth r.trips k t, cc := target.toNat, stat := 2, wcond := 0 }
      else { r with trips := setNth r.trips k 0, cc := r.cc + 1, stat := 2, wcond := 0 })

/-- A WAITS: it completes when its condition holds, and otherwise SEQ_STAT says that the stream waits, on which code (R103,
R111). -/
def State.waitFor (s : State) (r : Region) (code : Nat) (holds : Bool) : Out :=
  if holds then .next (s.ctlNext r) else .next (s.modRegion r.id fun r => { r with stat := 3, wcond := code })

/-- WAITS.BLK (R111): the block is not resident. A load takes no time in the model, so none is under way. -/
def execWaitsBlk (v : Half) (s : State) : Out := s.withControl fun r => s.waitFor r 0 (!(r.blk v.toNat).resident)

/-- WAITS.IC (R111). -/
def execWaitsIc (v : Half) (s : State) : Out := s.withControl fun r => s.waitFor r 1 (!(r.ic v.toNat).act)

/-- WAITS.TOK (R111): the count is consumed. -/
def execWaitsTok (v : Half) (s : State) : Out :=
  s.withControl fun r =>
    let ok := decide (v.toNat ≤ r.tokc)
    (if ok then s.modRegion r.id fun r => { r with tokc := r.tokc - v.toNat } else s).waitFor r 3 ok

/-- Tokens that wait for a block: those on unresolved words into it, each copy once (R70, R109). -/
def State.waitingFor (s : State) (r : Region) (b : Nat) : Nat :=
  min 65535 (r.allNodes.foldl (fun n c =>
    (s.node c).outq.foldl (fun n o =>
      let x := s.ctx c o.ctx
      let w := x.rw o.rw
      if x.ownedBy r.id && w.present && !w.resolved && w.tblk == b then n + o.todo.length else n) n) 0)

/-- The blocks of the scheduling set that are not resident and that tokens wait for (R109). -/
def State.candidatesOf (s : State) (r : Region) : List Nat :=
  match r.sched with
  | none => []
  | some (b, m) => ((List.range m).map (b + ·)).filter fun x => !(r.blk x).resident && decide (0 < s.waitingFor r x)

/-- Firings of a region's frames that are not parked: admitted, in slots, or saved as images. -/
def State.firings (s : State) (r : Region) : Bool :=
  let live (f : Firing) : Bool := f.region == r.id && !(r.frame f.frame).parked
  (r.allNodes.any fun c => ((s.node c).admitted ++ (s.node c).slots.filterMap id).any live) || s.images.any fun im => live im.firing

/-- The region is quiescent (R111): no live token (TCNT counts them all, R147; those of a parked frame are not live, R458, R476)
and no firing, no owed receipt, no active counter, no candidate that tokens wait for. -/
def State.quiescent (s : State) (r : Region) : Bool :=
  (r.frames.all fun f => f.2.state == 0 || f.2.parked || !s.hasTokens r.id f) && !s.firings r &&
    (r.allNodes.all fun c => (s.node c).ctxs.all fun x => !x.ownedBy r.id || !x.busy) &&
    r.ics.all (fun i => !i.act) && (s.candidatesOf r).isEmpty

/-- WAITS.QUIET (R111). -/
def execWaitsQuiet (s : State) : Out := s.withControl fun r => s.waitFor r 2 (s.quiescent r)

/-- NOTIFY (R113): the writes of the region that were performed before stand in memory already. -/
def execSeqNotify (nfy : BitVec 8) (v : Half) (s : State) : Out :=
  s.withControl fun r => .next ((s.nfyAdd nfy.toNat (v.setWidth 64)).ctlNext r)

/-- SLOT (R114): the value is recorded; a resident block's nodes get the patch, and SLOT waits for their acknowledgements or
for the block's freeing. -/
def execSeqSlot (blk : BitVec 6) (k : BitVec 3) (v : Half) (s : State) : Out :=
  s.withControl fun r =>
    let b := blk.toNat
    let newSlot (r : Region) (e : (Word × Word) × Nat) : Nat :=
      if bits e.1.1.toNat 58 6 = b ∧ bits e.1.1.toNat 40 3 = k.toNat then v.toNat else r.slotVals.getD e.2 0
    let done (s : State) : Out := .next ((s.modRegion r.id fun r => { r with slotSent := false }).ctlNext r)
    if r.slotSent then (if (r.blk b).patching.isEmpty then done s else .next s)
    else
      let s := s.modRegion r.id fun r => { r with slotVals := r.slotTab.zipIdx.map (newSlot r) }
      let named (x : Ctx) : Bool := x.slotm k.toNat && match x.owner with
        | some o => o.region == r.id && o.blk == b
        | none => false
      let nodes := r.allNodes.filter fun c => (s.node c).ctxs.any named
      if nodes.isEmpty then done s
      else
        let s := nodes.foldl (fun s c => s.modNode c fun n =>
          { n with ctxs := n.ctxs.map fun x => if named x then { x with patch := x.patch ++ [(k.toNat, v.setWidth 64)] } else x }) s
        .next (s.modRegion r.id fun r => { r.modBlk b fun x => { x with patching := nodes } with slotSent := true })

/-- A block is armed: a context of it has taken part since it became resident (R117). -/
def State.armed (s : State) (r : Region) (b : Nat) : Bool :=
  r.allNodes.any fun c => (s.node c).ctxs.any fun x => x.armed && match x.owner with
    | some o => o.region == r.id && o.blk == b
    | none => false

/-- The resident blocks of a region. -/
def Region.residents (r : Region) : List Nat := (r.blks.filter fun b => b.2.resident).map (·.1)

/-- HALT (R116): the scheduling set is cleared; once every counter is inactive and every armed block is freed, the remaining blocks
are freed and the region is released, which waits for the link messages that are under way (R439). -/
def execSeqHalt (s : State) : Out :=
  s.withControl fun r =>
    let s := s.modRegion r.id fun r => { r with sched := none, stat := 5 }
    if (r.ics.any fun i => i.act) || (r.residents.any fun b => s.armed r b) || s.linkBusy r then .next s
    else
      let s := r.residents.foldl (fun s b => match s.region r.id with | some r => s.freeBlock r b | none => s) s
      .next (s.endLaunch r)

end Sys2Proof.Machine
end

