-- ==== Sys2Proof/Machine/SeqEvents.lean ====
section
/-! DEFINITION. The Sequencer's events and the strobes of counters and of teardown (R107, R109, R114, R117 to R119). -/

namespace Sys2Proof.Machine

/-! ## Counters (R107, R136) -/

/-- START: the counter's sources in the node begin to emit. -/
def execSkStart (s : State) : Out :=
  s.withStrobe fun s m a =>
    match m.dst, s.region m.region with
    | .node pos, some r =>
      let ic := bits a 46 2
      let b := (r.ic ic).blk
      let q : Source := { ic := ic, frame := bits a 36 10, count := bits a 23 13, next := 0, closing := false }
      let mine (x : Ctx) : Bool := x.mode == 3 && x.csel == ic && match x.owner with
        | some o => o.region == r.id && o.blk == b
        | none => false
      .next (s.modNode pos fun n => { n with ctxs := n.ctxs.map fun x => if mine x then { x with source := some q, armed := true } else x })
    | _, _ => .next s

/-- FINISH: ACT becomes 0 with the last finish strobe. -/
def execSkFinish (s : State) : Out :=
  s.withStrobe fun s m a =>
    .next (s.modRegion m.region fun r =>
      let k := bits a 46 2
      let i := r.ic k
      let i := if i.left ≤ 1 then { i with left := 0, act := false, count := i.limit } else { i with left := i.left - 1 }
      { r with ics := setNth r.ics k i })

/-! ## Teardown (R117, R118) -/

/-- A context belongs to a block of a region. -/
def Ctx.ofBlock (x : Ctx) (r b : Nat) : Bool :=
  match x.owner with
  | some o => o.region == r && o.blk == b
  | none => false

/-- The nodes of a block: those with a node record in it. -/
def State.nodesOf (s : State) (r : Region) (b : Nat) : List Coord :=
  r.allNodes.filter fun c => (s.node c).ctxs.any fun x => x.ofBlock r.id b && x.cw != 0

/-- The nodes that hold a resolved routing word into a block. -/
def State.holdersOf (s : State) (r : Region) (b : Nat) : List Coord :=
  r.allNodes.filter fun c => (s.node c).ctxs.any fun x => x.ownedBy r.id && x.rws.any fun w => w.present && w.resolved && w.tblk == b

/-- A node of a block is drained for it (R117), as far as the node's own state says: it holds no token of the block, no
firing, no owed receipt and no active source; a link context with a bound window is never drained (R436). -/
def State.drainedHere (s : State) (r : Region) (b : Nat) (pos : Coord) : Bool :=
  let n := s.node pos
  let st := storeOf pos
  let t := s.store st
  let g := s.cluster (clusterOf pos)
  let mine (k : Nat) : Bool := (s.ctx pos k).ofBlock r.id b
  let tok (x : Token) : Bool := x.dst == pos && mine x.ctx
  !((t.entries ++ t.overflow ++ t.held ++ t.pend).any fun p => tok p.tok) && !(t.scales.any fun h => tok h.tok) &&
  !((g.vault ++ g.spill).any fun v => tok v.piece.tok) && !(g.withdrawn.any fun v => v.region == r.id && tok v.piece.tok) &&
  !(n.outq.any fun o => mine o.ctx) &&
  !((n.admitted ++ n.slots.filterMap id).any fun f => f.region == r.id && mine f.ctx) &&
  !(s.images.any fun im => im.region == r.id && im.pos == pos && mine im.firing.ctx) &&
  (n.ctxs.all fun x => !x.ofBlock r.id b || !x.busy) &&
  !(kindOf pos == .till && (s.till pos).openNow && n.ctxs.any fun x => x.ofBlock r.id b && x.isPop) &&
  !((List.range 256).any fun w => let y := s.win w
    kindOf pos == .link && y.bound && y.bregion == r.id && y.port == portOfLink pos && mine y.bctx)

/-- NODE_DRAINED (R117, R118). The event's node; operand i: a context of the block. -/
def execEvNodeDrained (s : State) : Out :=
  s.withEv fun e =>
    let pos := e.pos
    let x := s.ctx pos e.i.toNat
    match x.owner with
    | none => .next s
    | some o =>
      match s.region o.region with
      | none => .next s
      | some r =>
        if x.cw = 0 ∨ x.drained ∨ s.cutAt pos e.i.toNat ∨ ¬ s.armed r o.blk ∨ ¬ s.drainedHere r o.blk pos then .next s
        else
          let s := s.modNode pos fun n => { n with ctxs := n.ctxs.map fun x => if x.ofBlock r.id o.blk then { x with drained := true } else x }
          .next (s.sendStrobe (.node pos) (.anchor r.id) r.id 4 [(42, 0), (6, o.blk)])

/-- Close starts once every node of the block has sent its drained strobe. -/
def State.tryClose (s : State) (region b : Nat) : State :=
  match s.region region with
  | none => s
  | some r =>
    let x := r.blk b
    let ns := s.nodesOf r b
    if x.phase = .close ∨ !(ns.all fun c => x.drainedBy.contains c) ∨ ¬ x.resident then s
    else
      let hs := s.holdersOf r b
      let s := s.modBlk r.id b fun x =>
        { x with phase := .close, awaiting := (hs.map fun c => (c, false)) ++ ns.map fun c => (c, true),
                 sentSum := 0, takenSum := 0, allStill := true }
      (hs ++ ns).eraseDups.foldl (fun s c => s.sendStrobe (.anchor r.id) (.node c) r.id 6 [(42, 0), (6, b)]) s

/-- The node that a strobe comes from. -/
def Strobe.from? (m : Strobe) : Option Coord :=
  match m.src with
  | .node c => some c
  | _ => none

/-- DRAINED (R118). -/
def execSkDrained (s : State) : Out :=
  s.withStrobe fun s m a =>
    match Strobe.from? m with
    | none => .next s
    | some c =>
      let b := bits a 42 6
      .next ((s.modBlk m.region b fun x => { x with draining := true, drainedBy := (x.drainedBy ++ [c]).eraseDups }).tryClose
        m.region b)

/-- REOPEN (R118). -/
def execSkReopen (s : State) : Out :=
  s.withStrobe fun s m a =>
    match Strobe.from? m with
    | none => .next s
    | some c =>
      .next (s.modBlk m.region (bits a 42 6) fun x => { x with drainedBy := x.drainedBy.filter (· != c), allStill := false })

/-- The words of a node into a block close, or open again. -/
def State.setClosed (s : State) (pos : Coord) (region b : Nat) (v : Bool) : State :=
  let set (w : RWord) : RWord := if w.present && w.resolved && w.tblk == b then { w with closed := v } else w
  s.modNode pos fun n =>
    { n with ctxs := n.ctxs.map fun x => if x.ownedBy region then { x with rws := x.rws.map set } else x }

/-- A token is on its way into a block. -/
def State.wireInto (s : State) (region b : Nat) : Bool :=
  s.wire.any fun w => w.region == region && !isSeqPort w.tok.dst w.tok.port && (s.ctx w.tok.dst w.tok.ctx).ofBlock region b

/-- CLOSE (R118): the node stops sending on its words into the block. It replies with SENT once the tokens it sent have been
accepted, and a node of the block with TAKEN and whether it is still drained; until then the strobe waits at it. -/
def execSkClose (s : State) : Out :=
  s.withStrobe fun s' m a =>
    match m.dst, s.region m.region with
    | .node pos, some r =>
      let b := bits a 42 6
      if s.wireInto r.id b then .next (s.setClosed pos r.id b true)
      else
        let s := s'.setClosed pos r.id b true
        let n := s.node pos
        let c := n.counts.get (0, 0) (r.id, b)
        let still := n.ctxs.any fun x => x.ofBlock r.id b && x.drained
        let reply (s : State) (taken : Bool) (v : Nat) : State :=
          if (r.blk b).awaiting.contains (pos, taken) then
            s.sendStrobe (.node pos) (.anchor r.id) r.id 8 [(32, v), (1, b2n taken), (1, b2n (taken && still)), (8, 0), (6, b)]
          else s
        .next (reply (reply s false c.1) true c.2)
    | _, _ => .next s'

/-- OPEN (R118): the node sends on its words into the block again. -/
def execSkOpen (s : State) : Out :=
  s.withStrobe fun s m a =>
    match m.dst with
    | .node pos => .next (s.setClosed pos m.region (bits a 42 6) false)
    | _ => .next s

/-- Every reply of a close has come: the block is freed, or its words open again (R118). -/
def State.endClose (s : State) (region b : Nat) : State :=
  match s.region region with
  | none => s
  | some r =>
    let x := r.blk b
    if x.phase ≠ .close ∨ ¬ x.awaiting.isEmpty then s
    else
      let ns := s.nodesOf r b
      if x.allStill && x.sentSum % 2 ^ 32 == x.takenSum % 2 ^ 32 && ns.all fun c => x.drainedBy.contains c then s.freeBlock r b
      else
        let s := s.modBlk r.id b fun x => { x with phase := .drain }
        let s := (s.holdersOf r b ++ ns).eraseDups.foldl (fun s c => s.sendStrobe (.anchor r.id) (.node c) r.id 7 [(42, 0), (6, b)]) s
        s.tryClose r.id b

/-- COUNT (R118). -/
def execSkCount (s : State) : Out :=
  s.withStrobe fun s m a =>
    match Strobe.from? m with
    | none => .next s
    | some c =>
      let b := bits a 42 6
      let taken := bit a 32
      let v := bits a 0 32
      let s := s.modBlk m.region b fun x =>
        { x with awaiting := x.awaiting.filter fun y => !decide (y = (c, taken)),
                 sentSum := if taken then x.sentSum else x.sentSum + v,
                 takenSum := if taken then x.takenSum + v else x.takenSum,
                 allStill := x.allStill && (!taken || bit a 33) }
      .next (s.endClose m.region b)

/-! ## Scheduling (R109) -/

/-- A load of the scheduler's waits for an answer. -/
def State.schedStuck (s : State) (r : Region) : Bool :=
  (s.partOf r.part).opens.any fun o => o.region == r.id && match o.hold with
    | .schedLoad _ => true
    | _ => false

/-- The candidate of R109, with its waiting tokens and pass count. -/
def Region.pick (r : Region) (cand : List (Nat × Nat)) : Option Nat :=
  let better (v : Nat × Nat → Nat) (l : List (Nat × Nat)) : Option Nat :=
    (l.foldl (fun acc x => match acc with
      | none => some x
      | some y => if v y < v x then some x else some y) none).map (·.1)
  let aged := cand.filter fun x => decide (16 ≤ (r.blk x.1).pass)
  if aged.isEmpty then better (·.2) cand else better (fun x => (r.blk x.1).pass) aged

/-- Pass counts after a decision for `x`. -/
def Region.passes (r : Region) (cand : List Nat) (x : Nat) : Region :=
  cand.foldl (fun r y => r.modBlk y fun b => { b with pass := if y = x then 0 else min (b.pass + 1) 255 }) r

/-- A scheduled load: a failure stops the control stream (R106). -/
def State.schedLoad (s : State) (r : Region) (x : Nat) (k : State → State) : State :=
  match s.loadBlock r x with
  | .wait => s
  | .over _ sum => s.stopControl r (.schedLoad x) { cause := Cause.cfgOvercommit, auxv := sum } 0xf2
  | .refused e => s.stopControl r (.schedLoad x) e 0xf2
  | .loaded s => k s

/-- SCHED_DECISION (R109). Operand i: the region. A candidate that only over-commit keeps out is reported first, once. -/
def execEvSchedDecision (s : State) : Out :=
  s.withEv fun e =>
    match s.region e.i.toNat with
    | none => .next s
    | some r =>
      let active := decide (r.stat = 2 ∨ r.stat = 3 ∨ r.stat = 4)
      if !active || r.stopped || s.schedStuck r || (s.freeBase r).isNone then .next s
      else
        let all := s.candidatesOf r
        match all.find? fun x => (s.overcommits r x).isSome && !(r.blk x).overReported with
        | some x =>
          let sum := match s.overcommits r x with | some o => o.2 | none => 0
          if !s.canPost r.part then .next (s.waitToPost r.part)
          else
            let i := { r.seqInfo { cause := Cause.cfgOvercommit, auxv := sum } 0xf2 with parked := false }
            .next ((s.postFor r .nothing i).modBlk r.id x fun b => { b with overReported := true })
        | none =>
          let cand := all.filter fun x => (s.overcommits r x).isNone
          match r.pick (cand.map fun x => (x, s.waitingFor r x)) with
          | none => .next s
          | some x =>
            if !s.canPost r.part then .next (s.waitToPost r.part)
            else
              let s' := s.modRegion r.id fun r => r.passes cand x
              match s'.region r.id with
              | none => .next s
              | some r' =>
                match s'.loadBlock r' x with
                | .wait => .next s
                | _ => .next (s'.schedLoad r' x id)

/-! ## Slots and prefetch (R114, R119) -/

/-- SLOT_PATCH (R114): the node writes the patch in every context of the block that it names, and acknowledges. The event's
node; operand i: a context of the block. -/
def execEvSlotPatch (s : State) : Out :=
  s.withEv fun e =>
    let pos := e.pos
    match (s.ctx pos e.i.toNat).owner with
    | none => .next s
    | some o =>
      let put (x : Ctx) : Ctx :=
        { x with consts := x.patch.foldl (fun c p => setNth c p.1 p.2) x.consts, patch := [] }
      let s := s.modNode pos fun n => { n with ctxs := n.ctxs.map fun x => if x.ofBlock o.region o.blk then put x else x }
      .next (s.modBlk o.region o.blk fun x => { x with patching := x.patching.filter (· != pos) })

/-- CONFIG_PREFETCH (R119): the next line of the configuration segment, into the memory-side cache. Operand i: the region.
A fault, a device page, the limit of 16 KiB and SEGLIM end it. -/
def execEvConfigPrefetch (s : State) : Out :=
  s.withEv fun e =>
    match s.region e.i.toNat with
    | none => .next s
    | some r =>
      let off := max r.prefetched r.demanded / 128 * 128
      if r.stopped ∨ s.stalled r.part ∨ r.seglim ≤ off ∨ r.demanded + 16384 ≤ off then .next s
      else match s.reach r.part (r.obj + off) false with
        | .inl _ => .next s
        | .inr (spa, dev) =>
          if dev then .next s
          else
            let l := spa / 128
            let s := if s.cacheable l false && !s.cached l then s.fill (some r.part) l else s
            .next (s.modRegion r.id fun r => { r with prefetched := off + 128 })

end Sys2Proof.Machine
end

