-- ==== Sys2Proof/Machine/Commands.lean ====
section
/-! DEFINITION. The hardware queues (R121 to R125, R491): how a command starts, the bad command, and LAUNCH, WAIT, SIGNAL,
and BARRIER. -/

namespace Sys2Proof.Machine

/-! ## Starting -/

/-- A partition runs: its queues start commands (R491). -/
def State.partRuns (s : State) (p : Nat) : Bool := (s.partOf p).en && (s.partOf p).state == 1

/-- A partition owns a notify register. -/
def State.ownsNfy (s : State) (p k : Nat) : Bool := (s.nfy k).owner == p

/-- The command at a queue's head starts: it leaves the FIFO and keeps its place among the started commands. -/
def State.startHead (s : State) (q : Nat) (c : Started) : State :=
  s.modQueue q fun x =>
    { x with fifo := x.fifo.drop 1, started := x.started ++ [{ c with entry := x.nextEntry }], nextEntry := x.nextEntry + 1 }

/-- The entry number that the next started command of a queue takes. -/
def State.entryOf (s : State) (q : Nat) : Nat := (s.queue q).nextEntry

/-- A command as it starts. -/
def Cmd.begun (c : Cmd) (cmd : Nat) (done : Bool) : Started :=
  { entry := 0, cmd := cmd, cen := c.cen, cnfy := c.cnfy.toNat, cval := c.cval, done := done, lid := c.lid.toNat }

/-- A record of a queue or of a launch without a region (R124, R129, R130): NK 7, FV 0, no coordinate. -/
def State.postQueue (s : State) (part q lid opc : Nat) (e : Refuse) : State :=
  s.post part q lid { cause := e.cause, detail := e.detail, pos := mkCoord 0 0 0, nk := 7, fv := false, opc := opc,
                      akind := e.akind, addr := e.addr, auxv := e.auxv, parked := false }

/-- A bad command (R124): it starts and completes at once, and posts a BAD_CMD record; its completion write is made only when
its notify register is owned. -/
def State.badCmd (s : State) (q : Nat) (c : Started) : Out :=
  let part := (s.queue q).owner
  if !s.canPost part then .next (s.waitToPost part)
  else
    let s := s.postQueue part q c.lid c.cmd { cause := Cause.badCmd }
    .next (s.startHead q { c with done := true, silent := !s.ownsNfy part c.cnfy })

/-- A queue entry whose words are no command (R124). -/
def State.badEntry (s : State) (q : Nat) (ws : List Word) : Out :=
  if !s.partRuns (s.queue q).owner then .next s
  else
    let w := (ws.getD 0 0).toNat
    s.badCmd q { entry := 0, cmd := bits w 56 8, cen := bit w 55, cnfy := bits w 40 8, cval := ws.getD 1 0, done := true,
                 lid := bits w 0 32 }

/-- A step of a queue's head command: it needs a running partition (R491), and a notify register that is owned when its
completion names one (R124). -/
def State.withCmd (s : State) (code : Nat) (c : Cmd) (k : Nat → Nat → Out) : Out :=
  let q := s.cur.queue
  let part := (s.queue q).owner
  if (s.queue q).fifo.isEmpty || !s.partRuns part then .next s
  else if c.cen && !s.ownsNfy part c.cnfy.toNat then s.badCmd q (Cmd.begun c code true)
  else k q part

/-- The launch that an LID names in a partition (R123). -/
def State.launchOf (s : State) (part lid : Nat) : Option Region := s.regions.find? fun r => r.part == part && r.lid == lid

/-! ## WAIT, SIGNAL, BARRIER (R123) -/

/-- WAIT. -/
def execCmdWait (c : Cmd) (s : State) : Out :=
  s.withCmd 2 c fun q part =>
    let k := c.w2.toNat % 256
    if !s.ownsNfy part k then s.badCmd q (Cmd.begun c 2 true)
    else if (s.nfy k).value < c.w3 then .next s
    else .next (s.startHead q (Cmd.begun c 2 true))

/-- SIGNAL. -/
def execCmdSignal (c : Cmd) (s : State) : Out :=
  s.withCmd 3 c fun q _ => .next (s.startHead q (Cmd.begun c 3 true))

/-- BARRIER. -/
def execCmdBarrier (c : Cmd) (s : State) : Out :=
  s.withCmd 4 c fun q _ =>
    if (s.queue q).started.all (·.done) then .next (s.startHead q (Cmd.begun c 4 true)) else .next s

/-! ## LAUNCH (R101) -/

/-- The launch that a LAUNCH command asks for, before its object is read. -/
def State.newLaunch (s : State) (c : Cmd) (q part : Nat) : Region :=
  { id := s.nextRegion, lid := c.lid.toNat, olid := c.lid.toNat, part := part, queue := q, entry := 0, gx := 0, gy := 0, w := 0, h := 0,
    obj := bits c.w2.toNat 0 48, hwin := bits c.w3.toNat 0 48, hdr := [], blkTab := [], slotTab := [], fpTab := [], dataTab := [],
    relocs := [], slotVals := [], ccws := [], rgw := bits c.w3.toNat 56 8, rgh := bits c.w3.toNat 48 8, waiting := true }

/-- A launch is refused (R101): its record is posted, and the command is done. -/
def State.refuseLaunch (s : State) (q code : Nat) (c : Cmd) (e : Refuse) : Out :=
  let part := (s.queue q).owner
  if !s.canPost part then .next (s.waitToPost part)
  else .next ((s.postQueue part q c.lid.toNat code e).startHead q (Cmd.begun c code true))

/-- The region request of a queue's head command is waiting (R492). -/
def State.asked (s : State) (q : Nat) : Bool := s.regions.any fun r => r.waiting && r.queue == q

/-- LAUNCH (R101): steps 1 and 2; then it holds at its queue's head until REGION_GRANT serves its request. -/
def execCmdLaunch (c : Cmd) (s : State) : Out :=
  s.withCmd 1 c fun q part =>
    if s.asked q then .next s
    else if (s.launchOf part c.lid.toNat).isSome then s.badCmd q (Cmd.begun c 1 true)
    else match s.readObject (s.newLaunch c q part) with
      | .inl e => s.refuseLaunch q 1 c e
      | .inr (s, r) => .next { s with regions := s.regions ++ [r], nextRegion := s.nextRegion + 1 }

/-- The command at a queue's head. -/
def State.headCmd (s : State) (q : Nat) : Option (Nat × Cmd) :=
  match (s.queue q).fifo with
  | [] => none
  | ws :: _ => match decodeCmd ws with
    | .ok i => i.cmd
    | .error _ => none

/-- The request of a launch that waits for its region ends, and with it the launch (R492). -/
def State.cancelWaiting (s : State) (r : Region) : State :=
  let s : State := { s with regions := s.regions.filter fun x => x.id != r.id }
  match s.headCmd r.queue with
  | some (code, c) => s.startHead r.queue (Cmd.begun c code true)
  | none => s

/-! ## Nodes that stop (R453, R461) -/

/-- Every node of a region meets a cut: no source runs and no firing is admitted (R453, R461). -/
def State.cutNodes (s : State) (r : Region) (v : Bool) : State :=
  let s := r.nodes.foldl (fun s c => s.modNode c fun n => { n with cut := v, noticed := n.noticed && v }) s
  (List.range 36).foldl (fun s p =>
    let c := linkNode p
    if (s.node c).ctxs.any fun x => x.ownedBy r.id then
      s.modNode c fun n =>
        { n with ctxs := n.ctxs.map fun x => if x.ownedBy r.id then { x with cut := v, noticed := x.noticed && v } else x }
    else s) s

end Sys2Proof.Machine
end

