-- ==== Sys2Proof/Machine/EscrowEvents.lean ====
section
/-! DEFINITION. Parking and readmission (R444 to R446, R451), the beat counters and the watchdog (R458, R459, R473), the fault
ring (R495) and the trace collectors (R480). -/

namespace Sys2Proof.Machine

/-! ## Parking (R444) -/

/-- The matching stores of a cluster, each once. -/
def storesOf (g : Nat) : List Coord := ((clusterNodes g).map storeOf).eraseDups

/-- The cluster withdraws every token of a frame that it holds, in arrival order, the scale tokens that wait for a value token among
them. -/
def State.withdrawAll (s : State) (g region f : Nat) : State :=
  let s := (storesOf g).foldl (fun s st =>
    let t := s.store st
    let mine (p : Piece) : Bool := p.tok.frame == f && s.regionOf p.tok.dst p.tok.ctx == region
    let loose (h : HeldScale) : Bool := h.into.isNone && h.tok.frame == f && s.regionOf h.tok.dst h.tok.ctx == region
    let scales := (t.scales.filter loose).map fun h => { tok := h.tok, arr := h.arr, buf := Buf.shared h.arr }
    let ps := sortBy (fun a b => decide (a.arr ≤ b.arr)) ((t.entries ++ t.overflow ++ t.held ++ t.pend).filter mine ++ scales)
    if ps.isEmpty then s
    else
      let s := s.modStore st fun t =>
        { t with entries := t.entries.filter (!mine ·), overflow := t.overflow.filter (!mine ·), held := t.held.filter (!mine ·),
                 pend := t.pend.filter (!mine ·), scales := t.scales.filter (!loose ·) }
      ps.foldl (fun s p => s.withdraw region st p) s) s
  let cl := s.cluster g
  let mine (v : Stashed) : Bool := v.piece.tok.frame == f && s.regionOf v.piece.tok.dst v.piece.tok.ctx == region
  let vs := (cl.vault ++ cl.spill).filter mine
  if vs.isEmpty then s
  else
    let s := s.modCluster g fun c => { c with vault := c.vault.filter (!mine ·), spill := c.spill.filter (!mine ·) }
    (sortBy (fun a b => decide (a.piece.arr ≤ b.piece.arr)) vs).foldl (fun s v => s.withdraw region v.store v.piece) s

/-- PARK (R444): from here on the cluster's nodes take no firing of the frame, and its tokens are withdrawn. -/
def execSkPark (s : State) : Out :=
  s.withStrobe fun s m a =>
    match m.dst with
    | .cluster g =>
      let f := bits a 38 10
      let s := s.modCluster g fun c => { c with parkSeen := (c.parkSeen ++ [(m.region, f)]).eraseDups }
      .next (s.withdrawAll g m.region f)
    | _ => .next s

/-- WITHDRAWN_TOKEN_MOVE (R444): a withdrawn token that was left in its Chit moves to the first place that has room, and its
credit returns. Operand i: the cluster; j: the token's place among its withdrawn tokens. -/
def execEvWithdrawnTokenMove (s : State) : Out :=
  s.withEv fun e =>
    let g := e.i.toNat
    match (s.cluster g).withdrawn[e.j.toNat]? with
    | none => .next s
    | some w =>
      if !w.piece.buf.inPool then .next s
      else match s.withdrawnPlace w.region g with
        | none => .next s
        | some b =>
          let p := w.piece
          let s := s.modCluster g fun c => { c with withdrawn := setNth c.withdrawn e.j.toNat { w with piece := { p with buf := b } },
                                                    toSmap := satAdd 32 c.toSmap (b2n b.cell?.isSome) }
          .next ((s.leaveBuf p.tok.dst p.tok.ctx p.tok.port p.arr p.buf).tokenAccess w.region true b)

/-- FIRING_IMAGE_WRITE (R443, R445): the firing that has waited longest for a cell of its partition's area gets the lowest free one,
and frees its slot. Operand i: its place among the images. -/
def execEvFiringImageWrite (s : State) : Out :=
  s.withEv fun e =>
    let i := e.i.toNat
    let partOf (im : Image) : Option Nat := (s.region im.region).map (·.part)
    match s.images[i]? with
    | none => .next s
    | some im =>
      let waits (x : Image) : Bool := x.cell.isNone && !x.ready && decide (partOf x = partOf im)
      match partOf im with
      | none => .next s
      | some p =>
        match s.freeEscrowCell p with
        | none => .next s
        | some cell =>
        if !waits im || (s.images.take i).any waits then .next s
        else
          let s := match s.slotOf im with
            | some k => s.gather im.pos k
            | none => s
          let s := ({ s with images := setNth s.images i { im with cell := some cell, firing := { im.firing with gathered := true } } } :
            State).modNode im.pos fun n =>
              let n := n.remember p im.firing
              { n with slots := n.slots.map fun x => match x with
                  | some f => if f.held ∧ f.region = im.region ∧ f.ctx = im.firing.ctx ∧ f.frame = im.firing.frame ∧
                      f.iter = im.firing.iter ∧ f.ix = im.firing.ix then none else x
                  | none => none }
          .next (s.cellAccess p true (4096 * cell) 4096)

/-! ## The cells (R443) -/

/-- An access of Escrow to its area is performed: an event on each line at its home slice, by system physical address, not metered
(R346, R443, R497). What a write leaves is the device's own layout: free bytes (log 18). An area that no memory backs takes
nothing. -/
def State.performCell (s : State) (part : Nat) (x : Bool × Nat × Nat) : State :=
  let a := bits (s.partOf part).escArea.toNat 0 48 + x.2.1
  if !s.dev.backed a then s
  else if x.1 then
    (s.writeLines none false false (cellsAt a ((List.range x.2.2).map fun i => BitVec.ofNat 8 (s.free (2 ^ 48 + a + i))))).1
  else (s.readRange none false a x.2.2).1

/-- Escrow's accesses that are under way are performed, in the order in which they started. -/
def State.performCells (s : State) : State :=
  s.parts.foldl (fun s p =>
    if p.2.cellOps.isEmpty then s
    else p.2.cellOps.foldl (fun s x => s.performCell p.1 x) (s.modPart p.1 fun q => { q with cellOps := [] })) s

/-! ## Readmission (R451) -/

/-- The answered images of a frame that kept their slots go on there. -/
def State.resumeSlots (s : State) (region f : Nat) (at' : Coord → Bool) : State :=
  let mine (im : Image) : Bool := im.region == region && im.firing.frame == f && im.ready && (s.slotOf im).isSome && at' im.pos
  (s.images.filter mine).foldl (fun s im =>
    match s.slotOf im with
    | none => s
    | some i => ({ s with images := s.images.erase im } : State).reenter im.pos i im.firing) s

/-- A withdrawn token returns by the paths of R141, read from its cell if it lies in one (R443). -/
def State.readmitPiece (s : State) (w : Withdrawn) : State :=
  let s := s.tokenAccess w.region false w.piece.buf
  let p := if w.piece.buf.inPool then w.piece else { w.piece with buf := .escrowSlot }
  if s.cutAt p.tok.dst p.tok.ctx then s.modStore w.store fun t => { t with pend := t.pend ++ [p] }
  else s.takeIn w.region p

/-- The withdrawn tokens of a frame in a token pool return in their arrival order. -/
def State.readmitTokens (s : State) (g region f : Nat) : State :=
  let mine (w : Withdrawn) : Bool := w.region == region && w.piece.tok.frame == f
  let ws := (s.cluster g).withdrawn.filter mine
  let s := s.modCluster g fun c => { c with withdrawn := c.withdrawn.filter (!mine ·) }
  (sortBy (fun a b => decide (a.piece.arr ≤ b.piece.arr)) ws).foldl State.readmitPiece s

/-- A cluster holds a readmit notice (R451): the images of its nodes go ahead, and its withdrawn tokens return. -/
def State.readmitHere (s : State) : Out :=
  s.withStrobe fun s m a =>
    match m.dst with
    | .cluster g =>
      let f := bits a 38 10
      let s := s.modCluster g fun c => { c with parkSeen := c.parkSeen.filter (· != (m.region, f)) }
      .next ((s.resumeSlots m.region f fun c => clusterOf c == g).readmitTokens g m.region f)
    | _ => .next s

/-- Link nodes stand in no cluster: what they hold of a frame goes on as soon as the frame is no longer parked (R451). -/
def State.readmitLinks (s : State) (region f : Nat) : State :=
  if (s.frame region f).parked then s
  else
    let s := s.resumeSlots region f fun c => kindOf c == .link
    (List.range 36).foldl (fun s p => if (s.cluster (1024 + p)).withdrawn.isEmpty then s else s.readmitTokens (1024 + p) region f) s

/-! ## Beats and the watchdog -/

/-- The edge id of an input port: that of the routing word that is resolved to it; a free value when none is (log 1). -/
def State.edgeIn (s : State) (r : Region) (pos : Coord) (k port : Nat) : Nat :=
  let into (w : RWord) : Bool := w.present && w.resolved && w.ctx == k && w.port == port && w.targets.any fun i => w.target i == pos
  match r.allNodes.findSome? fun c => (s.node c).ctxs.findSome? fun x =>
      if x.ownedBy r.id then x.rws.find? into else none with
  | some w => w.edge
  | none => s.free 0 % 2 ^ 13

/-- BEAT_EXPIRY (R473). The event's node; operand i: the context. -/
def execEvBeatExpiry (s : State) : Out :=
  s.withEv fun e =>
    let pos := e.pos
    let k := e.i.toNat
    let x := s.ctx pos k
    let b := x.beat
    match x.owner.bind fun o => s.region o.region with
    | none => .next s
    | some r =>
      if !b.arm || b.left != 0 then .next s
      else if !s.canPost r.part then .next (s.waitToPost r.part)
      else
        let i : FaultInfo :=
          { cause := Cause.beat, detail := b.k, pos := pos, nk := nkOf pos, ctx := k, frame := b.frame, iter := b.iter, len := b.len,
            akind := 3, addr := s.edgeIn r pos k b.port, auxv := 2 ^ b.k, flags := if kindOf pos = .me then 0 else x.sf,
            parked := false }
        .next ((s.postFor r .nothing i).modCtx pos k fun x => { x with beat := { x.beat with arm := false } })

/-- The watchdog's threshold for a partition, 2^H (R458). -/
def State.hangAt (s : State) (p : Nat) : Nat := 2 ^ max (s.partOf p).wdExp (s.dev.cape + 4)

/-- Every node in which a region has contexts: those of its clusters, and its link nodes. -/
def State.regionNodes (s : State) (r : Region) : List Coord :=
  r.nodes ++ ((List.range 36).map linkNode).filter fun c => (s.node c).ctxs.any fun x => x.ownedBy r.id

/-- A cut of a region starts (R461): the control stream stops, and the cut strobe goes to every node. -/
def State.startCut (s : State) (r : Region) (why : CutFor) : State :=
  let s := s.modRegion r.id fun r => { r with cut := some why, statKept := r.stat }
  (s.regionNodes r).foldl (fun s c => s.sendStrobe (.anchor r.id) (.node c) r.id 3 [(48, 0)]) s

/-- WATCHDOG_EXPIRY (R458, R459): a region that shows no progress is frozen by a cut; the cut of a SNAPSHOT that is in progress becomes
that of the freeze, and the SNAPSHOT saves the frozen region (DEDUCED, log 105). Operand i: the region. -/
def execEvWatchdogExpiry (s : State) : Out :=
  s.withEv fun e =>
    match s.region e.i.toNat with
    | none => .next s
    | some r =>
      if !(s.partOf r.part).wdEn || r.frozen || r.aborting || r.waiting || s.stalled r.part || r.stat == 4 || !s.liveWork r ||
          decide (r.wdog < s.hangAt r.part) then .next s
      else match r.cut with
        | none => .next (s.startCut r (.freeze false))
        | some (.snapshot _ _) => .next (s.modRegion r.id fun r => { r with cut := some (.freeze false) })
        | some (.freeze _) => .next s

/-! ## The fault ring (R495) -/

/-- A partition's ring can take a record. -/
def Partition.ringRoom (p : Partition) : Bool :=
  bit p.fqBase.toNat 63 && decide ((p.tail + 2 ^ 32 - p.head) % 2 ^ 32 < 2 ^ bits p.fqBase.toNat 0 5)

/-- Where the record that TAIL counts next stands. -/
def Partition.ringAt (p : Partition) : Nat :=
  bits p.fqBase.toNat 12 36 * 4096 + 64 * (p.tail % 2 ^ bits p.fqBase.toNat 0 5)

/-- TAIL advances, and with it the message of FQ_BASE, when it is armed (R127, R495). -/
def State.tailOn (s : State) (k : Nat) : State :=
  let b := (s.partOf k).fqBase.toNat
  let fire := bit b 62 && bit b 61
  let s := s.modPart k fun p =>
    { p with tail := (p.tail + 1) % 2 ^ 32, held := p.held.drop 1 ++ p.backlog.take 1, backlog := p.backlog.drop 1,
             waiting := !(p.backlog.drop 1).isEmpty,
             fqBase := if fire then BitVec.ofNat 64 (setBits b 61 1 0) else p.fqBase }
  if fire then { s with msix := s.msix ++ [bits b 50 11] } else s

/-- The oldest held record of a partition is written to the ring, performed at DEV, and TAIL advances (R495). A ring that no memory backs
takes nothing. -/
def State.ringRecord (s : State) (k : Nat) : State :=
  let p := s.partOf k
  match p.held with
  | [] => s
  | rec :: _ =>
    if !p.ringRoom || !s.dev.backed p.ringAt then s
    else (s.writeLines none false false (cellsAt p.ringAt (rec.words.flatMap wordBytes))).1.tailOn k

/-! ## The trace collectors (R480) -/

/-- TAP_RECORD_WRITE (R480): a record of a die's collector is written to its slot's buffer, and WP advances. Operand i: the
die; j: the record's place in the collector. Records of one slot go in order. A record whose buffer has filled meanwhile is lost (R481). A
buffer that no memory backs takes nothing. -/
def execEvTapRecordWrite (s : State) : Out :=
  s.withEv fun e =>
    let die := e.i.toNat
    let l := s.collectors.get [] die
    match l[e.j.toNat]? with
    | none => .next s
    | some t =>
      let b := s.taps.get {} (die, t.slot)
      let a := b.base + 32 * (b.wp % (2 ^ b.lgsz * 128))
      if (l.take e.j.toNat).any (fun x => x.slot == t.slot) || !s.dev.backed a then .next s
      else if b.full then
        .next { s with collectors := s.collectors.set die (dropNth l e.j.toNat),
                       taps := s.taps.set (die, t.slot) { b with lost := satAdd 64 b.lost 1 } }
      else
        let w := s.writeLines (some b.part) false false (cellsAt a (t.words.flatMap wordBytes))
        .next { w.1 with collectors := s.collectors.set die (dropNth l e.j.toNat),
                         taps := s.taps.set (die, t.slot) { b with wp := (b.wp + 1) % 2 ^ 64 } }

end Sys2Proof.Machine
end

