-- ==== Sys2Proof/Machine/Answers.lean ====
section
/-! DEFINITION. RESUME and DISCARD: the answers to open records (R442, R447 to R452), and the end of an answer. -/

namespace Sys2Proof.Machine

/-! ## What an answer may name -/

/-- An open record of a partition. -/
def State.openRec (s : State) (p recno : Nat) : Option OpenRec := (s.partOf p).opens.find? fun o => o.recno == recno

/-- The image that a record parked. -/
def State.imageOf (s : State) (o : OpenRec) : Option Image :=
  s.images.find? fun im => im.recno == some o.recno && im.region == o.region

/-- The faulting instruction has a D destination or a load reply (R450). TAPM and LCFG name a port in D and have no result. A firing
that gave its inputs back stopped at its first instruction. -/
def State.hasResult (s : State) (o : OpenRec) : Bool :=
  let w := match s.imageOf o with
    | some im => im.firing.words.getD im.firing.ix 0
    | none => (s.ctx o.pos o.ctx).sequence.headD 0
  match decode { src := .node, words := [w] } with
  | .ok f =>
    match f.instr with
    | .tapmOn _ | .lcfgBind _ => false
    | .ld _ | .ldg _ | .ldl _ | .lda _ | .ldb _ | .lds _ | .ldsg _ => true
    | i => match i.niw with | some n => decide (n.d ≠ .none) | none => false
  | .error _ => false

/-- The record comes from a word check (R82, R450). -/
def OpenRec.wordCheck (o : OpenRec) : Bool := o.cause == Cause.illegalInsn && o.detail == 0

/-- A record raised by a firing (R447, R452). -/
def OpenRec.byFiring (o : OpenRec) : Bool :=
  match o.hold with
  | .firing | .trap => true
  | _ => false

/-- A record accepts an action (R335, R450). -/
def State.accepts (s : State) (o : OpenRec) (act : Nat) : Bool :=
  match o.hold with
  | .firing => if o.wordCheck then decide (act ≤ 1) else decide (act ≤ 1) || (act == 2 && s.hasResult o)
  | .matrix _ _ => decide (act ≤ 1)
  | .region true => false
  | .nothing => false
  | _ => act == 0

/-! ## RESUME (R449 to R451) -/

/-- The firing runs again from its first word, as a new admission (R115, R450). -/
def Firing.restart (f : Firing) (x : Ctx) : Firing :=
  { f with ix := 0, words := x.sequence, consts := x.consts, temps := [], masks := [(0, 0), (0, 0), (0, 0), (0, 0)], part := 0, opid := 0,
           skip := false, patch := none, held := false, xl := [], readmitted := true }

/-- The tag and the run that a record names. -/
def OpenRec.tag (o : OpenRec) : Nat × Nat :=
  let w := (o.words.getD 0 0).toNat
  (bits w 13 12, bits w 8 5 + 1)

/-- A firing that gave its inputs back goes on in this way when its tokens admit it again (R449, R450). -/
def State.answerAgain (s : State) (o : OpenRec) (a : Again) : State :=
  s.modRegion o.region fun r => { r with skips := r.skips ++ [((o.pos, o.ctx, o.frame, (OpenRec.tag o).1, (OpenRec.tag o).2), a)] }

/-- A word check's answer (R450): the firing runs again, or every instruction of it acts as SKIP. A firing that gave its inputs
back is matched again from them. -/
def State.answerWords (s : State) (o : OpenRec) (act : Nat) : State :=
  match s.imageOf o with
  | some im =>
    let f := if act = 0 then im.firing.restart (s.ctx im.pos im.firing.ctx)
      else { im.firing with held := false, readmitted := true, xl := [], skipAll := true }
    { s with images := s.images.map fun x => if x = im then { im with firing := f, ready := true } else x }
  | none =>
    if act = 0 then s else s.answerAgain o .skipAll

/-- The answer to a fire-time fault (R449): the firing goes on at its instruction, which is the first when it gave its inputs
back. -/
def State.answerFault (s : State) (r : Region) (o : OpenRec) (act : Nat) (pval : Word) : State :=
  match s.imageOf o, act with
  | some _, _ => s.answerImage r.part o.recno false act pval
  | none, 0 => s
  | none, 1 => s.answerAgain o .skip
  | none, _ => s.answerAgain o (.patch pval)

/-- The answer to a trap (R450): the firing goes on behind it, when its tokens admit it again if it gave its inputs back. -/
def State.answerTrap (s : State) (r : Region) (o : OpenRec) : State :=
  match s.imageOf o with
  | some _ => s.answerImage r.part o.recno true 0 0
  | none => s.answerAgain o .after

/-- The control stream of a region goes on unless another record still stops it (R106). -/
def State.goControl (s : State) (r : Region) : State :=
  let stuck := (s.partOf r.part).opens.any fun o => o.region == r.id && match o.hold with
    | .control | .schedLoad _ => true
    | _ => false
  if stuck then s else s.modRegion r.id fun r => { r with stat := 2 }

/-- The tokens that arrived during a cut are matched as they came (R459, R461). -/
def State.rematch (s : State) (r : Region) : State :=
  ((s.regionNodes r).map storeOf).eraseDups.foldl (fun s st =>
    let t := s.store st
    let mine (p : Piece) : Bool := s.regionOf p.tok.dst p.tok.ctx == r.id
    let ps := t.pend.filter mine
    if ps.isEmpty then s
    else ps.foldl (fun s p => s.takeIn r.id p) (s.modStore st fun t => { t with pend := t.pend.filter (!mine ·) })) s

/-- A cut's marks go: every node admits firings again (R459). -/
def State.liftCut (s : State) (r : Region) : State :=
  let s := (s.modRegion r.id fun r => { r with cut := none, cutAt := none, frozen := false, wdog := 0, stat := r.statKept }).cutNodes r false
  let s := s.mapCtxs r (fun _ => true) fun _ _ x => { x with notices := [] }
  match s.region r.id with
  | some r => s.rematch r
  | none => s

/-- A faulted piece's instance is eligible again (R283). -/
def State.cpResume (s : State) (pos : Coord) (job : Nat) : State := s.modJob pos job fun j => { j with faulted := false }

/-- DISCARD of a piece (R283): the instance ends, its edges with it, and the receipt is poisoned. -/
def State.cpDiscard (s : State) (pos : Coord) (job : Nat) : State :=
  match (s.copy pos).jobs.find? fun j => j.id == job with
  | none => s
  | some j =>
    let s := s.modCopy pos fun x => { x with jobs := x.jobs.filter fun i => i.id != job }
    (s.modCpOp pos j.op fun o => { o with left := o.left - 1, poisoned := true }).cpReceipt pos j.op

/-- A RESUME is applied (R449 to R451): the record closes and what it held goes on. -/
def State.applyResume (s : State) (r : Region) (o : OpenRec) (act : Nat) (pval : Word) : State :=
  let s := match o.hold with
    | .firing => if o.wordCheck then s.answerWords o act else s.answerFault r o act pval
    | .trap => s.answerTrap r o
    | .pushb _ => s.answerImage r.part o.recno false 0 0
    | .piece pos job => s.cpResume pos job
    | .matrix pos op => s.mnResume pos op (act == 1)
    | .ring pos => s.modTill pos fun t => { t with ringStop := false }
    | _ => s
  let s := s.closeRec r.part o.recno
  match o.hold with
  | .control => s.goControl r
  | .schedLoad x => (s.goControl r).schedLoad r x id
  | .region _ => s.liftCut r
  | .ring _ | .nothing => s
  | _ => (s.unparkFrame r.id o.frame).readmitLinks r.id o.frame

/-! ## DISCARD (R452) -/

/-- The withdrawn tokens of a frame are poisoned in every active lane; markers in their PSN and lane 0 (R452). -/
def Withdrawn.spoil (w : Withdrawn) : Withdrawn :=
  let t := w.piece.tok
  let p := if t.kind = .marker ∨ t.kind = .receipt then 1 else 0
  { w with piece := { w.piece with tok := { t with poison := t.poison ||| t.mask ||| p } } }

/-- Every withdrawn token of a frame is poisoned. -/
def State.spoilTokens (s : State) (region f : Nat) : State :=
  { s with clusters := s.clusters.map fun c => (c.1, { c.2 with withdrawn := c.2.withdrawn.map fun w =>
      (if w.region == region && w.piece.tok.frame == f then w.spoil else w) }) }

/-- A record of an engine's work is discarded: that work ends (R283, R335, R397). -/
def State.discardWork (s : State) (o : OpenRec) : State :=
  match o.hold with
  | .piece pos job => s.cpDiscard pos job
  | .matrix pos op => s.mnDiscard pos op
  | .pushb pos =>
    match s.imageOf o with
    | none => s
    | some im =>
      let f := { im.firing with held := false, readmitted := true, xl := [], ix := im.firing.ix + 1, part := 0, opid := 0 }
      let s := s.pushbDiscard pos im.firing.opid
      { s with images := s.images.map fun x => if x = im then { im with firing := f, ready := true } else x }
  | _ => s

/-- The parked firing of a record continues under SKIP; after a trap, behind it (R450, R452). -/
def State.skipImage (s : State) (r : Region) (o : OpenRec) : State :=
  match o.hold with
  | .firing => if o.wordCheck then s.answerWords o 1 else s.answerFault r o 1 0
  | .trap => s.answerTrap r o
  | _ => s.discardWork o

/-- DISCARD of a record raised by a firing (R452): every open record of the frame closes, its firings go on under SKIP, it
retires, or returns to its pop source (R403), and its withdrawn tokens are readmitted poisoned. -/
def State.discardFrame (s : State) (r : Region) (f : Nat) : State :=
  let os := s.opensOf r f
  let s := os.foldl (fun s o => s.skipImage r o) s
  let s := os.foldl (fun s o => s.closeRec r.part o.recno) s
  let s := match s.batchOf r f with
    | some _ => s.batchDiscard r f
    | none => s.modFrame r.id f fun x => if x.state = 1 then { x with state := 2 } else x
  ((s.spoilTokens r.id f).unparkFrame r.id f).readmitLinks r.id f

/-- A DISCARD is applied. -/
def State.applyDiscard (s : State) (r : Region) (o : OpenRec) : State :=
  if o.byFiring then s.discardFrame r o.frame
  else (((s.discardWork o).closeRec r.part o.recno).unparkFrame r.id o.frame).readmitLinks r.id o.frame

/-! ## The commands -/

/-- A frame belongs to a pop source (R382). -/
def State.popFrame (s : State) (r : Region) (f : Nat) : Bool :=
  r.tills.any fun c => (s.till c).sources.any fun p => p.2.frames.contains f

/-- A discarded frame has been returned: to the Mint, or to its pop source (R452). -/
def State.returned (s : State) (r : Region) (f : Nat) : Bool :=
  match s.batchOf r f with
  | some (_, _, b) => b.cov != b.full
  | none => (r.frame f).state == 0 || s.popFrame r f

/-- Every cluster has readmitted a frame's tokens and every image of it has a slot (R451). -/
def State.readmitted (s : State) (r : Region) (f : Nat) : Bool :=
  !(r.frame f).parked &&
  (s.clusters.all fun c => !c.2.parkSeen.contains (r.id, f) && c.2.withdrawn.all fun w => w.region != r.id || w.piece.tok.frame != f) &&
  s.images.all fun im => im.region != r.id || im.firing.frame != f

/-- An answer's command is complete when this holds (R451, R452). -/
def State.settled (s : State) : AnswerWait → Bool
  | .readmit region f => match s.region region with
    | none => true
    | some r => s.readmitted r f
  | .freed region f => match s.region region with
    | none => true
    | some r => s.returned r f
  | .work _ => true

/-- The answers that are complete: their commands are done. -/
def State.settleAnswers (s : State) : State :=
  s.queues.foldl (fun s x =>
    (x.2.answers.filter fun a => s.settled a.2).foldl (fun s a =>
      (s.finishCmd x.1 a.1).modQueue x.1 fun q => { q with answers := q.answers.filter (· != a) }) s) s

/-- An answer waits for its completion. -/
def State.awaitAnswer (s : State) (q entry : Nat) (w : AnswerWait) : State :=
  (s.modQueue q fun x => { x with answers := x.answers ++ [(entry, w)] }).settleAnswers

/-- What a started answer waits for: readmission when it answered the last record of a frame, else nothing more. -/
def State.waitOf (s : State) (r : Region) (o : OpenRec) : AnswerWait :=
  match o.hold with
  | .control | .schedLoad _ | .ring _ | .region _ | .nothing => .work o.recno
  | _ => if (s.frame r.id o.frame).parked then .work o.recno else .readmit r.id o.frame

/-- A started answer takes effect: as RESUME with its action, or as DISCARD. An answer whose record has closed meanwhile is a
bad command (R447, R465, R476), and none while that record has to wait (R495). -/
def State.takeAnswer (s : State) (q entry part : Nat) (discard : Bool) (c : Cmd) : Option State :=
  let bad (s : State) : Option State :=
    if !s.canPost part then none
    else some ((s.postQueue part q c.lid.toNat (if discard then 8 else 7) { cause := Cause.badCmd }).finishCmd q entry)
  match s.openRec part c.w2.toNat with
  | none => bad s
  | some o =>
    match s.region o.region with
    | none => bad s
    | some r =>
      some <| if discard then
        let batch := (s.batchOf r o.frame).isSome
        let s := s.applyDiscard r o
        s.awaitAnswer q entry (if o.byFiring then (if batch || (r.frame o.frame).state != 0 then .freed r.id o.frame else .work 0)
          else s.waitOf r o)
      else
        let s := s.applyResume r o (c.w3.toNat % 16) c.w4
        s.awaitAnswer q entry (s.waitOf r o)

/-- A cut of the region is in progress: the answer waits for its end (R447). -/
def State.answerNow (s : State) (q part : Nat) (r : Region) (discard : Bool) (c : Cmd) : State :=
  let entry := s.entryOf q
  let s := s.startHead q (Cmd.begun c (if discard then 8 else 7) false)
  let wait : State :=
    { s with heldAnswers := s.heldAnswers ++ [{ queue := q, entry := entry, region := r.id, discard := discard, cmd := c }] }
  if r.cut.isSome then wait else (s.takeAnswer q entry part discard c).getD wait

/-- Answers take effect in their order, up to the first that has to wait for room for its record (R495): the state, and those left. -/
def State.takeAnswers (s : State) : List HeldAnswer → State × List HeldAnswer
  | [] => (s, [])
  | h :: hs =>
    let part := (s.queue h.queue).owner
    match s.takeAnswer h.queue h.entry part h.discard h.cmd with
    | some s => State.takeAnswers s hs
    | none => (s.waitToPost part, h :: hs)

/-- The answers that a region's cut held back take effect, in the order in which they started (R447). -/
def State.releaseAnswers (s : State) (region : Nat) : State :=
  let mine := s.heldAnswers.filter fun h => h.region == region
  let s : State := { s with heldAnswers := s.heldAnswers.filter fun h => h.region != region }
  let x := s.takeAnswers mine
  { x.1 with heldAnswers := x.2 ++ x.1.heldAnswers }

/-- A region's cut is over, or the region is gone: what its cut held back may take effect. -/
def State.notCut (s : State) (region : Nat) : Bool :=
  match s.region region with
  | some r => r.cut.isNone
  | none => true

/-- A record of state lost to an uncorrectable error froze the region: only ABORT is accepted (R442). -/
def State.lost (s : State) (r : Region) : Bool :=
  (s.partOf r.part).opens.any fun o => o.region == r.id && decide (o.hold = .region true)

/-- A restored region runs on once every record of it has been posted (R466 steps 5 and 6): its tokens are matched. A record that
froze it meanwhile keeps it. -/
def State.endRestore (s : State) (k : Nat) : State :=
  let p := s.partOf k
  match p.restoring, p.backlog with
  | some id, [] =>
    let s := s.modPart k fun p => { p with restoring := none }
    match s.region id with
    | none => s
    | some r => if s.lost r then s else (s.modRegion id fun r => { r with frozen := false }).rematch r
  | _, _ => s

/-- What waited for room on the device goes on when a record has left it (R495): a RESTORE, and answers. -/
def State.roomFreed (s : State) (k : Nat) : State :=
  let s := s.endRestore k
  let rs := ((s.heldAnswers.filter fun h => (s.queue h.queue).owner == k).map fun h => h.region).eraseDups
  (rs.filter s.notCut).foldl State.releaseAnswers s

/-- FAULT_RING_WRITE (R495): the oldest held record is written to the ring. Operand i: the partition. -/
def execEvFaultRingWrite (s : State) : Out := s.withEv fun e => .next ((s.ringRecord e.i.toNat).roomFreed e.i.toNat)

/-- The reserved fields of a RESUME's words are 0 (R448). -/
def resumeOk (c : Cmd) : Bool :=
  decide (c.w3.toNat < 16) && decide (c.w3.toNat ≤ 2) && (c.w3 == 2 || c.w4 == 0) && zeros [c.w5, c.w6, c.w7]

/-- RESUME (R449 to R451). -/
def execCmdResume (c : Cmd) (s : State) : Out :=
  s.withCmd 7 c fun q part =>
    match (s.openRec part c.w2.toNat).bind fun o => (s.region o.region).map fun r => (o, r) with
    | none => s.badCmd q (Cmd.begun c 7 true)
    | some (o, r) =>
      if r.aborting || !resumeOk c || !s.accepts o c.w3.toNat then s.badCmd q (Cmd.begun c 7 true)
      else .next (s.answerNow q part r false c)

/-- DISCARD (R452): of a control stop, an engine stop, a WATCHDOG or an ECC_UNCORR record it is a bad command (R442). -/
def execCmdDiscard (c : Cmd) (s : State) : Out :=
  s.withCmd 8 c fun q part =>
    match (s.openRec part c.w2.toNat).bind fun o => (s.region o.region).map fun r => (o, r) with
    | none => s.badCmd q (Cmd.begun c 8 true)
    | some (o, r) =>
      let takes := match o.hold with
        | .firing | .trap | .piece _ _ | .matrix _ _ | .pushb _ => true
        | _ => false
      if r.aborting || !takes then s.badCmd q (Cmd.begun c 8 true) else .next (s.answerNow q part r true c)

/-! ## Events that may complete an answer -/

/-- The answers that a step completes are done. -/
def settling (o : Out) : Out :=
  match o with
  | .next s => .next s.settleAnswers
  | o => o

/-- READMIT (R451): the images of the cluster's nodes go ahead, and its withdrawn tokens return. -/
def execSkReadmit (s : State) : Out := settling s.readmitHere

/-- FIRING_SLOT_ENTRY (R82, R140, R173, R451): an answered image enters a free slot first; else R48's firing does, its words
are checked, and its operands are gathered. The event's node. -/
def execEvFiringSlotEntry (s : State) : Out := settling s.slotEntry

/-- FRAME_RETURN (R147): a retiring frame with no work left returns to STATE 0 and leaves every party set. Operand i: the
region; j: the frame. -/
def execEvFrameReturn (s : State) : Out := settling s.frameReturn

end Sys2Proof.Machine
end

