-- ==== Sys2Proof/Machine/Cut.lean ====
section
/-! DEFINITION. The marker-drain cut (R461, R462): the cut strobe, position notices, and when a region's cut is complete. -/

namespace Sys2Proof.Machine

/-! ## The node's cut (R461) -/

/-- The node stops its sources and admits nothing further, and its cluster's write buffer drains. -/
def State.cutHere (s : State) (r : Region) (pos : Coord) : State :=
  if kindOf pos = .link then
    s.modNode pos fun n => { n with ctxs := n.ctxs.map fun x => if x.ownedBy r.id then { x with cut := true } else x }
  else
    let g := clusterOf pos
    let s := s.modNode pos fun n => { n with cut := true }
    let ids := ((s.cluster g).wb.filter fun e => !e.draining).map (·.id)
    if ids.isEmpty then s else s.drain g ids false

/-- The word on which a Memory Element's instruction takes credits for its reply: an atomic's D, a load's RWX (R221, R358). -/
def replyWord (opc : Nat) (n : Niw) : Option Nat :=
  if 0xd0 ≤ opc ∧ opc ≤ 0xdd then (match n.d with | .o o => some o.val | _ => none)
  else if 0x90 ≤ opc ∧ opc ≤ 0x96 then some (Niw.rwx n) else none

/-- Opcodes whose result is narrow whatever their TY: CMP, CNT, PROBE and PCHK.CNT. -/
def narrowResult (opc : Nat) : Bool := opc == 0x26 || opc == 0x3b || opc == 0xa6 || opc == 0xfd

/-- The tokens for which an instruction of a firing waits until the output queue has room, each port with its number (R174): STEER's
for both its ports (R161), QNT's scale and value token (R261), the next one of an instruction that sends in parts. -/
def roomNeeds (opc : Nat) (n : Niw) (f : Firing) : List (Nat × Nat) :=
  match n.d with
  | .o k =>
    let parts := opc == 0x85 || ((opc == 0x83 || opc == 0x84) && f.patch.isNone)
    let c := if parts then 1 else tokensOf (n.ty.isWide && !narrowResult opc) f.len
    if opc = 0x87 then [(k.val, c), (k.val + 1, c)] else if opc = 0x63 then [(k.val, 2)] else [(k.val, c)]
  | _ => []

/-- A firing waits: its instruction has no room in the output queue (R174) or no credit for its reply (R221), or it is held, or a full
record queue holds it up. It is saved in its slot (R461, R462). -/
def State.waitsHere (s : State) (r : Region) (pos : Coord) (f : Firing) : Bool :=
  f.held || ((f.due.isSome || f.stalled) && !s.canPost r.part) ||
  match insnOf (f.words.getD f.ix 0) with
  | none => false
  | some (opc, n) =>
    match (if kindOf pos = .me then replyWord opc n else none) with
    | some w => f.opid == 0 && !s.canReserve pos f.ctx w (tokensOf n.ty.isWide f.len)
    | none => let l := roomNeeds opc n f; !l.isEmpty && !s.roomMany pos f.ctx l

/-- What the node issued has been performed, and its firings have run to completion or wait. A firing of an engine's node that
is left waits for the engine, which the cut has stopped. -/
def State.cutReady (s : State) (r : Region) (pos : Coord) : Bool :=
  let n := s.node pos
  let runs := match kindOf pos with
    | .ce | .me | .nu => (n.slots.filterMap id).any fun f => f.region == r.id && !s.waitsHere r pos f
    | _ => false
  !runs && !(s.ops.any fun o => o.pos == pos && o.region == r.id) && !(s.walks.any fun w => w.pos == pos && w.region == r.id) &&
  match kindOf pos with
  | .mn => (s.matrix pos).window.isEmpty
  | .till => !s.transfers.any fun x => x.region == r.id && (x.src == pos || x.dst == pos) && x.carry == .sent
  | .link =>
    let l := s.link (portOfLink pos)
    !(l.msgs.any fun m => m.region == r.id) && !(l.ops.any fun o => o.region == r.id) &&
      (List.range 64).all fun j => !((n.ctx (j / 8)).ownedBy r.id && (l.chan j).closing)
  | _ => !(s.cluster (clusterOf pos)).wb.any fun e => e.region == r.id

/-- The output edges of a node's contexts of a region: each target of each resolved word with the tokens that left on it. The
Sequencer's port is no edge end of a context. -/
def State.outEdges (s : State) (r : Region) (pos : Coord) : List (RWord × Coord × Nat) :=
  (s.node pos).ctxs.flatMap fun x =>
    if !x.ownedBy r.id then []
    else x.rws.flatMap fun w =>
      if !w.present || !w.resolved then []
      else (w.targets.filter fun i => !isSeqPort (w.target i) w.port).map fun i => (w, w.target i, w.sent.getD i 0 % 2 ^ 32)

/-- The node's position notices, after which nothing leaves it. -/
def State.sendNotices (s : State) (r : Region) (pos : Coord) : State :=
  let s := (s.outEdges r pos).foldl (fun s e =>
    s.sendStrobe (.node pos) (.node e.2.1) r.id 2 [(32, e.2.2), (3, e.1.ctx), (13, e.1.edge)]) s
  if kindOf pos = .link then
    s.modNode pos fun n => { n with ctxs := n.ctxs.map fun x => if x.ownedBy r.id then { x with noticed := true } else x }
  else s.modNode pos fun n => { n with noticed := true }

/-- CUT (R461): the node stops at once; the strobe stands at it until what it issued has been performed, and then its position
notices go out. A cut that was abandoned has no effect. -/
def execSkCut (s : State) : Out :=
  s.withStrobe fun s' m _ =>
    match m.dst, s.region m.region with
    | .node pos, some r =>
      if r.cut.isNone then .next s'
      else if (s.cutHere r pos).cutReady r pos then .next ((s'.cutHere r pos).sendNotices r pos)
      else .next (s.cutHere r pos)
    | _, _ => .next s'

/-- NOTICE (R461): the node learns how many tokens left on an input edge. The edge is the producer's word of that edge id into
the context. -/
def execSkNotice (s : State) : Out :=
  s.withStrobe fun s m a =>
    match m.dst, Strobe.from? m, s.region m.region with
    | .node pos, some c, some r =>
      let k := bits a 32 3
      let n := bits a 0 32
      match (s.outEdges r c).find? fun e => e.1.edge == bits a 35 13 && e.2.1 == pos && e.1.ctx == k && e.2.2 == n with
      | none => .next s
      | some e => .next (s.modCtx pos k fun x => { x with notices := x.notices ++ [(e.1.port, n)] })
    | _, _, _ => .next s

/-- A node has done its part of a cut. -/
def State.nodeNoticed (s : State) (r : Region) (pos : Coord) : Bool :=
  if kindOf pos = .link then (s.node pos).ctxs.all fun x => !x.ownedBy r.id || x.noticed else (s.node pos).noticed

/-- The region's cut is complete (R461): every node has sent its notices, every edge end holds one and has accepted the tokens it
names, so that nothing is under way, and the engines have stopped. -/
def State.cutDone (s : State) (r : Region) : Bool :=
  let ns := s.regionNodes r
  (ns.all fun c => s.nodeNoticed r c) && !(s.strobes.any fun m => m.region == r.id) && !(s.wire.any fun w => w.region == r.id) &&
  !s.regionBusy r && !(s.transfers.any fun x => x.region == r.id && x.carry == .sent) &&
  ns.all fun c => (s.outEdges r c).all fun e => (s.ctx e.2.1 e.1.ctx).notices.contains (e.1.port, e.2.2)

/-! ## The freeze (R459, R502) -/

/-- The region is frozen, and its one record is posted. -/
def State.freeze (s : State) (r : Region) (ecc : Bool) : State :=
  let s := s.modRegion r.id fun r => { r with cutAt := some (r.cutAt.getD s.cyc) }
  if !s.canPost r.part then s.waitToPost r.part
  else
    let s := s.modRegion r.id fun r => { r with cut := none, frozen := true, stat := 6 }
    let e : Refuse := if ecc then { cause := Cause.eccUncorr } else { cause := Cause.watchdog, auxv := s.hangAt r.part }
    let i := r.seqInfo e 0
    let i := { i with parked := true, detail := if ecc then 2 else r.cc }
    (s.postFor r (.region ecc) i).releaseAnswers r.id

/-! ## ABORT (R453) -/

/-- The region stops for good; it is released once everything it issued has been performed (R453). A cut that was in progress ends,
and the answers that it held back take effect (R447, R476). -/
def State.abort (s : State) (r : Region) : State :=
  let s := (s.modRegion r.id fun r => { r with aborting := true, cut := none, frozen := false, stat := 5 }).cutNodes r true
  if r.cut.isSome then s.releaseAnswers r.id else s

/-- ABORT (R453, R492). -/
def execCmdAbort (c : Cmd) (s : State) : Out :=
  s.withCmd 9 c fun q part =>
    match s.launchOf part c.lid.toNat with
    | none => s.badCmd q (Cmd.begun c 9 true)
    | some r =>
      if r.waiting then .next ((s.cancelWaiting r).startHead q (Cmd.begun c 9 true))
      else .next ((s.startHead q (Cmd.begun c 9 false)).abort r)

/-- The ABORTs of a launch among a queue's started commands are done. -/
def Queue.abortsDone (x : Queue) (lid : Nat) : Queue :=
  { x with started := x.started.map fun c => if c.cmd = 9 ∧ c.lid = lid then { c with done := true } else c }

/-- The ABORTs of a launch are done. -/
def State.abortsDone (s : State) (r : Region) : State :=
  { s with queues := s.queues.map fun x => (x.1, if x.2.owner = r.part then x.2.abortsDone r.lid else x.2) }

/-- The aborting regions whose issued work has been performed are released (R453); those of a partition in its reset are that
reset's (R496). -/
def State.finishAborts (s : State) : State :=
  (s.regions.filter fun r => r.aborting && (s.partOf r.part).state != 2).foldl (fun s r => if s.regionBusy r then s else (s.endLaunch r).abortsDone r) s

end Sys2Proof.Machine
end

