-- ==== Sys2Proof/Machine/EscrowInsn.lean ====
section
/-! DEFINITION. The Escrow instructions (R467 to R474). -/

namespace Sys2Proof.Machine

/-- A trapping instruction parks the firing's frame (R468): DETAIL is IMM16. -/
def State.trapAt (s : State) (f : Firing) (n : Niw) (auxv : Nat) : Out :=
  s.takeFrameFault s.cur.pos s.cur.slot .trap
    { s.infoOf s.cur.pos f Cause.trap n.imm.toNat with auxv := auxv }

/-- Trap on the lanes that a test picks among the active ones; without any, go on. -/
def State.trapOn (s : State) (n : Niw) (test : Firing → Nat → Bool) : Out :=
  s.withFiring fun f =>
    if f.skipped then .next ((s.countIfSkipped n f).goOn)
    else
      let hit := maskOf f.len fun l => bit (f.eff n.pred) l && test f l
      if hit = 0 then .next s.goOn else s.trapAt f n hit

/-- TRAP (R469). -/
def execTrap (n : Niw) (s : State) : Out := s.trapOn n fun _ _ => true

/-- TRAPIF (R469): the condition of R65 on A and B. -/
def execTrapif (n : Niw) (s : State) : Out :=
  s.trapOn n fun f l =>
    compareAs n.ty false (n.opt.toNat % 16) (s.readSel s.cur.pos f n n.ty 0 n.a l).1 (s.readSel s.cur.pos f n n.ty 1 n.b l).1

/-- FLAGS (R470): the context's sticky flags; 0 in an ME, which sets none (R457). -/
def execFlags (n : Niw) (s : State) : Out :=
  s.result n false 32 fun f => (f.active n.pred).map fun l => (l, { v := (s.ctx s.cur.pos f.ctx).sf % 128, psn := false })

/-- An instruction that acts once per firing whose token mask is not zero (R468). -/
def State.once (s : State) (n : Niw) (act : State → Firing → State) : Out :=
  s.withFiring fun f =>
    if f.skipped then .next ((s.countIfSkipped n f).goOn)
    else if f.tmask = 0 then .next s.goOn
    else .next (act s f).goOn

/-- FLAGC (R470): F and not the mask. -/
def execFlagc (n : Niw) (s : State) : Out :=
  s.once n fun s f => s.modCtx s.cur.pos f.ctx fun x => { x with sf := x.sf &&& (127 - n.imm.toNat % 128) }

/-- POISON (R471). -/
def execPoison (n : Niw) (s : State) : Out :=
  s.result n n.ty.isWide n.ty.width fun f =>
    (f.active n.pred).map fun l =>
      let a := s.readSel s.cur.pos f n n.ty 0 n.a l
      let b := s.readSlot s.cur.pos f n 1 n.b l
      (l, { v := a.1, psn := a.2 || b.2 || b.1 != 0 || f.predPoison n.pred l })

/-- The lane of A is poisoned. -/
def State.poisonedA (s : State) (n : Niw) (f : Firing) (l : Nat) : Bool := (s.readSel s.cur.pos f n n.ty 0 n.a l).2

/-- PCHK.MASK (R472). -/
def execPchkMask (n : Niw) (s : State) : Out :=
  s.result n false 32 fun f => (f.active n.pred).map fun l => (l, { v := b2n (s.poisonedA n f l), psn := false })

/-- PCHK.TRAP (R472). -/
def execPchkTrap (n : Niw) (s : State) : Out := s.trapOn n fun f l => s.poisonedA n f l

/-- PCHK.CNT (R472). -/
def execPchkCnt (n : Niw) (s : State) : Out :=
  s.result n false 32 fun f =>
    let lanes := f.active n.pred
    lanes.map fun l => (l, { v := (lanes.filter (s.poisonedA n f)).length, psn := false })

/-- BEAT (R473): arms the context's beat counter. The record of a later expiry names this firing's tag. -/
def execBeat (n : Niw) (s : State) : Out :=
  s.once n fun s f => s.modCtx s.cur.pos f.ctx fun x =>
    let k := n.imm.toNat % 32
    { x with beat := { arm := true, port := Sel.portIx n.a, k := k, left := 2 ^ k, frame := f.frame, iter := f.iter,
                       len := f.len } }

/-- BEAT.OFF (R473). -/
def execBeatOff (n : Niw) (s : State) : Out :=
  s.once n fun s f => s.modCtx s.cur.pos f.ctx fun x => { x with beat := { x.beat with arm := false } }

/-- The tap slot that TAPM names, on the node's die (R474). -/
def State.tapKey (s : State) (n : Niw) : Nat × Nat := (s.cur.pos.die.toNat, n.imm.toNat % 16)

/-- TAPM of a slot that is not granted to the firing's partition parks the frame (R474). -/
def State.tapRefused (s : State) (f : Firing) (n : Niw) : Out :=
  s.takeFrameFault s.cur.pos s.cur.slot .firing (s.infoOf s.cur.pos f Cause.illegalCfg (0x0800 + n.imm.toNat % 16))

/-- TAPM.ON (R474, R478). -/
def execTapmOn (n : Niw) (s : State) : Out :=
  s.withFiring fun f => s.withRegion f fun r =>
    if f.skipped then .next ((s.countIfSkipped n f).goOn)
    else if f.tmask = 0 then .next s.goOn
    else
      let b := s.taps.get {} (s.tapKey n)
      if !(b.en && b.part == r.part) then s.tapRefused f n
      else match n.d with
        | .o o =>
          .next (({ s with taps := s.taps.set (s.tapKey n) { b with
            v := true, binds := b.binds + 1, pos := s.cur.pos, ctx := f.ctx, port := o.val, edge := s.edgeOf s.cur.pos f.ctx n.d } } : State).goOn)
        | _ => .next s

/-- TAPM.OFF (R474): an OFF of a slot that taps nothing does nothing. -/
def execTapmOff (n : Niw) (s : State) : Out :=
  s.withFiring fun f => s.withRegion f fun r =>
    if f.skipped then .next ((s.countIfSkipped n f).goOn)
    else
      let b := s.taps.get {} (s.tapKey n)
      if f.tmask = 0 ∨ ¬ b.v then .next s.goOn
      else if !(b.en && b.part == r.part) then s.tapRefused f n
      else .next (({ s with taps := s.taps.set (s.tapKey n) { b with v := false } } : State).goOn)

end Sys2Proof.Machine
end

