-- ==== Sys2Proof/Machine/Crypto.lean ====
section
/-! DEFINITION. SHA-256, and the verification of an LMS signature of LMS_SHA256_M32_H20 with LMOTS_SHA256_N32_W4, which the
manual names by their standards (R464, R499 to R501: FIPS 180-4, RFC 8554). -/

namespace Sys2Proof.Machine

/-- The largest number of `k` bits above `r` whose `d`-th power is at most `n`: the bits of the `d`-th root, highest first. -/
def rootBits (d n : Nat) : Nat → Nat → Nat
  | 0, r => r
  | k + 1, r => rootBits d n k (if (r + 2 ^ k) ^ d ≤ n then r + 2 ^ k else r)

/-- The first 32 bits of the fraction of the `d`-th root of a number below 2 ^ 9, as FIPS 180-4 takes its constants. -/
def rootFraction (d n : Nat) : BitVec 32 := BitVec.ofNat 32 (rootBits d (n * 2 ^ (32 * d)) 37 0)

/-- The primes below 312, the first 64. -/
def firstPrimes : List Nat := (List.range 312).filter fun n => 1 < n && (List.range 18).all fun d => d < 2 || n ≤ d || n % d != 0

/-- The round constants: of the cube roots of the first 64 primes. -/
def shaK : List (BitVec 32) := firstPrimes.map (rootFraction 3)

/-- The initial hash value: of the square roots of the first 8 primes. -/
def shaH : List (BitVec 32) := (firstPrimes.take 8).map (rootFraction 2)

/-- A value's bytes, most significant first. -/
def bigBytes (k n : Nat) : List Byte := (toBytes k n).reverse

/-- A message with its padding: whole blocks of 64 bytes. -/
def shaPad (m : List Byte) : List Byte :=
  m ++ [0x80#8] ++ List.replicate ((119 - m.length % 64) % 64) 0 ++ bigBytes 8 (8 * m.length)

/-- 32-bit words of bytes, most significant byte first. -/
def bigWords : List Byte → List (BitVec 32)
  | a :: b :: c :: d :: rest => (a ++ b ++ c ++ d) :: bigWords rest
  | _ => []

/-- The message schedule, extended by `n` words; the words stand latest first. -/
def shaExtend : Nat → List (BitVec 32) → List (BitVec 32)
  | 0, w => w
  | n + 1, w =>
    let x (i : Nat) : BitVec 32 := w.getD i 0
    let s0 := (x 14).rotateRight 7 ^^^ (x 14).rotateRight 18 ^^^ (x 14) >>> 3
    let s1 := (x 1).rotateRight 17 ^^^ (x 1).rotateRight 19 ^^^ (x 1) >>> 10
    shaExtend n ((x 15 + s0 + x 6 + s1) :: w)

/-- One round on the eight working variables. -/
def shaRound (v : List (BitVec 32)) (kw : BitVec 32 × BitVec 32) : List (BitVec 32) :=
  match v with
  | [a, b, c, d, e, f, g, h] =>
    let t1 := h + (e.rotateRight 6 ^^^ e.rotateRight 11 ^^^ e.rotateRight 25) + ((e &&& f) ^^^ (~~~e &&& g)) + kw.1 + kw.2
    let t2 := (a.rotateRight 2 ^^^ a.rotateRight 13 ^^^ a.rotateRight 22) + ((a &&& b) ^^^ (a &&& c) ^^^ (b &&& c))
    [t1 + t2, a, b, c, d + t1, e, f, g]
  | v => v

/-- One block. -/
def shaBlock (h : List (BitVec 32)) (block : List (BitVec 32)) : List (BitVec 32) :=
  let w := (shaExtend 48 block.reverse).reverse
  List.zipWith (· + ·) h ((shaK.zip w).foldl shaRound h)

/-- The blocks of a padded message. -/
def shaBlocks : Nat → List (BitVec 32) → List (BitVec 32) → List (BitVec 32)
  | 0, _, h => h
  | n + 1, ws, h => shaBlocks n (ws.drop 16) (shaBlock h (ws.take 16))

/-- SHA-256 of a message: 32 bytes. -/
def sha256 (m : List Byte) : List Byte :=
  let ws := bigWords (shaPad m)
  (shaBlocks (ws.length / 16) ws shaH).flatMap fun x => bigBytes 4 x.toNat

/-! ## LMS (RFC 8554) -/

/-- The value of bytes that stand most significant first. -/
def bigValue (bs : List Byte) : Nat := ofBytes bs.reverse

/-- A chain of the one-time signature: hashed from step `a` up to step 15. -/
def otsChain (id : List Byte) (i : Nat) : Nat → Nat → List Byte → List Byte
  | 0, _, x => x
  | n + 1, j, x => otsChain id i n (j + 1) (sha256 (id ++ bigBytes 2 i ++ bigBytes 1 j ++ x))

/-- The four-bit digits of bytes, high digit first. -/
def digits (bs : List Byte) : List Nat := bs.flatMap fun b => [b.toNat / 16, b.toNat % 16]

/-- The tree's root from a leaf's node, its number and the path. -/
def lmsRoot (key : List Byte) : List (List Byte) → Nat → List Byte → List Byte
  | [], _, x => x
  | p :: ps, n, x =>
    let pre := key ++ bigBytes 4 (n / 2) ++ bigBytes 2 0x8383
    lmsRoot key ps (n / 2) (sha256 (pre ++ if n % 2 = 1 then p ++ x else x ++ p))

/-- Chunks of 32 bytes. -/
def chunks32 (n : Nat) (bs : List Byte) : List (List Byte) := (List.range n).map fun i => (bs.drop (32 * i)).take 32

/-- A signature of 2,828 bytes over a message verifies under a 56-byte public key. -/
def lmsVerify (pub sig msg : List Byte) : Bool :=
  let key := (pub.drop 8).take 16
  let q := bigValue (sig.take 4)
  let c := (sig.drop 8).take 32
  let y := chunks32 67 (sig.drop 40)
  let path := chunks32 20 (sig.drop 2188)
  let id := key ++ bigBytes 4 q
  let d := digits (sha256 (id ++ bigBytes 2 0x8181 ++ c ++ msg))
  let sum := d.foldl (fun t x => t + (15 - x)) 0
  let ds := d ++ (digits (bigBytes 2 (16 * sum))).take 3
  let z := ((ds.zip y).zipIdx).map fun x => otsChain id x.2 (15 - x.1.1) x.1.1 x.1.2
  let k := sha256 (id ++ bigBytes 2 0x8080 ++ z.flatten)
  let leaf := sha256 (key ++ bigBytes 4 (2 ^ 20 + q) ++ bigBytes 2 0x8282 ++ k)
  sig.length == 2828 && pub.length == 56 && decide (q < 2 ^ 20) && bigValue ((sig.drop 4).take 4) == 3 &&
    bigValue ((sig.drop 2184).take 4) == 8 && bigValue (pub.take 4) == 8 && bigValue ((pub.drop 4).take 4) == 3 &&
    lmsRoot key path (2 ^ 20 + q) leaf == pub.drop 24

end Sys2Proof.Machine
end

