-- ==== Sys2Proof/Machine/Save.lean ====
section
/-! DEFINITION. SNAPSHOT: the slice (R460), the save area (R463, R464), and the end of a saved launch (R465). -/

namespace Sys2Proof.Machine

/-! ## The save area (R464) -/

/-- Escrow cells that a launch uses: one an image, and those in which its parked tokens lie (R443). -/
def State.cellsOf (s : State) (r : Region) : Nat :=
  (s.images.filter fun im => im.region == r.id && im.cell.isSome).length +
    (s.clusters.flatMap fun c => c.2.withdrawn.filterMap fun w =>
      if w.region == r.id then (Buf.escrowPlace? w.piece.buf).map (· / 16) else none).eraseDups.length

/-- NEED. -/
def State.need (s : State) (r : Region) : Nat := 131072 + r.w * r.h * 1179648 + 4096 * s.cellsOf r

/-- SHA-256 of the code object's configuration segment as it stands; free bytes where a read of it fails (log 1). -/
def State.objDigest (s : State) (r : Region) : State × List Byte :=
  match s.gRead none r.part r.obj r.seglim with
  | .inr (s, bs, _) => (s, sha256 bs)
  | .inl _ => (s, (List.range 32).map fun i => BitVec.ofNat 8 (s.free (64 + i)))

/-- Sixteen words as 128 bytes. -/
def headerBytes (ws : List Nat) : List Byte := ws.flatMap fun w => toBytes 8 w

/-- The header of a save area. -/
def saveHeader (r : Region) (status need used time : Nat) (digest objd : List Byte) : List Byte :=
  headerBytes [pack [(16, 0), (8, status), (8, 1), (32, 0x59524b45)],
    pack [(6, 0), (8, r.h), (8, r.w), (6, r.queue), (4, r.part), (32, r.lid)],
    r.obj % 2 ^ 48, need, used, time, 0, 0] ++ digest ++ objd

/-- Bytes written through a partition's page table, line by line; Escrow's writes are not metered (R497). A line that the
table does not let be written is left as it is. -/
def State.writeArea (s : State) (part va : Nat) (bs : List Byte) : State :=
  ((linePieces va bs.length).foldl (fun (a : State × List Byte) p =>
    let s' := match a.1.reach part p.1 true with
      | .inl _ => a.1
      | .inr (spa, dev) => (a.1.unitWrite none (lineOf spa) dev false (cellsAt spa (a.2.take p.2))).1
    (s', a.2.drop p.2)) (s, bs)).1

/-- What the area holds behind the header: a mark of its own, and bytes whose layout the manual leaves to the device
(log 1). -/
def State.saveBody (s : State) (need : Nat) : List Byte :=
  toBytes 8 s.nextSave ++ (List.range (s.free 0 % (need - 135))).map fun i => BitVec.ofNat 8 (s.free (128 + i))

/-- What a launch holds at its cut, as the device keeps it (R463). -/
def State.savedOf (s : State) (r : Region) (sn : Snap) (digest : List Byte) : Saved :=
  let links := (List.range 36).map linkNode
  let ns := r.nodes ++ links.filter fun c => (s.node c).ctxs.any fun x => x.ownedBy r.id
  let mine (c : Coord) : Bool := ns.contains c
  let linkCtx (p k : Nat) : Bool := (s.ctx (linkNode p) k).ownedBy r.id
  { serial := s.nextSave, part := r.part, save := sn.save, digest := digest, region := r,
    nodes := s.nodes.filter fun x => mine x.1, stores := s.stores.filter fun x => mine x.1,
    clusters := s.clusters.filter fun x => r.clusters.contains x.1 || decide (1024 ≤ x.1),
    mes := s.mes.filter fun x => mine x.1, copies := s.copies.filter fun x => mine x.1,
    matrices := s.matrices.filter fun x => mine x.1, tills := s.tills.filter fun x => mine x.1,
    clearing := s.clearing r.id, transfers := s.transfers.filter fun x => x.region == r.id,
    images := s.images.filter fun im => im.region == r.id,
    opens := (s.partOf r.part).opens.filter fun o => o.region == r.id,
    chans := s.links.flatMap fun l => (l.2.chans.filter fun c => linkCtx l.1 (c.1 / 8) && c.2.opened).map fun c => ((l.1, c.1), c.2),
    windows := s.windows.filter fun w => w.2.bound && w.2.bregion == r.id }

/-- Escrow reads the cells of a launch that it saves (R443, R463). -/
def State.readCells (s : State) (r : Region) : State :=
  let mine := s.images.filter fun im => im.region == r.id
  let parked := s.clusters.flatMap fun c => c.2.withdrawn.filter fun w => w.region == r.id
  parked.foldl (fun s w => s.tokenAccess r.id false w.piece.buf) (mine.foldl (fun s im => s.imageAccess r.id false im.cell) s)

/-- A started command of a queue that turns out bad: its record is posted, and it is done (R124). -/
def State.badStarted (s : State) (q entry opc lid : Nat) : State :=
  let part := (s.queue q).owner
  if !s.canPost part then s.waitToPost part
  else (s.postQueue part q lid opc { cause := Cause.badCmd }).finishCmd q entry

/-- The snapshot's command ends. -/
def State.endSnap (s : State) (sn : Snap) : State :=
  ({ s with snaps := s.snaps.filter (· != sn) } : State).finishCmd sn.queue sn.entry

/-- The cut is complete: the save area is written, the region is released, and its command and SNAPSHOT are done (R463 to
R465). -/
def State.save (s : State) (r : Region) (sn : Snap) : State :=
  let need := s.need r
  let body := s.saveBody need
  let digest := sha256 body
  let (s, objd) := s.objDigest r
  let sv := s.savedOf r sn digest
  let s := s.readCells r
  let hdr := saveHeader r 0 need (128 + body.length) (r.cutAt.getD s.cyc) digest objd
  let s := (s.writeArea r.part sn.save (hdr ++ body))
  let s : State := { s with saved := s.saved ++ [sv], nextSave := s.nextSave + 1 }
  ((s.endLaunch r).endSnap sn).releaseAnswers r.id

/-- SAVELEN is below NEED: only the header is written, and the region runs on (R460). -/
def State.saveShort (s : State) (r : Region) (sn : Snap) : State :=
  let need := s.need r
  let (s, objd) := s.objDigest r
  (s.writeArea r.part sn.save (saveHeader r 1 need 128 s.cyc (sha256 []) objd)).endSnap sn

/-- The snapshot's LID, for its record. -/
def State.snapLid (s : State) (sn : Snap) : Nat :=
  match (s.queue sn.queue).started.find? fun c => c.entry == sn.entry with
  | some c => c.lid
  | none => 0

/-- A snapshot goes on as far as R460 lets it: its launch runs, SAVE is aligned, the slice has passed, and SAVELEN suffices;
then its cut starts, or a frozen region is saved as it stands. Its launch's end makes it a bad command. -/
def State.advanceSnap (s : State) (sn : Snap) : State :=
  match s.region sn.region with
  | none =>
    let s' := s.badStarted sn.queue sn.entry 5 (s.snapLid sn)
    if s.canPost (s.queue sn.queue).owner then { s' with snaps := s'.snaps.filter (· != sn) } else s'
  | some r =>
    if r.waiting || r.aborting || r.cut.isSome then s
    else if sn.save % 4096 ≠ 0 || s.lost r then
      let s' := s.badStarted sn.queue sn.entry 5 r.lid
      if s.canPost r.part then { s' with snaps := s'.snaps.filter (· != sn) } else s'
    else if !r.frozen && decide ((s.usec + 2 ^ 64 - r.since) % 2 ^ 64 < (s.queue r.queue).eff) then s
    else if sn.saveLen < s.need r then s.saveShort r sn
    else if r.frozen then s.save r sn
    else s.startCut r (.snapshot sn.queue sn.entry)

/-- SNAPSHOT (R460): it starts at once, and its cut once R460's conditions hold. -/
def execCmdSnapshot (c : Cmd) (s : State) : Out :=
  s.withCmd 5 c fun q part =>
    match s.launchOf part c.lid.toNat with
    | none => s.badCmd q (Cmd.begun c 5 true)
    | some r =>
      let sn : Snap := { queue := q, entry := s.entryOf q, region := r.id, save := bits c.w2.toNat 0 48, saveLen := c.w3.toNat }
      let s := s.startHead q (Cmd.begun c 5 false)
      .next (({ s with snaps := s.snaps ++ [sn] } : State).advanceSnap sn)

/-- SLICE_ELAPSED (R460): a snapshot that waited goes on. Operand i: its place among the snapshots. -/
def execEvSliceElapsed (s : State) : Out :=
  s.withEv fun e =>
    match s.snaps[e.i.toNat]? with
    | none => .next s
    | some sn => .next (s.advanceSnap sn)

/-- CUT_COMPLETE (R463): the cut of a region is complete, and it is frozen or saved. Operand i: the region. -/
def execEvCutComplete (s : State) : Out :=
  s.withEv fun e =>
    match s.region e.i.toNat with
    | none => .next s
    | some r =>
      if !s.cutDone r then .next s
      else match r.cut with
        | none => .next s
        | some (.freeze ecc) => .next (s.freeze r ecc)
        | some (.snapshot q entry) =>
          match s.snaps.find? fun x => decide (x.queue = q ∧ x.entry = entry) with
          | none => .next s
          | some sn => .next (s.save r sn)

end Sys2Proof.Machine
end

