-- ==== Sys2Proof/Machine/Restore.lean ====
section
/-! DEFINITION. RESTORE: the checks of a save area, and a saved launch in a new region (R466, R282, R338, R403, R439); and
REGION_GRANT, which serves LAUNCH and RESTORE (R492). -/

namespace Sys2Proof.Machine

/-! ## The checks (R466) -/

/-- A save area's header and its body, as far as they can be read. -/
def State.readArea (s : State) (part va : Nat) : Option (State × List Word × List Byte) :=
  match s.gRead none part va 128 with
  | .inl _ => none
  | .inr (s, hs, _) =>
    let ws := wordsOfBytes 16 hs
    let used := (ws.getD 4 0).toNat
    if used < 136 ∨ (ws.getD 3 0).toNat < used then some (s, ws, [])
    else match s.gRead none part (va + 128) (used - 128) with
      | .inl _ => some (s, ws, [])
      | .inr (s, bs, _) => some (s, ws, bs)

/-- Four words of a header as bytes. -/
def fourWords (ws : List Word) (i : Nat) : List Byte := ((ws.drop i).take 4).flatMap wordBytes

/-- The saved launch that an area's body stands for. -/
def State.savedIn (s : State) (body : List Byte) : Option Saved :=
  let d := sha256 body
  s.saved.find? fun v => v.serial == ofBytes (body.take 8) && v.digest == d

/-- The region request of a RESTORE (R466): the checks in their order; the reason of the first that fails. An area that cannot be
read fails the first, one whose body no SNAPSHOT has written the third. -/
def State.restoreRequest (s : State) (c : Cmd) (q part : Nat) : Sum Nat (State × Region) :=
  match s.readArea part (bits c.w2.toNat 0 48) with
  | none => .inl 1
  | some (s, ws, body) =>
    let f (i lo k : Nat) : Nat := bits (ws.getD i 0).toNat lo k
    if f 0 32 32 ≠ 0x59524b45 ∨ f 0 24 8 ≠ 1 ∨ f 0 16 8 ≠ 0 then .inl 1
    else if f 1 28 4 ≠ part then .inl 2
    else match s.savedIn body with
      | none => .inl 3
      | some v =>
        if v.digest ≠ fourWords ws 8 then .inl 3
        else
          let r := { s.newLaunch c q part with
            obj := f 2 0 48, hwin := v.region.hwin, olid := v.region.olid, rgw := f 1 14 8, rgh := f 1 6 8, restored := true,
            fromSave := some v.serial }
          match s.readObject r with
          | .inl _ => .inl 4
          | .inr (s, r) =>
            let (s, d) := s.objDigest r
            if d ≠ fourWords ws 12 then .inl 4 else .inr (s, r)

/-- RESTORE (R466): its checks; then it holds at its queue's head until REGION_GRANT serves its request. -/
def execCmdRestore (c : Cmd) (s : State) : Out :=
  s.withCmd 6 c fun q part =>
    if s.asked q then .next s
    else if (s.launchOf part c.lid.toNat).isSome then s.badCmd q (Cmd.begun c 6 true)
    else match s.restoreRequest c q part with
      | .inl reason => s.refuseLaunch q 6 c { detail := 0x0d00 + reason }
      | .inr (s, r) => .next { s with regions := s.regions ++ [r], nextRegion := s.nextRegion + 1 }

/-! ## The move of a launch into its new region -/

/-- How a saved launch moves: its saved region, its new one, and the contexts that its link contexts claim: (port, old context)
to new context. -/
structure Move where
  old : Region
  new : Region
  links : Table (Nat × Nat) Nat

/-- A node's new place: the same place in the region; link nodes stay. -/
def Move.pos (m : Move) (c : Coord) : Coord :=
  match kindOf c with
  | .link | .reserved => c
  | .ce | .me => elemCoord (globalX c + 4 * m.new.gx - 4 * m.old.gx) (globalY c + 4 * m.new.gy - 4 * m.old.gy)
  | _ => clusterNode (clusterOf c + m.new.anchor - m.old.anchor) (nkOf c)

/-- A cluster's new place. -/
def Move.cluster (m : Move) (g : Nat) : Nat := if 1024 ≤ g then g else g + m.new.anchor - m.old.anchor

/-- A context's new number at a node. -/
def Move.ctx (m : Move) (c : Coord) (k : Nat) : Nat := if kindOf c = .link then m.links.get k (portOfLink c, k) else k

/-- A token. -/
def Move.tok (m : Move) (t : Token) : Token := { t with dst := m.pos t.dst, ctx := m.ctx t.dst t.ctx }
/-- A piece. -/
def Move.piece (m : Move) (p : Piece) : Piece := { p with tok := m.tok p.tok }
/-- A token in the Vault or the spill map. -/
def Move.stashed (m : Move) (v : Stashed) : Stashed := { store := m.pos v.store, piece := m.piece v.piece }
/-- A withdrawn token. -/
def Move.withdrawn (m : Move) (w : Withdrawn) : Withdrawn := { region := m.new.id, store := m.pos w.store, piece := m.piece w.piece }

/-- A hold. -/
def Move.hold (m : Move) : Hold → Hold
  | .piece pos job => .piece (m.pos pos) job
  | .matrix pos op => .matrix (m.pos pos) op
  | .pushb pos => .pushb (m.pos pos)
  | .ring pos => .ring (m.pos pos)
  | h => h

/-- What a record says. -/
def Move.info (m : Move) (i : FaultInfo) : FaultInfo := { i with pos := m.pos i.pos, ctx := m.ctx i.pos i.ctx }

/-- A firing, with the tokens that it can give back and a record that waits. -/
def Move.firing (m : Move) (c : Coord) (f : Firing) : Firing :=
  { f with region := m.new.id, ctx := m.ctx c f.ctx, ports := f.ports.map fun p => { p with tok := p.tok.map m.tok },
           due := f.due.map fun x => (m.hold x.1, m.info x.2), xl := [] }

/-- A firing in a slot: its entry comes after those of the node that takes it (R177). -/
def Move.slotFiring (m : Move) (c : Coord) (old : Node) (f : Firing) : Firing := { m.firing c f with entry := old.entries + f.entry }

/-- A matching store; of a link node's, what belongs to the launch. -/
def Move.store (m : Move) (st : Coord) (t old : Store) : Store :=
  let keep (p : Piece) : Bool := kindOf st != .link || (m.links.find (portOfLink st, p.tok.ctx)).isSome
  let f (l : List Piece) : List Piece := (l.filter keep).map m.piece
  { old with
    entries := old.entries ++ f t.entries, overflow := old.overflow ++ f t.overflow, held := old.held ++ f t.held,
    pend := old.pend ++ f t.pend,
    scales := old.scales ++ (t.scales.filter fun h => kindOf st != .link || (m.links.find (portOfLink st, h.tok.ctx)).isSome).map fun h =>
      { h with tok := m.tok h.tok } }

/-- A context from its record as read again and from what was saved of it (R463, R466): the depths, the slot values, the flags,
a Matrix Node's configurations and all that the context was about. -/
def Move.ctxOf (m : Move) (n : Option NodeRec) (nk : Nat) (x : Ctx) : Ctx :=
  let x := { x with owner := x.owner.map fun o => { o with region := m.new.id }, notices := [], cut := false, noticed := false,
                    drained := false }
  match n with
  | none => x
  | some n =>
    let y : Ctx := { x with cw := n.cw, niws := if n.niws.isEmpty then [] else List.replicate n.asCtx.seqBase 0 ++ n.niws, rws := n.words,
                            streams := (List.range 4).map (n.eng 1) }
    let y := [0, 1, 2, 3].foldl (fun y p => y.setDep p (x.dep p)) y
    { y with consts := (List.range 8).map fun i =>
               (if x.slotm i then x.consts.getD i 0 else (Table.find n.consts i).getD (x.consts.getD i 0)),
             slots := if nk = 3 then x.slots else (List.range 8).map (n.eng 2) }

/-- The record of a saved context. -/
def recOf (recs : List (List NodeRec)) (x : Ctx) : Option NodeRec :=
  match x.owner with
  | none => none
  | some o => (recs.getD o.blk []).find? fun n => decide (n.vx = o.vx ∧ n.vy = o.vy ∧ n.nk = o.nk ∧ n.cw ≠ 0 ∧ x.cw ≠ 0)

/-- A node of the region's clusters. -/
def Move.node (m : Move) (recs : List (List NodeRec)) (c : Coord) (t old : Node) : Node :=
  { old with
    ctxs := t.ctxs.map fun x => m.ctxOf (recOf recs x) (nkOf c) x,
    admitted := t.admitted.map (m.firing c), slots := t.slots.map fun f => f.map (m.slotFiring c old),
    outq := t.outq.map fun o => { o with tap := [] }, lastCtx := t.lastCtx, lastIssue := t.lastIssue, entries := old.entries + t.entries,
    cut := false, noticed := false, counts := [] }

/-- A link node: the launch's contexts go to the ones it has claimed, and its firings to free slots, or back among the admitted ones
where other launches hold the slots. -/
def Move.linkNode (m : Move) (recs : List (List NodeRec)) (c : Coord) (t old : Node) : Node :=
  let p := portOfLink c
  let put (n : Node) (k : Nat) : Node :=
    match m.links.find (p, k) with
    | none => n
    | some k' => n.setCtx k' (m.ctxOf (recOf recs (t.ctx k)) 6 (t.ctx k))
  let mine (f : Firing) : Bool := f.region == m.old.id
  let free := (List.range 4).filter fun i => (old.slot i).isNone
  let run := (t.slots.filterMap id).filter mine
  let n := (List.range 8).foldl put old
  let n := { n with
    admitted := old.admitted ++ ((run.drop free.length).map (fun f => ({ f with entry := 0 } : Firing)) ++ t.admitted.filter mine).map (m.firing c),
    entries := old.entries + t.entries,
    outq := old.outq ++ (t.outq.filter fun o => (m.links.find (p, o.ctx)).isSome).map fun o => { o with ctx := m.ctx c o.ctx, tap := [] } }
  (free.zip run).foldl (fun n x => n.setSlot x.1 (some (m.slotFiring c old x.2))) n

/-- A cluster's parts. -/
def Move.clusterOf (m : Move) (t old : Cluster) : Cluster :=
  { old with nextArr := max old.nextArr t.nextArr, vault := t.vault.map m.stashed, spill := t.spill.map m.stashed, shared := t.shared,
             resv := t.resv, withdrawn := [],
             parkSeen := t.parkSeen.map fun x => (m.new.id, x.2) }

/-- A Memory Element: its scratchpad and its streams; translations are made again (R463). -/
def Move.me (t old : Me) : Me :=
  { old with spad := t.spad, undef := t.undef, sst := t.sst, sad := t.sad, sbad := t.sbad, bad := t.bad, sx := [], tlb := [] }

/-- A Copy Engine (R282): its instances, its A FIFO and CP_APOS. -/
def Move.copy (m : Move) (t old : Copy) : Copy :=
  { old with jobs := t.jobs.map fun j => { j with region := m.new.id, due := j.due.map m.info }, ops := t.ops.map fun o => { o with region := m.new.id },
             nextId := t.nextId, fifo := t.fifo.map fun x => { x with region := m.new.id }, apos := t.apos }

/-- A Matrix Node (R337, R338). -/
def Move.matrix (m : Move) (t old : Matrix) : Matrix :=
  { old with acc := t.acc, apsn := t.apsn, bufs := t.bufs, ops := t.ops.map fun o => { o with region := m.new.id }, nextId := t.nextId,
             window := [], latch := t.latch, dit := t.dit, progs := t.progs }

/-- A Till (R403). -/
def Move.till (m : Move) (t : Till) : Till :=
  { t with ops := t.ops.map fun o => { o with region := m.new.id }, asking := t.asking.map m.pos,
           giving := t.giving.map fun g => (m.pos g.1, g.2), seenDie := t.seenDie.map fun x => (m.pos x.1, x.2),
           seenPkg := t.seenPkg.map fun x => (m.pos x.1, x.2) }

/-- A block: its teardown starts afresh, as its nodes send their drained strobes again. -/
def Move.blk (m : Move) (b : Blk) : Blk :=
  { b with phase := .drain, drainedBy := [], awaiting := [], patching := b.patching.map m.pos }

/-- A party set's receipts. -/
def Move.pset (m : Move) (p : PartySet) : PartySet :=
  { p with arrived := p.arrived.map fun a => (a.1, m.pos a.2.1, a.2.2), nextPhase := p.nextPhase.map fun a => (a.1, m.pos a.2.1, a.2.2),
           leaving := p.leaving.map fun a => (a.1, m.pos a.2.1, a.2.2) }

/-- The region as it runs on (R466): what its Sequencer and its Mint held, with the tables read again. `r` is the request,
placed. -/
def Move.region (m : Move) (r : Region) (usec entry : Nat) : Region :=
  let o := m.old
  { r.relocated with
    recWords := [], slotVals := o.slotVals, cc := o.cc, ics := o.ics, trips := o.trips, stat := o.statKept,
    statKept := o.statKept, wcond := o.wcond, tokc := o.tokc, ctxfree := o.ctxfree, sched := o.sched, slotSent := o.slotSent,
    blks := o.blks.map fun b => (b.1, m.blk b.2), frames := o.frames, grants := o.grants, psets := o.psets.map fun p => (p.1, m.pset p.2),
    requests := o.requests.map fun q => (match q with | .pop c k => .pop (m.pos c) k | q => q), granted := o.granted,
    skips := o.skips.map fun x => ((m.pos x.1.1, m.ctx x.1.1 x.1.2.1, x.1.2.2), x.2), entry := entry, since := usec, waiting := false }

/-- The link contexts of a saved launch claim the lowest free ones of their nodes, in ascending order; none when one has to
wait (R406, R439). -/
def State.claimSaved (s : State) (v : Saved) : Option (Table (Nat × Nat) Nat) :=
  let all := (List.range 36).flatMap fun p => ((List.range 8).filter fun k =>
    ((v.nodes.get {} (linkNode p)).ctx k).ownedBy v.region.id).map fun k => (p, k)
  all.foldl (fun acc x => acc.bind fun t =>
    ((List.range 8).find? fun k => s.ctxFree (linkNode x.1) k && !t.any fun y => y.1.1 == x.1 && y.2 == k).map fun k => t ++ [(x, k)])
    (some [])

/-- A record posted again (R466): with a new RECNO and TIME, the new LID and queue, and its node's new place. -/
def State.repost (s : State) (m : Move) (o : OpenRec) : State × Nat :=
  let r := m.new
  let recno := (s.partOf r.part).recno
  let c := m.pos o.pos
  let w (i : Nat) : Nat := (o.words.getD i 0).toNat
  let at0 := pack [(5, c.y.toNat), (6, c.x.toNat), (4, c.die.toNat)]
  let words := [setBits (setBits (w 0) 41 15 at0) 35 3 (m.ctx o.pos o.ctx), setBits (w 1) 54 6 r.queue, w 2, w 3, s.cyc, w 5,
                setBits (w 6) 32 32 recno, setBits (w 7) 32 32 r.lid].map (BitVec.ofNat 64)
  (s.modPart r.part fun p =>
    { p with recno := (p.recno + 1) % 2 ^ 32, held := p.held ++ [{ words := words }],
             opens := p.opens ++ [{ o with recno := recno, region := r.id, pos := c, ctx := m.ctx o.pos o.ctx, hold := m.hold o.hold,
                                           words := words }] }, recno)

/-- The records that a saved launch had open are posted again, and its images name the new ones (R466). The record of a freeze
ends with it. -/
def State.repostAll (s : State) (m : Move) (v : Saved) : State :=
  let os := v.opens.filter fun o => match o.hold with
    | .region _ => false
    | _ => true
  let (s, names) := os.foldl (fun (a : State × List (Nat × Nat)) o =>
    let x := a.1.repost m o
    (x.1, a.2 ++ [(o.recno, x.2)])) (s, [])
  v.images.foldl (fun s im =>
    let cell := if im.cell.isSome then s.freeEscrowCell m.new.part else none
    let s := s.imageAccess m.new.id true cell
    { s with images := s.images ++ [{ im with
        region := m.new.id, pos := m.pos im.pos, firing := { m.firing im.pos im.firing with entry := 0 }, recno := im.recno.map fun n => Table.get names n n,
        cell := cell }] }) s

/-- The withdrawn tokens of a saved launch take their places of R444 afresh, as Escrow allocates their cells (R466 step 4); one
that finds none keeps an Escrow slot (log 46). -/
def State.parkSaved (s : State) (m : Move) (g : Nat) (l : List Withdrawn) : State :=
  l.foldl (fun s w =>
    let put (b : Buf) : State :=
      (s.modCluster g fun c => { c with withdrawn := c.withdrawn ++ [{ w with piece := { w.piece with buf := b } }] }).tokenAccess
        m.new.id true b
    match w.piece.buf with
    | .escrowSlot | .cell _ => match s.withdrawnPlace m.new.id g with
      | some b => put b
      | none => put .escrowSlot
    | b => put b) s

/-- The channels open again with MSN and DSN 0, and the windows are bound again; a binding that BIND would refuse parks its
frame (R436, R439). -/
def State.relink (s : State) (m : Move) (v : Saved) : State :=
  let s := v.chans.foldl (fun s c =>
    let j := 8 * m.links.get 0 (c.1.1, c.1.2 / 8) + c.1.2 % 8
    s.modChan c.1.1 j fun x => { x with opened := true, desc := c.2.desc, base := c.2.base, msn := 0, dsn := 0 }) s
  v.windows.foldl (fun s w =>
    let x := s.win w.1
    let k := m.links.get 0 (w.2.port, w.2.bctx)
    let r := m.new
    if x.en && x.part == r.part && x.port == w.2.port && !x.bound && decide (5 ≤ (s.frame r.id w.2.bframe).s) then
      s.modWin w.1 fun x => { x with bound := true, bctx := k, bport := w.2.bport, bframe := w.2.bframe, bregion := r.id }
    else
      let i : FaultInfo := { cause := Cause.illegalCfg, detail := 768, pos := linkNode w.2.port, nk := 6, ctx := k, frame := w.2.bframe,
                             auxv := w.1, parked := true }
      match s.region r.id with
      | some r => ((s.tcntSub r.id w.2.bframe 1).postFor r .firing i).parkFrame r w.2.bframe
      | none => s) s

/-- Each entry of a table is put at its new key. -/
def putAll {κ α : Type} [DecidableEq κ] (t : Table κ α) (d : α) (key : κ → κ) (f : κ → α → α → α) (l : Table κ α) : Table κ α :=
  l.foldl (fun t x => t.set (key x.1) (f x.1 x.2 (t.get d (key x.1)))) t

/-- A saved launch runs on in the rectangle of its request `r` (R466). -/
def State.restore (s : State) (r : Region) (v : Saved) (links : Table (Nat × Nat) Nat) (entry : Nat) : State :=
  let m : Move := { old := v.region, new := r, links := links }
  let recs := r.patchedRecords
  let link (c : Coord) : Bool := kindOf c == .link
  let clusters := v.clusters.filter fun x => decide (x.1 < 1024)
  let pools := v.clusters.filter fun x => decide (1024 ≤ x.1)
  let mine (p : Coord) (q : Piece) : Bool := (links.find (portOfLink p, q.tok.ctx)).isSome && q.buf.inPool && q.buf != .chit
  let s : State := { s with
    nodes := putAll s.nodes {} m.pos (fun c t old => if link c then m.linkNode recs c t old else m.node recs c t old) v.nodes,
    stores := putAll s.stores {} m.pos m.store v.stores,
    clusters := putAll s.clusters {} m.cluster (fun _ => m.clusterOf) clusters,
    mes := putAll s.mes {} m.pos (fun _ => Move.me) v.mes, copies := putAll s.copies {} m.pos (fun _ => m.copy) v.copies,
    matrices := putAll s.matrices {} m.pos (fun _ => m.matrix) v.matrices,
    tills := putAll s.tills {} m.pos (fun _ t _ => m.till t) v.tills,
    clearings := s.clearings.set r.id { v.clearing with pass := 0, die := [], dieStart := [], pkg := none, pkgStart := none,
                                                        startAt := s.cyc + 1024 },
    transfers := s.transfers ++ v.transfers.zipIdx.map (fun x =>
      ({ x.1 with id := s.nextTransfer + x.2, src := m.pos x.1.src, dst := m.pos x.1.dst, region := r.id } : Transfer)),
    nextTransfer := s.nextTransfer + v.transfers.length }
  let s := pools.foldl (fun s x =>
    let c := linkNode (x.1 - 1024)
    let t := v.stores.get {} c
    let n := ((t.entries ++ t.overflow ++ t.held ++ t.pend).filter (mine c)).length
    s.modCluster x.1 fun old => { old with nextArr := max old.nextArr x.2.nextArr, shared := old.shared + n }) s
  let s := s.modRegion r.id fun r => m.region r s.usec entry
  let s := v.clusters.foldl (fun s x =>
    s.parkSaved m (m.cluster x.1) ((x.2.withdrawn.filter fun w => w.region == m.old.id).map m.withdrawn)) s
  match s.region r.id with
  | none => s
  | some r' =>
    let s := (r'.blks.filter fun b => b.2.resident).foldl (fun s b => s.resolve r' b.1) s
    let s := (s.repostAll m v).relink m v
    let held := (s.partOf r.part).held
    if heldMax < held.length then
      -- The records that the device has no room for wait, and the region with them (R466, R495).
      let s := s.modPart r.part fun p =>
        { p with held := held.take heldMax, backlog := held.drop heldMax, restoring := some r.id, waiting := true }
      s.modRegion r.id fun r => { r with frozen := true }
    else match s.region r.id with
      | some r' => s.rematch r'
      | none => s

/-! ## REGION_GRANT (R101, R466, R492) -/

/-- A LAUNCH (`opc` 1) or RESTORE (6) that its region's checks refuse: the region goes, and the command is done. While the device's
record queue is full nothing of the grant stands, and the command waits (R495). -/
def State.refuseGranted (s placed : State) (r : Region) (opc : Nat) (c : Cmd) (e : Refuse) : State :=
  if !s.canPost r.part then s.waitToPost r.part
  else
    let i := { r.seqInfo e opc with detail := e.detail, parked := false }
    let s := placed.post r.part r.queue r.lid i
    ({ s with regions := s.regions.filter fun x => x.id != r.id } : State).startHead r.queue (Cmd.begun c opc true)

/-- The granted region of a LAUNCH takes steps 4 to 8 of R101. -/
def State.grantLaunch (s placed : State) (r : Region) (c : Cmd) : State :=
  let entry := s.entryOf r.queue
  match placed.launchSteps { r with entry := entry } c with
  | .inl e => s.refuseGranted placed r 1 c e
  | .inr s => s.startHead r.queue (Cmd.begun c 1 false)

/-- REGION_GRANT (R492). Operand i: the region. Requests of one partition are served in order, each with the first rectangle that
fits. A RESTORE into a rectangle that a routing word of the object does not fit (R16, R70, R112) is refused for the fourth reason of R466
(DEDUCED, log 103). -/
def execEvRegionGrant (s : State) : Out :=
  s.withEv fun e =>
    match s.region e.i.toNat with
    | none => .next s
    | some r =>
      if !r.waiting || !s.partRuns r.part || decide ((s.nextRequest r.part).map (·.id) ≠ some r.id) then .next s
      else match s.findRect r.part r.wanted.1 r.wanted.2, s.headCmd r.queue with
        | some (gx, gy), some (_, c) =>
          let r := { r with gx := gx, gy := gy, w := r.wanted.1, h := r.wanted.2 }
          let placed := (s.modRegion r.id fun _ => r).setSlice r
          match r.fromSave with
          | none => .next (s.grantLaunch placed r c)
          | some k =>
            match s.saved.find? fun v => v.serial == k with
            | none => .next s
            | some v =>
              if !v.opens.isEmpty && !s.canPost r.part then .next (s.waitToPost r.part)
              else if !r.refoldOk then .next (s.refuseGranted placed r 6 c { detail := 0x0d04 })
              else match s.claimSaved v with
              | none => .next s
              | some links => .next ((placed.restore r v links (s.entryOf r.queue)).startHead r.queue (Cmd.begun c 6 false))
        | _, _ => .next s

/-! ## COMPLETION_WRITE (R125) -/

/-- The completion of the earliest started command of a queue is published, when it is done. -/
def State.publishHead (s : State) (q : Nat) : State :=
  match (s.queue q).started with
  | [] => s
  | c :: rest =>
    if !c.done then s
    else
      let s := s.modQueue q fun x => { x with started := rest }
      if c.cen && !c.silent && s.ownsNfy (s.queue q).owner c.cnfy then s.nfyMax c.cnfy c.cval else s

/-- COMPLETION_WRITE (R125, R453): a queue's earliest started command publishes its completion. Launches that ABORT ends and
answers that have come to their end complete first. Operand i: the queue. -/
def execEvCompletionWrite (s : State) : Out :=
  s.withEv fun e => .next ((s.finishAborts.settleAnswers).publishHead e.i.toNat)

end Sys2Proof.Machine
end

