-- ==== Sys2Proof/Machine/Registers.lean ====
section
/-! DEFINITION. The register space: what a host read of BAR0 returns (R484, R487 to R490), with the layouts of the device
registers, of the partition blocks and of the debug windows (R103, R144, R145, R165, R182, R238, R257, R300, R339, R404, R440,
R475, R477). -/

namespace Sys2Proof.Machine

/-! ## Words of the registers -/

/-- A register's word from its fields, lowest first. -/
def regWord (l : List (Nat × Nat)) : Word := BitVec.ofNat 64 (pack l)

/-- A flag as a field of one bit. -/
def flagBit (b : Bool) : Nat × Nat := (1, b2n b)

/-- LEAVES and the rest of FW_STAT (R499). -/
def Dev.fwStat (d : Dev) : Word :=
  regWord [(24, d.leaves), (16, d.minSvn), (16, d.svn), (7, d.fwResult), flagBit d.fwBusy]

/-- CL_OWNERg (R490). -/
def Dev.ownerReg (d : Dev) (g : Nat) : Word :=
  let o := d.owner.get (false, 0) g
  regWord [(59, 0), (4, o.2), flagBit o.1]

/-- CXM_MAPi (R490). -/
def Dev.cxmReg (d : Dev) (i : Nat) : Word :=
  let m := d.cxm.get (false, 0, 0) i
  regWord [(30, 0), (18, m.2.2), (15, m.2.1), flagBit m.1]

/-- DEV_HBASE and HS_SPLIT (R342, R490). -/
def Dev.hbaseReg (d : Dev) : Word := regWord [(30, 0), (18, d.hbase)]
def Dev.splitReg (d : Dev) : Word := regWord [flagBit d.wsErr, (59, 0), (4, d.ws)]

/-- DEV_STAT (R490). -/
def Dev.stat (d : Dev) : Word := regWord [(50, 0), (3, d.thr), (8, d.temp), (3, d.state)]

/-- The device registers by their places from offset 0 (R487). -/
def State.devReg (s : State) (k : Nat) : Word :=
  let d := s.dev
  match k with
  | 0 => Config.devId
  | 1 => d.stat
  | 2 => BitVec.ofNat 64 s.cyc
  | 3 => BitVec.ofNat 64 s.usec
  | 4 => d.hbaseReg
  | 5 => d.splitReg
  | 6 => regWord [(52, 0), (12, d.cap)]
  | 7 => regWord [(32, d.uncorr), (32, d.corr)]
  | 8 => regWord [(56, 0), (8, d.hours)]
  | 9 => d.fwCtl
  | 10 => d.fwStat
  | 11 => regWord [(46, 0), (18, d.devno)]
  | 12 => regWord [(48, 0), (5, d.cape), (5, d.t0e), (6, d.wm1)]
  | 13 => regWord [(53, 0), (11, d.tq)]
  | k => if k < 22 then d.cxmReg (k - 14) else 0

/-- A home slice's registers (R368). -/
def State.sliceReg (s : State) (h k : Nat) : Word :=
  let x := s.slice h
  match k with
  | 0 => regWord [(48, x.seq), (16, 0)]
  | 1 => regWord [(32, x.writes), (32, x.atoms)]
  | 2 => regWord [(32, x.misses), (32, x.hits)]
  | _ =>
    let dirty := x.sets.foldl (fun n t => n + (t.2.filter (·.2)).length) 0
    regWord [(25, 0), (13, dirty), (13, 16 * (384 - 48 * s.dev.ws)), (13, 768 * s.dev.ws)]

/-- A receive window's registers (R440). -/
def State.windowReg (s : State) (w k : Nat) : Word :=
  let x := s.win w
  match k with
  | 0 => regWord [(28, 0), (3, x.bctx), flagBit x.bound, (5, x.arrivals.length), (16, x.rkey), (6, x.port), (4, x.part), flagBit x.en]
  | 1 => regWord [(48, x.gbase)]
  | 2 => regWord [(38, x.len)]
  | _ => 0

/-- The partition that a link context belongs to, one whose block has left and whose channels are not all closed among them (R439). -/
def State.linkOwner (s : State) (p k : Nat) : Option Nat :=
  match (s.ctx (linkNode p) k).owner with
  | some o => (s.region o.region).map (·.part)
  | none => ((s.link p).leaving.find? fun x => x.1 == k).map (·.2)

/-- A link port's registers (R440). -/
def State.portReg (s : State) (p k : Nat) : Word :=
  let l := s.link p
  match k with
  | 0 => regWord [(32, l.replays), (16, l.badPkt), (15, 0), flagBit l.up]
  | 1 => BitVec.ofNat 64 l.trimTx
  | 2 => BitVec.ofNat 64 l.trimRx
  | 3 => regWord [(32, l.rrRecv), (32, l.rrSent)]
  | 4 => regWord [(32, l.lostRx), (32, l.retx)]
  | 5 => regWord ((List.range 8).map (fun c => (4, (s.linkOwner p c).getD 0)) ++ [(24, 0)] ++
      (List.range 8).map fun c => flagBit (s.linkOwner p c).isSome)
  | 6 => BitVec.ofNat 64 l.psup
  | _ => 0

/-- A tap slot's registers (R477). -/
def State.tapReg (s : State) (d t k : Nat) : Word :=
  let x := s.taps.get {} (d, t)
  match k with
  | 0 => regWord [(59, 0), (4, x.part), flagBit x.en]
  | 1 => regWord [(48, x.base), (12, 0), (4, x.lgsz)]
  | 2 =>
    if x.v then regWord [(34, 0), (13, x.edge), (2, x.port), (3, x.ctx), (5, x.pos.y.toNat), (6, x.pos.x.toNat), (1, 1)] else 0
  | 3 => BitVec.ofNat 64 x.wp
  | 4 => BitVec.ofNat 64 x.rp
  | 5 => BitVec.ofNat 64 x.lost
  | _ => 0

/-- QE_CTL, QE_STAT and QE_SLICE (R121, R460). -/
def Queue.ctl (x : Queue) : Word := regWord [(56, 0), (4, x.owner), (3, 0), flagBit x.en]
def Queue.stat (x : Queue) : Word :=
  regWord [(32, x.drops), (8, 0), flagBit x.sliceup, flagBit x.ovf, flagBit x.badwr, (7, 0), (7, 64 - x.fifo.length)]
def Queue.slice (x : Queue) : Word := regWord [(20, x.min), (20, x.eff)]

/-- NFY_CTLk (R126). -/
def Notify.ctl (n : Notify) : Word :=
  regWord [(32, 0), (11, n.vec), (13, 0), (4, n.owner), (2, 0), flagBit n.armed, flagBit n.msien]

/-- PART_PTR (R490). -/
def Partition.ptrReg (p : Partition) : Word := regWord [(12, 0), (36, p.ptrRoot), (15, 0), flagBit p.ptrV]

/-- Partition block registers by their places (R490). -/
def Partition.reg (p : Partition) (k : Nat) : Word :=
  match k with
  | 0 => regWord [(60, 0), (2, p.state), flagBit p.rst, flagBit p.en]
  | 1 => p.ptrReg
  | 2 => regWord [(12, 0), (36, p.invVa), (14, 0), flagBit p.invAll, (1, 0)]
  | 3 => p.fqBase
  | 4 => BitVec.ofNat 64 p.head
  | 5 => BitVec.ofNat 64 p.tail
  | 6 => regWord [(32, p.waitc), (25, 0), (7, p.held.length)]
  | 7 => regWord [(49, 0), (14, p.budPer), flagBit p.budEn]
  | 18 => p.escArea
  | 19 => regWord [(58, 0), (5, p.wdExp), flagBit p.wdEn]
  | 20 => BitVec.ofNat 64 p.dbgSel
  | k => if k < 13 then BitVec.ofNat 64 (p.lims.getD (k - 8) 0) else if k < 18 then BitVec.ofNat 64 (p.uses.getD (k - 13) 0) else 0

/-! ## The debug window (R489) -/

/-- The Sequencer's registers (R103): SEQ_CC, SEQ_IC0 to 3, SEQ_LC0 to 3, SEQ_RES, SEQ_STAT. -/
def Region.seqReg (r : Region) (k : Nat) : Word :=
  if k = 0 then BitVec.ofNat 64 r.cc
  else if k < 5 then
    let i := r.ics.getD (k - 1) {}
    regWord [(13, i.count), (3, 0), (13, i.limit), (3, 0), (6, i.blk), (10, i.frame), (15, 0), flagBit i.act]
  else if k < 9 then BitVec.ofNat 64 (r.trips.getD (k - 5) 0)
  else if k = 9 then BitVec.ofNat 64 (maskOf 64 fun b => (r.blk b).resident)
  else if k = 10 then regWord [(32, r.tokc), (16, 0), (8, r.ctxfree), (5, r.wcond), (3, r.stat)]
  else 0

/-- A frame-table entry (R145). -/
def Frame.reg (f : Frame) : Word :=
  regWord [(31, f.age), (20, f.tcnt), (6, f.blk), (4, f.s), flagBit f.parked, (2, f.state)]

/-- A party-set entry (R165). -/
def PartySet.reg (p : PartySet) : Word :=
  regWord [(32, p.phase), (8, 0), (11, p.arrived.length), (11, p.members.length), (2, p.scope)]

/-- The Token Engine's and the write buffer's registers of a cluster (R144, R238). -/
def Cluster.teReg (c : Cluster) (k : Nat) : Word :=
  match k with
  | 0 => regWord [(27, 0), (6, 32 - c.shared), (9, c.resv), (11, min c.spillUsed 2047), (11, c.vault.length)]
  | 1 => regWord [(32, c.toSmap), (32, c.toVault)]
  | 2 => BitVec.ofNat 64 c.bpc
  | 3 => regWord [(32, c.drains), (26, 0), (6, c.wb.length)]
  | _ => 0

/-- ESC_STATp and ESC_CL (R475). -/
def State.escReg (s : State) (p g k : Nat) : Word :=
  let x := s.partOf p
  let c := s.cluster g
  match k with
  | 0 =>
    let pfr := (s.regions.filter fun r => r.part == p).foldl (fun n r => n + (r.frames.filter fun f => f.2.parked).length) 0
    regWord [(20, x.stuck), (17, s.escrowCells p), (16, min x.opens.length 65535), (11, pfr)]
  | 1 => regWord [(32, c.psup), (25, 0), (7, (c.withdrawn.filter fun w => w.piece.buf == .escrowSlot).length)]
  | _ => 0

/-- The registers that a CE, an NU and the other nodes with sticky flags show: flags of contexts, FIRES and ZFIRES, PASSES
(R182, R257). -/
def Node.issueReg (n : Node) (k : Nat) : Word :=
  if k < 8 then BitVec.ofNat 64 (n.ctx k).sf
  else if k = 8 then regWord [(32, n.zfires), (32, n.fires)]
  else if k = 9 then BitVec.ofNat 64 n.passes
  else 0

/-- A Copy Engine's registers (R300). -/
def State.copyReg (s : State) (pos : Coord) (k : Nat) : Word :=
  let c := s.copy pos
  let running := c.jobs.filter (·.running)
  if k = 0 then regWord [(29, 0), (16, c.adrop), (9, c.fifo.length), (3, running.length), (7, c.jobs.length)]
  else if k < 5 then
    match running.find? fun j => j.slot == k - 1 with
    | some j => regWord [(32, j.piece), (2, 0), (16, j.c.jobid), (10, j.frame), (3, j.ctx), (1, 1)]
    | none => 0
  else if k = 5 then regWord [(32, c.pieceCnt), (32, c.jobCnt)]
  else if k = 6 then BitVec.ofNat 64 c.apos
  else if k = 7 then BitVec.ofNat 64 c.psup
  else if k < 16 then BitVec.ofNat 64 (s.ctx pos (k - 8)).sf
  else 0

/-- A Till's registers in the order of their chapter's rulers: WL_CFG (R372), then those of R404; WL_CLR at the anchor's Till
(log 21). -/
def State.tillReg (s : State) (g k : Nat) : Word :=
  let t := s.till (clusterNode g 5)
  match k with
  | 0 => t.cfg
  | 1 => BitVec.ofNat 64 t.rbase
  | 2 => regWord [(32, t.ldie), (32, t.lpkg)]
  | 3 => regWord [(32, t.locLow), (32, t.wb)]
  | 4 => regWord [(39, 0), (11, t.inService.length), (11, t.tasks.length), flagBit t.hold, flagBit t.term, flagBit t.cfgd]
  | 5 => regWord [(27, t.ringCount), (5, 0), (32, t.spmin)]
  | 6 => BitVec.ofNat 64 t.pending
  | 7 => regWord [(32, t.recv), (32, t.sent)]
  | 8 => regWord [(32, t.retires), (32, t.pops)]
  | 9 => regWord [(32, t.refills), (32, t.spills)]
  | 10 => regWord [(32, t.given), (32, t.stolen)]
  | 11 => BitVec.ofNat 64 t.psup
  | 12 => match s.regions.find? fun r => r.anchor == g && decide (0 < r.w) with
    | some r => let c := s.clearing r.id; regWord [(2, c.pass), (30, 0), (32, c.waves)]
    | none => regWord [(2, t.clr.2), (30, 0), (32, t.clr.1)]
  | _ => 0

/-- A run's MN_RUN word (R339). -/
def MnOp.runReg (o : MnOp) : Word :=
  match o.work with
  | .run port out dit i0 n _ _ =>
    regWord [(22, 0), (13, n), (7, i0), (3, o.slot), (10, o.frame), (3, o.ctx), (1, o.cfg.bsel), flagBit dit, flagBit out,
             flagBit port.isSome, flagBit o.parked, (1, 1)]
  | _ => 0

/-- The run in a run slot. -/
def Matrix.runIn (m : Matrix) (k : Nat) : Option MnOp :=
  m.ops.find? fun o => o.runSlot == k && match o.work with
    | .run .. => true
    | _ => false

/-- A Matrix Node's registers (R339). -/
def State.matrixReg (s : State) (pos : Coord) (k : Nat) : Word :=
  let m := s.matrix pos
  if k = 0 then
    let runs := ((List.range 4).filter fun i => (m.runIn i).isSome).length
    regWord [(38, 0), (3, m.window.length), (3, runs), (8, (m.buf 1).chk), (8, (m.buf 0).chk), (2, (m.buf 1).st), (2, (m.buf 0).st)]
  else if k < 5 then match m.runIn (k - 1) with
    | some o => o.runReg
    | none => 0
  else if k < 9 then BitVec.ofNat 64 (m.progs.getD (k - 5) 0)
  else if k = 9 then regWord [(32, m.zrows), (32, m.rows)]
  else if k = 10 then BitVec.ofNat 64 m.pairs
  else if k < 19 then BitVec.ofNat 64 (s.ctx pos (k - 11)).sf
  else if k = 19 then regWord [(56, 0), (8, m.dit)]
  else if k = 20 then BitVec.ofNat 64 m.psup
  else if k = 21 then BitVec.ofNat 64 (m.apsn % 2 ^ 64)
  else if k = 22 then BitVec.ofNat 64 (m.apsn / 2 ^ 64)
  else 0

/-- A beat counter (R475). -/
def Beat.reg (b : Beat) : Word := regWord [(31, b.left), (25, 0), (5, b.k), (2, b.port), flagBit b.arm]

/-- A Memory Element's registers (R211, R238). -/
def State.meReg (s : State) (pos : Coord) (k : Nat) : Word :=
  let m := s.me pos
  if k < 32 then m.sst.get 0 (k / 4, k % 4)
  else if k < 64 then m.sad.get 0 ((k - 32) / 4, (k - 32) % 4)
  else if k = 64 then regWord [(32, m.bkcyc), (32, m.acc)]
  else if k = 65 then BitVec.ofNat 64 (s.node pos).psup
  else if k = 66 then
    match s.regionAt pos with
    | some r => regWord [(46, 0), (9, s.cellsUsed r pos), (9, r.cells)]
    | none => regWord [(46, 0), (9, 0), (9, 320)]
  else 0

/-- A cluster's page of its owner's debug window, by 8-byte word (R489). -/
def State.clusterPage (s : State) (p g w : Nat) : Word :=
  let anchor := s.regions.find? fun r => r.part == p && decide (0 < r.w) && r.anchor == g
  let ces := clusterCes g
  let mes := clusterMes g
  if w < 0x20 then (match anchor with | some r => r.seqReg w | none => 0)
  else if w < 0x40 then (s.cluster g).teReg (w - 0x20)
  else if w < 0x80 then s.escReg p g (w - 0x40)
  else if w < 0x100 then (match anchor with | some r => if w < 0xc0 then (r.pset (w - 0x80)).reg else 0 | none => 0)
  else if w < 0x180 then (s.node (ces.getD ((w - 0x100) / 16) (mkCoord 0 0 0))).issueReg ((w - 0x100) % 16)
  else if w < 0x1a0 then (s.node (clusterNode g (1 + (w - 0x180) / 16))).issueReg ((w - 0x180) % 16)
  else if w < 0x1c0 then s.copyReg (clusterNode g 4) (w - 0x1a0)
  else if w < 0x1e0 then s.tillReg g (w - 0x1c0)
  else if w < 0x200 then s.matrixReg (clusterNode g 3) (w - 0x1e0)
  else if w < 0x280 then ((s.ctx ((ces ++ mes).getD ((w - 0x200) / 8) (mkCoord 0 0 0)) (w % 8)).beat).reg
  else if w < 0x400 then 0
  else if w < 0x800 then s.meReg (mes.getD ((w - 0x400) / 128) (mkCoord 0 0 0)) ((w - 0x400) % 128)
  else if w < 0xc00 then (match anchor with | some r => (r.frame (w - 0x800)).reg | none => 0)
  else if w < 0x2000 then 0
  else
    let row := ((s.matrix (clusterNode g 3)).accRow ((w - 0x2000) / 64))
    let j := (w - 0x2000) % 64
    regWord [(32, (row.getD (2 * j) 0).toNat), (32, (row.getD (2 * j + 1) 0).toNat)]

/-- LE_CHj, LE_CHNj and LE_CHCj (R440). -/
def LinkNode.chanReg (l : LinkNode) (j k : Nat) : Word :=
  let c := l.chan j
  match k with
  | 0 => regWord [(4, 0), (24, c.msn), (7, l.outs j), (8, c.win), (18, c.ddev), (1, c.tc), flagBit c.ord, flagBit c.opened]
  | 1 => regWord [(40, 0), (24, c.dsn)]
  | _ => regWord [(24, c.msgs), (8, c.lost), (16, c.retx), (16, c.trims)]

/-- A word of a partition's debug window (R489). A page of a cluster that the partition does not own reads 0, and so does a
channel whose context it does not own. -/
def State.debugWord (s : State) (p w : Nat) : Word :=
  let sel := (s.partOf p).dbgSel
  if sel < 768 then (if s.dev.owner.get (false, 0) sel = (true, p) then s.clusterPage p sel w else 0)
  else if sel < 804 then
    let j := w / 3
    if j < 64 ∧ s.linkOwner (sel - 768) (j / 8) = some p then (s.link (sel - 768)).chanReg j (w % 3) else 0
  else 0

/-! ## The map (R487) -/

/-- The register at an 8-byte-aligned offset of BAR0, as a READY device shows it; 0 where no rule places one. -/
def State.regAt (s : State) (off : Nat) : Word :=
  let k (base : Nat) : Nat := (off - base) / 8
  if off < 0x10000 then s.devReg (k 0)
  else if off < 0x20000 then (if k 0x10000 < 768 then s.dev.ownerReg (k 0x10000) else 0)
  else if off < 0x30000 then (if k 0x20000 / 4 < 256 then s.sliceReg (k 0x20000 / 4) (k 0x20000 % 4) else 0)
  else if off < 0x34000 then (if k 0x30000 / 4 < 256 then s.windowReg (k 0x30000 / 4) (k 0x30000 % 4) else 0)
  else if off < 0x36000 then (if k 0x34000 / 8 < 36 then s.portReg (k 0x34000 / 8) (k 0x34000 % 8) else 0)
  else if off < 0x40000 then
    (if k 0x36000 < 128 then BitVec.ofNat 64 (s.dev.xtrim.get 0 (k 0x36000 / 16, k 0x36000 % 16)) else 0)
  else if off < 0x50000 then (if k 0x40000 / 8 < 128 then s.tapReg (k 0x40000 / 8 / 16) (k 0x40000 / 8 % 16) (k 0x40000 % 8) else 0)
  else if off < 0x70000 then (if k 0x50000 < 64 then (s.queue (k 0x50000)).ctl else 0)
  else if off < 0x400000 then (if k 0x70000 < 256 then (s.nfy (k 0x70000)).ctl else 0)
  else if off < 0x800000 then
    let p := (off - 0x400000) / 0x40000
    let o := (off - 0x400000) % 0x40000
    if o < 0x20000 then (s.partOf p).reg (o / 8) else s.debugWord p ((o - 0x20000) / 8)
  else if off < 0x1000000 then
    let q := (off - 0x800000) / 0x2000
    let o := (off - 0x800000) % 0x2000
    if 64 ≤ q then 0 else if o = 0x1000 then (s.queue q).stat else if o = 0x1008 then (s.queue q).slice else 0
  else
    let n := (off - 0x1000000) / 0x1000
    let o := (off - 0x1000000) % 0x1000
    if 256 ≤ n then 0 else if o = 0 then (s.nfy n).value else if o = 8 then (s.nfy n).ctl else 0

/-- A host read of `k` bytes at an offset of BAR0 (R488): an access of any other size or alignment than 8 bytes reads 0. A
halted device shows DEV_STAT only, and one in RECOVERY the device registers only (R498, R503). -/
def State.readBar (s : State) (off k : Nat) : Word :=
  if k ≠ 8 ∨ off % 8 ≠ 0 ∨ 2 ^ 25 ≤ off then 0
  else if s.dev.state = 4 ∧ off ≠ 8 then 0
  else if s.dev.state = 1 ∧ 0x10000 ≤ off then 0
  else s.regAt off

end Sys2Proof.Machine
end

