-- ==== Sys2Proof/Machine/Firmware.lean ====
section
/-! DEFINITION. The platform: device reset and BOOT (R498, R503), firmware images, attestation (R499 to R501), partition reset
(R496), budgets (R497), the patrol scrub (R502) and host memory accesses (R484, R486). -/

namespace Sys2Proof.Machine

/-! ## Device reset (R498, R503) -/

/-- The device loses its state: what stays is the firmware slot and what is fused. What went out before is past (log 17). -/
def State.lose (s : State) (state : Nat) : State :=
  { State.reset with
    freeCtr := s.freeCtr, turns := s.turns, cur := s.cur, msix := s.msix, sentPackets := s.sentPackets, sentFlits := s.sentFlits,
    nextSave := s.nextSave,
    dev := { state := state, temp := s.dev.temp, fwSlot := s.dev.fwSlot, minSvn := s.dev.minSvn, leaves := s.dev.leaves } }

/-! ## Firmware images (R499, R500) -/

/-- Word `i` of an image's header. -/
def fwWord (bs : List Byte) (i : Nat) : Nat := ofBytes ((bs.drop (8 * i)).take 8)
/-- An image's header size. -/
def fwHeader : Nat := 4096
/-- SVN of an image. -/
def fwSvn (bs : List Byte) : Nat := bits (fwWord bs 2) 0 16

/-- The header of an image is good. -/
def fwHeaderOk (bs : List Byte) : Bool :=
  decide (fwHeader ≤ bs.length) && fwWord bs 0 == 0x594b4657 && decide (fwWord bs 1 % 4096 = 0 ∧ fwWord bs 1 ≤ 2 ^ 26) &&
    fwWord bs 3 == 0 && ((bs.drop 2892).take 1204).all (· == 0)

/-- The typecodes of LMS_SHA256_M32_H20 and LMOTS_SHA256_N32_W4 (R499), as RFC 8554 numbers them (PRESUMED, log 106). -/
def lmsType : List Byte := [0, 0, 0, 8]
def lmotsType : List Byte := [0, 0, 0, 3]
/-- The vendor's public key in the boot ROM, and the identity's with its typecodes (R499, R501). -/
def vendorKey : List Byte := (List.range 56).map Config.vendorKey
def identityKey : List Byte := lmsType ++ lmotsType ++ (List.range 48).map Config.identityKey
/-- An LMS signature of the types of R499: the leaf's number, the one-time signature behind its typecode, and the path behind its own. -/
def lmsSignature (leaf : List Byte) (rest : Nat → Byte) : List Byte :=
  leaf ++ lmotsType ++ (List.range 2176).map rest ++ lmsType ++ (List.range 640).map fun i => rest (2176 + i)
/-- The vendor's signature over the identity key, of the same types (R501, log 106). -/
def vendorEndorsement : List Byte :=
  lmsSignature ((List.range 4).map fun i => Config.vendorEndorsement (2816 + i)) Config.vendorEndorsement
/-- The identity signature over a report's head, by the leaf (R501). -/
def identitySignature (leaf : Nat) (head : List Byte) : List Byte := lmsSignature (toBytes 4 leaf).reverse (Config.identitySign leaf head)

/-- Verification of an image (R500): 0, or the RESULT of the first failure. -/
def fwVerify (bs : List Byte) (minSvn : Nat) : Nat :=
  if !fwHeaderOk bs then 1
  else if sha256 ((bs.drop fwHeader).take (fwWord bs 1)) ≠ (bs.drop 32).take 32 then 2
  else if !lmsVerify vendorKey ((bs.drop 64).take 2828) (bs.take 64) then 3
  else if fwSvn bs < minSvn then 4
  else 0

/-- BOOT (R498): the boot ROM verifies the slot; the device goes on to INIT, or to RECOVERY. -/
def State.boot (s : State) : State :=
  if fwVerify s.dev.fwSlot s.dev.minSvn = 0 then { s with dev := { s.dev with state := 2, svn := fwSvn s.dev.fwSlot } }
  else { s with dev := { s.dev with state := 1 } }

/-- Every partition is in reset. -/
def State.allReset (s : State) : Bool := s.parts.all fun p => p.2.state == 0

/-- OP and ADDR of FW_CTL. -/
def Dev.fwOp (d : Dev) : Nat := bits d.fwCtl.toNat 60 3
def Dev.fwAddr (d : Dev) : Nat := bits d.fwCtl.toNat 0 48

/-- The image at FW_CTL.ADDR. -/
def State.imageAt (s : State) : List Byte :=
  let a := s.dev.fwAddr
  let h := Memory.reads s.mem a fwHeader
  h ++ (if fwHeaderOk h then Memory.reads s.mem (a + fwHeader) (fwWord h 1) else [])

/-- ADDR is a multiple of 4,096 in HBM. -/
def Dev.fwAddrOk (d : Dev) : Bool := d.fwAddr % 4096 == 0 && inHbm d.fwAddr

/-- RESULT of a LOAD. -/
def State.loadResult (s : State) : Nat :=
  if !s.allReset then 6 else if !s.dev.fwAddrOk then 1 else fwVerify s.imageAt s.dev.minSvn

/-- A firmware operation ends with a RESULT. -/
def State.fwDone (s : State) (r : Nat) : State := { s with dev := { s.dev with fwBusy := false, fwResult := r } }

/-- A firmware operation runs when FW_CTL started it. -/
def State.withFw (s : State) (op : Nat) (k : State → State) : Out :=
  if s.dev.fwBusy ∧ s.dev.fwOp = op then .next (k s) else .next s

/-- FW_LOAD (R500): a verified image goes into the slot, and the device resets to BOOT. -/
def execEvFwLoad (s : State) : Out :=
  s.withFw 1 fun s =>
    let r := s.loadResult
    if r ≠ 0 then s.fwDone r
    else (({ s with dev := { s.dev with fwSlot := s.imageAt } } : State).lose 0).boot

/-- FW_RAISE (R499): MINSVN := SVN; it only rises. -/
def execEvFwRaise (s : State) : Out :=
  s.withFw 2 fun s => ({ s with dev := { s.dev with minSvn := max s.dev.minSvn s.dev.svn } } : State).fwDone 0

/-- The registers that a report covers (R501). -/
def State.configWords (s : State) : List Word :=
  (List.range 768).map s.dev.ownerReg ++ [s.dev.splitReg, s.dev.hbaseReg] ++ (List.range 8).map s.dev.cxmReg ++
    (List.range 16).map (fun p => (s.partOf p).ptrReg) ++ (List.range 16).map fun p => (s.partOf p).escArea

/-- Bytes 0 to 255 of a report (R501). -/
def State.reportHead (s : State) (nonce : List Byte) : List Byte :=
  toBytes 8 0x0001000054525441 ++ wordBytes Config.devId ++ toBytes 8 (s.dev.svn + 2 ^ 16 * s.dev.minSvn) ++
    sha256 (s.dev.fwSlot.take 64) ++ nonce ++ sha256 (s.configWords.flatMap wordBytes) ++ identityKey ++ List.replicate 80 0

/-- FW_ATTEST (R501). -/
def execEvFwAttest (s : State) : Out :=
  s.withFw 3 fun s =>
    if s.dev.leaves = 0 then s.fwDone 5
    else if !s.dev.fwAddrOk then s.fwDone 1
    else
      let head := s.reportHead (Memory.reads s.mem s.dev.fwAddr 32)
      let all := head ++ identitySignature (2 ^ 20 - s.dev.leaves) head ++ vendorEndorsement
      let s := (s.writeLines none false false (cellsAt (s.dev.fwAddr + 4096) all)).1
      ({ s with dev := { s.dev with leaves := s.dev.leaves - 1 } } : State).fwDone 0

/-! ## Device events -/

/-- POWER_ON_RESET (R498): power-on, or a CXL conventional reset, enters BOOT. -/
def execEvPowerOnReset (s : State) : Out := .next (s.lose 0).boot

/-- INIT_COMPLETE (R498): a device in INIT becomes READY. Operand v: the Flitis ports that are trained, a bit each. -/
def execEvInitComplete (s : State) : Out :=
  s.withEv fun e =>
    if s.dev.state ≠ 2 then .next s
    else
      let s : State := { s with dev := { s.dev with state := 3 } }
      .next ((maskLanes e.v.toNat 36).foldl (fun s p => s.modLink p fun l => { l with up := true }) s)

/-- THROTTLE_STEP (R503): the clock falls a step while the power exceeds the cap or the temperature 95 °C, and rises a step
otherwise. Operand i: the power averaged over 1 ms, in W; j: the temperature. -/
def execEvThrottleStep (s : State) : Out :=
  s.withEv fun e =>
    let hot := decide (s.dev.cap < e.i.toNat ∨ 95 < e.j.toNat)
    .next { s with dev := { s.dev with temp := e.j.toNat % 256, thr := if hot then min (s.dev.thr + 1) 6 else s.dev.thr - 1 } }

/-- THERMAL_TRIP (R503). Operand i: the temperature; below 110 °C nothing happens. -/
def execEvThermalTrip (s : State) : Out :=
  s.withEv fun e =>
    if e.i.toNat < 110 then .next s
    else .next (({ s with dev := { s.dev with temp := e.i.toNat % 256 } } : State).lose 4)

/-- POWER_LOSS (R500, R503). Operand i: 1 when it falls into the slot's writing by a LOAD, whose image then fails at BOOT. -/
def execEvPowerLoss (s : State) : Out :=
  s.withEv fun e =>
    let torn := s.dev.fwBusy && s.dev.fwOp == 1 && e.i == 1 && s.loadResult == 0
    .next (({ s with dev := { s.dev with fwSlot := if torn then [] else s.dev.fwSlot } } : State).lose 0)

/-! ## Partition reset (R496) -/

/-- A partition's queues drop everything, its SNAPSHOTs and answers with it. -/
def State.dropQueues (s : State) (p : Nat) : State :=
  let mine (q : Nat) : Bool := (s.queue q).owner == p && (s.queues.find q).isSome
  { s with
    queues := s.queues.map fun x => if mine x.1 then (x.1, { x.2 with fifo := [], started := [], answers := [] }) else x,
    snaps := s.snaps.filter fun x => !mine x.queue, heldAnswers := s.heldAnswers.filter fun x => !mine x.queue,
    regions := s.regions.filter fun r => !(r.waiting && r.part == p) }

/-- RST := 1: STATE becomes 2, the queues are emptied, and every live launch of the partition stops (R453). -/
def State.startReset (s : State) (p : Nat) : State :=
  let s := (s.modPart p fun x => { x with rst := true, state := 2 }).dropQueues p
  (s.regions.filter fun r => r.part == p).foldl State.abort s

/-- A link context's channel registers return to their reset values, the descriptor's fields among them; a CLOSE that is out goes on (R439,
R440). -/
def State.clearChans (s : State) (p k : Nat) : State :=
  s.modLink p fun l => { l with chans := l.chans.map fun c =>
    if c.1 / 8 = k then (c.1, { closing := c.2.closing, shut := c.2.closing }) else c }

/-- A launch of a partition in reset is released, without a completion write. -/
def State.dropLaunch (s : State) (r : Region) : State :=
  let mine := (List.range 36).flatMap fun p =>
    ((List.range 8).filter fun k => (s.ctx (linkNode p) k).ownedBy r.id).map fun k => (p, k)
  mine.foldl (fun s x => s.clearChans x.1 x.2) (s.release r)

/-- A node of a partition after its reset (R496 step 5): its constants stay (log 16), and so do the counters of a CE, whose
chapter does not return them. -/
def Node.afterReset (c : Coord) (n : Node) : Node :=
  let m : Node := { ctxs := n.ctxs.map fun x => { consts := x.consts }, hist := n.hist, entries := n.entries }
  if kindOf c = .ce then { m with fires := n.fires, zfires := n.zfires, passes := n.passes } else m

/-- The registers of a partition's clusters return to their reset values (R144, R238, R257, R300, R339, R404, R475). -/
def State.resetClusters (s : State) (p : Nat) : State :=
  let mine (g : Nat) : Bool := s.dev.owner.get (false, 0) g == (true, p)
  let at' (c : Coord) : Bool := kindOf c != .link && mine (clusterOf c)
  { s with
    nodes := s.nodes.map fun n => if at' n.1 then (n.1, n.2.afterReset n.1) else n,
    clusters := s.clusters.filter fun g => !(mine g.1 && decide (g.1 < 768)),
    mes := s.mes.map fun m => if at' m.1 then (m.1, { spad := m.2.spad, undef := m.2.undef, bad := m.2.bad }) else m,
    copies := s.copies.filter fun c => !at' c.1, matrices := s.matrices.filter fun c => !at' c.1,
    tills := s.tills.filter fun c => !at' c.1 }

/-- Steps 3 to 6 of a partition reset (R496). -/
def State.endReset (s : State) (p : Nat) : State :=
  let s := (s.resetClusters p).modPart p fun x =>
    { x with opens := [], held := [], backlog := [], restoring := none, head := 0, tail := 0, recno := 0, waitc := 0, waiting := false,
             uses := [0, 0, 0, 0, 0], stalled := false,
             slotCyc := 0, stuck := 0, rst := false, state := 0 }
  { s with
    notify := s.notify.map fun n => if n.2.owner = p then (n.1, { n.2 with value := 0, armed := false }) else n,
    taps := s.taps.map fun t => if t.2.part = p then (t.1, { t.2 with v := false }) else t }

/-- A partition reset goes on: the launches whose issued work has been performed are released, and with the last one the reset
is over. -/
def State.advanceReset (s : State) (p : Nat) : State :=
  let quiet (r : Region) : Bool := r.part == p && !s.regionBusy r
  let s := (s.regions.filter quiet).foldl State.dropLaunch s
  if s.regions.any fun r => r.part == p then s else s.endReset p

/-- PARTITION_RESET (R496): a write of RST, and what follows from it; while issued work of the partition is under way the event
comes again. Operand i: the partition. -/
def execEvPartitionReset (s : State) : Out :=
  s.withEv fun e =>
    let p := e.i.toNat % 16
    if !s.ready then .next s
    else .next ((if (s.partOf p).rst then s else s.startReset p).advanceReset p)

/-! ## Budgets (R497) -/

/-- Some metered use has reached its limit. -/
def Partition.exhausted (x : Partition) : Bool :=
  x.budEn && (List.range 5).any fun i => decide (x.lims.getD i 0 ≠ 0 ∧ x.lims.getD i 0 ≤ x.uses.getD i 0)

/-- BUDGET_EXHAUSTED. Operand i: the partition. -/
def execEvBudgetExhausted (s : State) : Out :=
  s.withEv fun e =>
    let p := e.i.toNat % 16
    if (s.partOf p).exhausted then .next (s.modPart p fun x => { x with stalled := true }) else .next s

/-- Uses at a period boundary. -/
def Partition.carry (x : Partition) : Partition :=
  { x with uses := (List.range 5).map fun i =>
      let lim := x.lims.getD i 0
      if lim = 0 then 0 else min (x.uses.getD i 0 - lim) lim }

/-- BUDGET_PERIOD: a period of DEV_USEC begins, and the stall ends. Operand i: the partition. Two boundaries that have passed
leave nothing to carry. -/
def execEvBudgetPeriod (s : State) : Out :=
  s.withEv fun e =>
    let p := e.i.toNat % 16
    let x := s.partOf p
    let n := s.usec / x.budPer
    if !x.budEn || n == x.period then .next s
    else .next (s.modPart p fun x => { (if n = x.period + 1 then x.carry else x.carry.carry) with stalled := false, period := n })

/-! ## Errors (R502) -/

/-- Errors that storage shows. -/
def State.uncorrectable (s : State) : State := { s with dev := { s.dev with uncorr := satAdd 32 s.dev.uncorr 1 } }

/-- The report of an uncorrectable error in data (R442, R502), with no address. -/
def State.dataError (s : State) (region : Nat) (pos : Coord) (frame : Nat) (k : State → State) : Out :=
  match s.region region with
  | none => .next s
  | some r =>
    if !s.canPost r.part then .next (s.waitToPost r.part)
    else .next ((k s).uncorrectable.postFor r .nothing
      { cause := Cause.eccUncorr, detail := 1, pos := pos, nk := nkOf pos, frame := frame, parked := false })

/-- Lanes of a token become poisoned. -/
def Piece.hurt (p : Piece) (m : Nat) : Piece := { p with tok := { p.tok with poison := p.tok.poison ||| (p.tok.mask &&& m) } }

/-- The state of a region is lost to an uncorrectable error in control state: its cut starts, or the freeze that it is in
becomes one (R442, R459, R502). -/
def State.loseRegion (s : State) (r : Region) : State :=
  if r.waiting || r.aborting then s
  else if r.frozen then if s.lost r then s else s.freeze r true
  else if r.cut.isSome then s.modRegion r.id fun r => { r with cut := some (.freeze true) }
  else s.startCut r (.freeze true)

/-- PATROL_SCRUB (R502): the scrub, or a read, meets an error. Operand i says where: 0 nowhere; 1 a corrected one; 2 the line v,
which nothing reads; 3 the control state of region j; 4 the payload of the store entry j at the event's node, in the lanes v; 5 the
payload of withdrawn token j of the event's cluster, in the lanes v; 6 accumulator row j of the event's Matrix Node; 7 word j of the
event's scratchpad; 8 the operands of firing image j, in the lanes v. -/
def execEvPatrolScrub (s : State) : Out :=
  s.withEv fun e =>
    let pos := e.pos
    let j := e.j.toNat
    let m := e.v.toNat
    match e.i.toNat with
    | 1 => .next { s with dev := { s.dev with corr := satAdd 32 s.dev.corr 1 } }
    | 2 => .next { s.uncorrectable with badLines := if s.badLines.contains m then s.badLines else m :: s.badLines }
    | 3 => match s.region j with
      | some r =>
        if r.frozen && !s.lost r && !s.canPost r.part then .next (s.waitToPost r.part) else .next (s.uncorrectable.loseRegion r)
      | none => .next s
    | 4 => match (s.store pos).entries[j]? with
      | some p => s.dataError (s.regionOf p.tok.dst p.tok.ctx) p.tok.dst p.tok.frame fun s =>
          s.modStore pos fun t => { t with entries := setNth t.entries j (p.hurt m) }
      | none => .next s
    | 5 => match (s.cluster (clusterOf pos)).withdrawn[j]? with
      | some w => s.dataError w.region w.store w.piece.tok.frame fun s =>
          s.modCluster (clusterOf pos) fun c => { c with withdrawn := setNth c.withdrawn j { w with piece := w.piece.hurt m } }
      | none => .next s
    | 6 => match s.regionAt pos with
      | some r => s.dataError r.id pos 0 fun s => s.modMatrix pos fun x => x.setPsn (j % 128) true
      | none => .next s
    | 7 => .next (s.uncorrectable.modMe pos fun x => { x with bad := if x.bad.contains j then x.bad else j :: x.bad })
    | 8 => match s.images[j]? with
      | some im => s.dataError im.region im.pos im.firing.frame fun s =>
          let hurt (q : PortIn) : PortIn := { q with poison := q.poison ||| (q.mask &&& m) }
          { s with images := setNth s.images j { im with firing := { im.firing with ports := im.firing.ports.map hurt } } }
      | none => .next s
    | _ => .next s

/-! ## Host accesses to memory (R484, R486) -/

/-- The device answers a host access to an address: HBM and the H aperture once READY, the first GiB in RECOVERY. -/
def State.hostSees (s : State) (a : Nat) : Bool :=
  if s.dev.state = 3 then inHbm a || s.dev.inH a else if s.dev.state = 1 then decide (a < 2 ^ 30) else false

/-- What the host reads at an address is not the memory's bytes: a line with an uncorrectable error (log 18). -/
def State.hostBlind (s : State) (a : Nat) : Bool := s.badLines.contains (lineOf a)

/-- HOST_MEM_ACCESS (R484, R486): a host read or write through CXL.mem is performed at the home slice of each line, at SYS, and is
not metered (R497). Operand v: the address; i: 0 for a read of j bytes, 1 for a write of the data. -/
def execEvHostMemAccess (s : State) : Out :=
  s.withEv fun e =>
    let a := e.v.toNat
    let n := if e.i = 0 then e.j.toNat else e.data.length
    if !(List.range n).all fun k => s.hostSees (a + k) then .fault .hostUnbacked
    else if e.i = 0 then
      let r := s.readRange none false a n
      .next { r.1 with hostRead := r.2.zipIdx.map fun b => if s.hostBlind (a + b.2) then BitVec.ofNat 8 (s.free (4096 + b.2)) else b.1 }
    else .next (s.writeLines none false false (cellsAt a e.data)).1

end Sys2Proof.Machine
end

