-- ==== Sys2Proof/Machine/Platform.lean ====
section
/-! DEFINITION. Host writes: queue windows (R121), notify registers (R126, R127), and the registers of BAR0 with what each accepts
(R342, R440, R443, R458, R460, R477, R478, R487 to R490, R494 to R496, R499). -/

namespace Sys2Proof.Machine

/-! ## Queue windows (R121) -/

/-- A host write of bytes at an offset of a queue's window. With EN = 0 every write is dropped and counted; that such a write,
malformed or to a full FIFO, also sets BADWR or OVF is this model's choice (log 75). -/
def State.queueWrite (s : State) (q off : Nat) (bs : List Byte) : State :=
  s.modQueue q fun x =>
    let drop := { x with drops := satAdd 32 x.drops 1 }
    if bs.length ≠ 64 ∨ off % 64 ≠ 0 then { drop with badwr := true }
    else if 64 ≤ x.fifo.length then { drop with ovf := true }
    else if !x.en then drop
    else { x with fifo := x.fifo ++ [wordsOfBytes 8 bs] }

/-- QUEUE_WINDOW_WRITE (R121). Operand i: the queue; j: the offset in its window; data: the bytes. -/
def execEvQueueWindowWrite (s : State) : Out :=
  s.withEv fun e => if !s.ready then .next s else .next (s.queueWrite (e.i.toNat % 64) e.j.toNat e.data)

/-! ## Writes of registers with an effect of their own -/

/-- A write of NFY_CTLk through a notify page: only ARMED is written (R126, R487). -/
def State.armNfy (s : State) (k : Nat) (v : Word) : State := s.modNfy k fun n => { n with armed := bit v.toNat 62 }

/-- NFY_ARM (R127). Operand i: the notify register; v: the word written. -/
def execEvNfyArm (s : State) : Out :=
  s.withEv fun e => if !s.ready then .next s else .next (s.armNfy (e.i.toNat % 256) e.v)

/-- The memory cells of a range of lines move, as the window rows that hold them take other addresses. -/
def moveCells (lo hi : Nat) (f : Nat → Nat) (m : List Host.Cell) : List Host.Cell :=
  let inside (c : Host.Cell) : Bool := decide (lo ≤ c.1 ∧ c.1 < hi)
  Memory.writeCells (m.filter (!inside ·)) ((m.filter inside).map fun c => (f c.1, c.2))

/-- The lines of the H aperture under a new base: each window row keeps its slice and its contents (R342, R343). -/
def newLine (old new l : Nat) : Nat := new / 128 + ((l - old / 128) ^^^ home (old / 128) ^^^ home (new / 128))

/-- A write of DEV_HBASE (R486, R490). -/
def State.writeHbase (s : State) (b : Nat) : State :=
  let a := b * 2 ^ 30
  if !s.allReset || inHbm a || decide (2 ^ 44 ≤ a ∧ a < 2 ^ 45) then s
  else
    let old := s.dev.hb
    let lo := old / 128
    let hi := s.dev.hEnd / 128
    let line (l : Nat) : Nat := if lo ≤ l ∧ l < hi then newLine old a l else l
    { s with
      dev := { s.dev with hbase := b },
      mem := moveCells old s.dev.hEnd (fun x => 128 * newLine old a (x / 128) + x % 128) s.mem,
      badLines := s.badLines.map line,
      slices := s.slices.map fun h => (h.1, { h.2 with ltag := h.2.ltag.map fun t => (line t.1, t.2) }) }

/-- A write of HS_SPLIT (R342): accepted, it writes back and invalidates every cache line and zeroes every window line. -/
def State.writeSplit (s : State) (v : Word) : State :=
  let ws := bits v.toNat 60 4
  if 8 < ws ∨ ¬ s.allReset then { s with dev := { s.dev with wsErr := true } }
  else
    let d : Dev := { s.dev with ws := ws, wsErr := s.dev.wsErr && !bit v.toNat 0 }
    let lo := d.hb
    let hi := lo + 24 * 2 ^ 20 * max ws s.dev.ws
    { s with
      dev := d, mem := s.mem.filter fun c => !decide (lo ≤ c.1 ∧ c.1 < hi),
      badLines := s.badLines.filter fun l => !decide (lo ≤ 128 * l ∧ 128 * l < hi),
      slices := s.slices.map fun h => (h.1, { h.2 with sets := [], ltag := [], wtag := h.2.seq % 2 ^ 16, owed := [] }) }

/-- HS_SPLIT_WRITE (R342). Operand v: the word written. -/
def execEvHsSplitWrite (s : State) : Out :=
  s.withEv fun e => if !s.ready then .next s else .next (s.writeSplit e.v)

/-- EN := 1 lets a partition in reset run (R496). -/
def State.enablePart (s : State) (p : Nat) (en : Bool) : State :=
  s.modPart p fun x => { x with en := en, state := if en ∧ x.state = 0 then 1 else x.state }

/-- PARTITION_ENABLE (R496). Operand i: the partition. -/
def execEvPartitionEnable (s : State) : Out :=
  s.withEv fun e => if !s.ready then .next s else .next (s.enablePart (e.i.toNat % 16) true)

/-- A write of PART_CTL: RST starts a reset, which PARTITION_RESET carries on. -/
def State.writePartCtl (s : State) (p : Nat) (v : Word) : State :=
  let en := bit v.toNat 63
  if bit v.toNat 62 ∧ ¬ (s.partOf p).rst then ((s.modPart p fun x => { x with en := en }).startReset p).advanceReset p
  else s.enablePart p en

/-- An invalidation (R494): the translations of a partition that match go, all of them when VA is none. A firing gives up those that
it obtained for its instruction, whose later accesses walk again, and a message of a link node those of its local pages. -/
def State.invalidatePart (s : State) (p : Nat) (va : Option Nat) : State :=
  let hit (x : Xlat) : Bool := x.part == p && match va with
    | some a => x.covers p a
    | none => true
  let drop (f : Firing) : Firing := { f with xl := f.xl.filter (!hit ·) }
  { s with
    mes := s.mes.map fun m =>
      (m.1, { m.2 with tlb := m.2.tlb.filter (!hit ·), sx := m.2.sx.filter fun x => !hit x.2 }),
    nodes := s.nodes.map fun n => (n.1, { n.2 with slots := n.2.slots.map (·.map drop) }),
    links := s.links.map fun l => (l.1, { l.2 with msgs := l.2.msgs.map fun m => { m with xl := m.xl.filter (!hit ·) } }) }

/-- A write of PART_INV: with GO the translations are dropped at once, and GO reads 0 again (R494). -/
def State.writePartInv (s : State) (p : Nat) (v : Word) : State :=
  let all := bit v.toNat 62
  let va := bits v.toNat 12 36
  let s := s.modPart p fun x => { x with invAll := all, invVa := va }
  if bit v.toNat 63 then s.invalidatePart p (if all then none else some (va * 4096)) else s

/-- PART_INV (R494). Operand i: the partition; v: the word written. -/
def execEvPartInv (s : State) : Out :=
  s.withEv fun e => if !s.ready then .next s else .next (s.writePartInv (e.i.toNat % 16) e.v)

/-- A write of ET_BUFdt (R478). -/
def State.writeTapBuf (s : State) (d t : Nat) (v : Word) : State :=
  let x := s.taps.get {} (d, t)
  if x.en then s
  else { s with taps := s.taps.set (d, t) { x with lgsz := bits v.toNat 60 4, base := bits v.toNat 0 48, wp := 0, rp := 0, lost := 0 } }

/-- ET_BUF_WRITE (R478). Operand i: the die; j: the slot; v: the word written. -/
def execEvEtBufWrite (s : State) : Out :=
  s.withEv fun e => if !s.ready then .next s else .next (s.writeTapBuf (e.i.toNat % 8) (e.j.toNat % 16) e.v)

/-- A write of ET_GRANTdt (R478): EN := 0 ends the binding. -/
def State.writeTapGrant (s : State) (d t : Nat) (v : Word) : State :=
  let x := s.taps.get {} (d, t)
  let en := bit v.toNat 63
  { s with taps := s.taps.set (d, t) { x with en := en, part := bits v.toNat 59 4, v := x.v && en } }

/-- ET_GRANT_WRITE (R478). Operand i: the die; j: the slot; v: the word written. -/
def execEvEtGrantWrite (s : State) : Out :=
  s.withEv fun e => if !s.ready then .next s else .next (s.writeTapGrant (e.i.toNat % 8) (e.j.toNat % 16) e.v)

/-! ## Writes of the other registers (R488, R490) -/

/-- A write of CXM_MAPi (R490): the range must lie in the tier window, apart from every other enabled range. -/
def State.writeCxm (s : State) (i : Nat) (v : Word) : State :=
  let en := bit v.toNat 63
  let len := bits v.toNat 48 15
  let base := bits v.toNat 30 18
  let apart (m : Nat × Bool × Nat × Nat) : Bool :=
    m.1 == i || !m.2.1 || decide (base + len ≤ m.2.2.2 ∨ m.2.2.2 + m.2.2.1 ≤ base)
  if !s.allReset || (en && !(decide (1 ≤ len ∧ len ≤ 16384 ∧ 16384 ≤ base ∧ base + len ≤ 32768) && s.dev.cxm.all apart)) then s
  else { s with dev := { s.dev with cxm := s.dev.cxm.set i (en, len, base) } }

/-- A partition is in reset. -/
def State.inReset (s : State) (p : Nat) : Bool := (s.partOf p).state == 0

/-- A write of CL_OWNERg (R490). -/
def State.writeOwner (s : State) (g : Nat) (v : Word) : State :=
  let en := bit v.toNat 63
  let p := bits v.toNat 59 4
  let old := s.dev.owner.get (false, 0) g
  if (old.1 && !s.inReset old.2) || (en && !s.inReset p) then s
  else { s with dev := { s.dev with owner := s.dev.owner.set g (en, p) } }

/-- A write of FW_CTL (R499): GO starts an operation when none runs; a reserved OP ends at once with RESULT 1. A device in RECOVERY
takes OP 1 only (R498). -/
def State.writeFwCtl (s : State) (v : Word) : State :=
  let op := bits v.toNat 60 3
  let w : Word := BitVec.ofNat 64 (setBits (setBits v.toNat 63 1 0) 48 12 0)
  if s.dev.fwBusy || (s.dev.state == 1 && op != 1) then s
  else if !bit v.toNat 63 then { s with dev := { s.dev with fwCtl := w } }
  else if op = 0 ∨ 3 < op then { s with dev := { s.dev with fwCtl := w, fwResult := 1 } }
  else { s with dev := { s.dev with fwCtl := w, fwBusy := true } }

/-- A write of a device register by its place (R487, R490, R440). A value outside a field's range leaves the register unchanged. -/
def State.writeDev (s : State) (k : Nat) (v : Word) : State :=
  let d := s.dev
  let f (lo n : Nat) : Nat := bits v.toNat lo n
  let put (ok : Bool) (d : Dev) : State := if ok then { s with dev := d } else s
  match k with
  | 4 => s.writeHbase (f 30 18)
  | 5 => s.writeSplit v
  | 6 => put (decide (1000 ≤ f 52 12 ∧ f 52 12 ≤ 2800)) { d with cap := f 52 12 }
  | 8 => put (decide (1 ≤ f 56 8)) { d with hours := f 56 8 }
  | 9 => s.writeFwCtl v
  | 11 => put true { d with devno := f 46 18 }
  | 12 => put (decide (4 ≤ f 53 5 ∧ f 53 5 ≤ 20 ∧ f 53 5 ≤ f 48 5 ∧ f 48 5 ≤ 24)) { d with wm1 := f 58 6, t0e := f 53 5, cape := f 48 5 }
  | 13 => put (decide (16 ≤ f 53 11)) { d with tq := f 53 11 }
  | k => if 14 ≤ k ∧ k < 22 then s.writeCxm (k - 14) v else s

/-- A write of a receive window's register (R417, R440). -/
def State.writeWindow (s : State) (w k : Nat) (v : Word) : State :=
  let f (lo n : Nat) : Nat := bits v.toNat lo n
  match k with
  | 0 => s.modWin w fun x => { x with en := bit v.toNat 63, part := f 59 4, port := f 53 6, rkey := f 37 16 }
  | 1 => if f 0 12 = 0 then s.modWin w fun x => { x with gbase := f 0 48 } else s
  | 2 => if f 0 12 = 0 then s.modWin w fun x => { x with len := f 0 38 } else s
  | _ => s

/-- A write of a tap slot's register (R477, R478). -/
def State.writeTap (s : State) (d t k : Nat) (v : Word) : State :=
  match k with
  | 0 => s.writeTapGrant d t v
  | 1 => s.writeTapBuf d t v
  | 4 =>
    let x := s.taps.get {} (d, t)
    if v.toNat ≤ x.wp ∧ x.wp ≤ v.toNat + 2 ^ x.lgsz * 128 then { s with taps := s.taps.set (d, t) { x with rp := v.toNat } } else s
  | _ => s

/-- A write of NFY_CTLk through the privileged alias (R126, R487). -/
def State.writeNfyCtl (s : State) (k : Nat) (v : Word) : State :=
  s.modNfy k fun n =>
    { n with msien := bit v.toNat 63, armed := bit v.toNat 62, owner := bits v.toNat 56 4, vec := bits v.toNat 32 11 }

/-- A write of FQ_HEAD (R495): it keeps TAIL − HEAD between 0 and the ring's size. -/
def Partition.writeHead (x : Partition) (v : Nat) : Partition :=
  let h := v % 2 ^ 32
  if (x.tail + 2 ^ 32 - h) % 2 ^ 32 ≤ 2 ^ bits x.fqBase.toNat 0 5 then { x with head := h } else x

/-- A write of FQ_BASE (R490): LG must lie in its range. -/
def Partition.writeFq (x : Partition) (v : Word) : Partition :=
  let lg := bits v.toNat 0 5
  if 6 ≤ lg ∧ lg ≤ 20 then
    { x with fqBase := regWord [(5, lg), (7, 0), (36, bits v.toNat 12 36), (2, 0), (11, bits v.toNat 50 11), (3, bits v.toNat 61 3)] }
  else x

/-- A write of BUD_CTL (R490, R497): the period under way is the one of DEV_USEC; a partition without budgets does not stall. -/
def Partition.writeBudget (x : Partition) (usec : Nat) (v : Word) : Partition :=
  let per := bits v.toNat 49 14
  let en := bit v.toNat 63
  if 10 ≤ per ∧ per ≤ 10000 then { x with budEn := en, budPer := per, period := usec / per, stalled := x.stalled && en } else x

/-- A write of a partition block register by its place (R443, R458, R490). -/
def State.writePart (s : State) (p k : Nat) (v : Word) : State :=
  let f (lo n : Nat) : Nat := bits v.toNat lo n
  match k with
  | 0 => s.writePartCtl p v
  | 1 => if s.inReset p then s.modPart p fun x => { x with ptrV := bit v.toNat 63, ptrRoot := f 12 36 } else s
  | 2 => s.writePartInv p v
  | 3 => s.modPart p fun x => x.writeFq v
  | 4 => s.modPart p fun x => x.writeHead v.toNat
  | 7 => s.modPart p fun x => x.writeBudget s.usec v
  | 18 =>
    if s.inReset p ∧ f 59 4 ≤ 8 then
      s.modPart p fun x => { x with escArea := regWord [(48, f 0 48), (11, 0), (4, f 59 4), (1, f 63 1)] }
    else s
  | 19 => if 16 ≤ f 58 5 then s.modPart p fun x => { x with wdEn := bit v.toNat 63, wdExp := f 58 5 } else s
  | 20 => s.modPart p fun x => { x with dbgSel := f 0 10 }
  | k => if 8 ≤ k ∧ k < 13 then s.modPart p fun x => { x with lims := setNth x.lims (k - 8) v.toNat } else s

/-- A write of a queue's status page (R121, R460). -/
def State.writeQueuePage (s : State) (q o : Nat) (v : Word) : State :=
  if o = 0x1000 then s.modQueue q fun x =>
    { x with badwr := x.badwr && !bit v.toNat 42, ovf := x.ovf && !bit v.toNat 41, sliceup := x.sliceup && !bit v.toNat 40 }
  else if o = 0x1008 then s.modQueue q fun x => { x with min := bits v.toNat 0 20 }
  else s

/-- A write of a word at an offset of BAR0 (R487, R488); read-only registers and offsets that no rule places ignore it. -/
def State.writeAt (s : State) (off : Nat) (v : Word) : State :=
  let k (base : Nat) : Nat := (off - base) / 8
  if off < 0x10000 then s.writeDev (k 0) v
  else if off < 0x20000 then (if k 0x10000 < 768 then s.writeOwner (k 0x10000) v else s)
  else if off < 0x30000 then s
  else if off < 0x34000 then (if k 0x30000 / 4 < 256 then s.writeWindow (k 0x30000 / 4) (k 0x30000 % 4) v else s)
  else if off < 0x40000 then s
  else if off < 0x50000 then
    (if k 0x40000 / 8 < 128 then s.writeTap (k 0x40000 / 8 / 16) (k 0x40000 / 8 % 16) (k 0x40000 % 8) v else s)
  else if off < 0x70000 then
    (if k 0x50000 < 64 then s.modQueue (k 0x50000) fun x => { x with en := bit v.toNat 63, owner := bits v.toNat 56 4 } else s)
  else if off < 0x400000 then (if k 0x70000 < 256 then s.writeNfyCtl (k 0x70000) v else s)
  else if off < 0x800000 then
    let o := (off - 0x400000) % 0x40000
    if o < 0x20000 then s.writePart ((off - 0x400000) / 0x40000) (o / 8) v else s
  else if off < 0x1000000 then
    let q := (off - 0x800000) / 0x2000
    if q < 64 then s.writeQueuePage q ((off - 0x800000) % 0x2000) v else s
  else
    let n := (off - 0x1000000) / 0x1000
    if n < 256 ∧ (off - 0x1000000) % 0x1000 = 8 then s.armNfy n v else s

/-- A host write of bytes at an offset of BAR0 (R488): queue windows take what R121 says, and every other register 8 bytes at an
8-byte-aligned offset. A device in RECOVERY has only its device registers, and one that is not READY otherwise takes no write (R498,
R503, log 19). -/
def State.writeBar (s : State) (off : Nat) (bs : List Byte) : State :=
  let window := decide (0x800000 ≤ off ∧ (off - 0x800000) / 0x2000 < 64 ∧ (off - 0x800000) % 0x2000 < 0x1000)
  if 2 ^ 25 ≤ off then s
  else if !(s.ready || (s.dev.state == 1 && decide (off < 0x10000))) then s
  else if window then s.queueWrite ((off - 0x800000) / 0x2000) ((off - 0x800000) % 0x2000) bs
  else if bs.length ≠ 8 ∨ off % 8 ≠ 0 then s
  else s.writeAt off (BitVec.ofNat 64 (ofBytes bs))

/-- REGISTER_WRITE (R488): a host access of BAR0. Operand v: the offset; data: the bytes written. With no data it is the read of j
bytes, whose value the host then holds (log 20). -/
def execEvRegisterWrite (s : State) : Out :=
  s.withEv fun e =>
    if e.data.isEmpty then .next { s with hostRead := wordBytes (s.readBar e.v.toNat e.j.toNat) }
    else .next (s.writeBar e.v.toNat e.data)

end Sys2Proof.Machine
end

