-- ==== Sys2Proof/Machine/Dispatch.lean ====
section
/-! DEFINITION. One arm per constructor of `Instr`: which meaning an instruction has. -/

namespace Sys2Proof.Machine

/-- What an instruction does to the state. -/
def exec (i : Instr) (s : State) : Host.Outcome State Fault Refusal :=
  match i with
  | .nop n => Sys2Proof.Machine.execNop n s
  | .add n => Sys2Proof.Machine.execAdd n s
  | .sub n => Sys2Proof.Machine.execSub n s
  | .addc n => Sys2Proof.Machine.execAddc n s
  | .subb n => Sys2Proof.Machine.execSubb n s
  | .mul n => Sys2Proof.Machine.execMul n s
  | .mulh n => Sys2Proof.Machine.execMulh n s
  | .mad n => Sys2Proof.Machine.execMad n s
  | .sad n => Sys2Proof.Machine.execSad n s
  | .dot4 n => Sys2Proof.Machine.execDot4 n s
  | .min n => Sys2Proof.Machine.execMin n s
  | .max n => Sys2Proof.Machine.execMax n s
  | .abs n => Sys2Proof.Machine.execAbs n s
  | .neg n => Sys2Proof.Machine.execNeg n s
  | .clamp n => Sys2Proof.Machine.execClamp n s
  | .and n => Sys2Proof.Machine.execAnd n s
  | .or n => Sys2Proof.Machine.execOr n s
  | .xor n => Sys2Proof.Machine.execXor n s
  | .andn n => Sys2Proof.Machine.execAndn n s
  | .not n => Sys2Proof.Machine.execNot n s
  | .shl n => Sys2Proof.Machine.execShl n s
  | .shr n => Sys2Proof.Machine.execShr n s
  | .sar n => Sys2Proof.Machine.execSar n s
  | .rot n => Sys2Proof.Machine.execRot n s
  | .funnel n => Sys2Proof.Machine.execFunnel n s
  | .clz n => Sys2Proof.Machine.execClz n s
  | .ctz n => Sys2Proof.Machine.execCtz n s
  | .popc n => Sys2Proof.Machine.execPopc n s
  | .brev n => Sys2Proof.Machine.execBrev n s
  | .bfe n => Sys2Proof.Machine.execBfe n s
  | .bfi n => Sys2Proof.Machine.execBfi n s
  | .perm n => Sys2Proof.Machine.execPerm n s
  | .pack n => Sys2Proof.Machine.execPack n s
  | .unpk n => Sys2Proof.Machine.execUnpk n s
  | .sel n => Sys2Proof.Machine.execSel n s
  | .cmp n => Sys2Proof.Machine.execCmp n s
  | .cmpm n => Sys2Proof.Machine.execCmpm n s
  | .mov n => Sys2Proof.Machine.execMov n s
  | .movi n => Sys2Proof.Machine.execMovi n s
  | .moviHi n => Sys2Proof.Machine.execMoviHi n s
  | .lea n => Sys2Proof.Machine.execLea n s
  | .lea2 n => Sys2Proof.Machine.execLea2 n s
  | .shfl n => Sys2Proof.Machine.execShfl n s
  | .bcast n => Sys2Proof.Machine.execBcast n s
  | .lred n => Sys2Proof.Machine.execLred n s
  | .lscan n => Sys2Proof.Machine.execLscan n s
  | .lpack n => Sys2Proof.Machine.execLpack n s
  | .cnt n => Sys2Proof.Machine.execCnt n s
  | .mand n => Sys2Proof.Machine.execMand n s
  | .mor n => Sys2Proof.Machine.execMor n s
  | .mxor n => Sys2Proof.Machine.execMxor n s
  | .mnot n => Sys2Proof.Machine.execMnot n s
  | .mpop n => Sys2Proof.Machine.execMpop n s
  | .mfirst n => Sys2Proof.Machine.execMfirst n s
  | .mset n => Sys2Proof.Machine.execMset n s
  | .tagrd n => Sys2Proof.Machine.execTagrd n s
  | .hash n => Sys2Proof.Machine.execHash n s
  | .fadd n => Sys2Proof.Machine.execFadd n s
  | .fsub n => Sys2Proof.Machine.execFsub n s
  | .fmul n => Sys2Proof.Machine.execFmul n s
  | .ffma n => Sys2Proof.Machine.execFfma n s
  | .ffms n => Sys2Proof.Machine.execFfms n s
  | .fnma n => Sys2Proof.Machine.execFnma n s
  | .fnms n => Sys2Proof.Machine.execFnms n s
  | .fmin n => Sys2Proof.Machine.execFmin n s
  | .fmax n => Sys2Proof.Machine.execFmax n s
  | .fminn n => Sys2Proof.Machine.execFminn n s
  | .fmaxn n => Sys2Proof.Machine.execFmaxn n s
  | .fmaxa n => Sys2Proof.Machine.execFmaxa n s
  | .fmed3 n => Sys2Proof.Machine.execFmed3 n s
  | .fabs n => Sys2Proof.Machine.execFabs n s
  | .fneg n => Sys2Proof.Machine.execFneg n s
  | .fcopysign n => Sys2Proof.Machine.execFcopysign n s
  | .fcmp n => Sys2Proof.Machine.execFcmp n s
  | .fcmpm n => Sys2Proof.Machine.execFcmpm n s
  | .fclass n => Sys2Proof.Machine.execFclass n s
  | .frint n => Sys2Proof.Machine.execFrint n s
  | .ffrac n => Sys2Proof.Machine.execFfrac n s
  | .fscale n => Sys2Proof.Machine.execFscale n s
  | .fgetexp n => Sys2Proof.Machine.execFgetexp n s
  | .fgetman n => Sys2Proof.Machine.execFgetman n s
  | .fdot2 n => Sys2Proof.Machine.execFdot2 n s
  | .flerp n => Sys2Proof.Machine.execFlerp n s
  | .fcvts n => Sys2Proof.Machine.execFcvts n s
  | .fred n => Sys2Proof.Machine.execFred n s
  | .cvt n => Sys2Proof.Machine.execCvt n s
  | .cvti n => Sys2Proof.Machine.execCvti n s
  | .cvtf n => Sys2Proof.Machine.execCvtf n s
  | .qnt n => Sys2Proof.Machine.execQnt n s
  | .dqnt n => Sys2Proof.Machine.execDqnt n s
  | .amaxb n => Sys2Proof.Machine.execAmaxb n s
  | .rng n => Sys2Proof.Machine.execRng n s
  | .exp2 n => Sys2Proof.Machine.execExp2 n s
  | .log2 n => Sys2Proof.Machine.execLog2 n s
  | .exp n => Sys2Proof.Machine.execExp n s
  | .ln n => Sys2Proof.Machine.execLn n s
  | .rcp n => Sys2Proof.Machine.execRcp n s
  | .rsq n => Sys2Proof.Machine.execRsq n s
  | .sqrt n => Sys2Proof.Machine.execSqrt n s
  | .div n => Sys2Proof.Machine.execDiv n s
  | .sinpi n => Sys2Proof.Machine.execSinpi n s
  | .cospi n => Sys2Proof.Machine.execCospi n s
  | .tanh n => Sys2Proof.Machine.execTanh n s
  | .sigm n => Sys2Proof.Machine.execSigm n s
  | .atanpi n => Sys2Proof.Machine.execAtanpi n s
  | .erf n => Sys2Proof.Machine.execErf n s
  | .dfma n => Sys2Proof.Machine.execDfma n s
  | .dadd n => Sys2Proof.Machine.execDadd n s
  | .dmul n => Sys2Proof.Machine.execDmul n s
  | .ddiv n => Sys2Proof.Machine.execDdiv n s
  | .dsqrt n => Sys2Proof.Machine.execDsqrt n s
  | .idiv n => Sys2Proof.Machine.execIdiv n s
  | .irem n => Sys2Proof.Machine.execIrem n s
  | .alloc n => Sys2Proof.Machine.execAlloc n s
  | .free n => Sys2Proof.Machine.execFree n s
  | .emit n => Sys2Proof.Machine.execEmit n s
  | .emitt n => Sys2Proof.Machine.execEmitt n s
  | .iter n => Sys2Proof.Machine.execIter n s
  | .split n => Sys2Proof.Machine.execSplit n s
  | .merge n => Sys2Proof.Machine.execMerge n s
  | .steer n => Sys2Proof.Machine.execSteer n s
  | .gate n => Sys2Proof.Machine.execGate n s
  | .eos n => Sys2Proof.Machine.execEos n s
  | .joinp n => Sys2Proof.Machine.execJoinp n s
  | .leavep n => Sys2Proof.Machine.execLeavep n s
  | .barr n => Sys2Proof.Machine.execBarr n s
  | .depth n => Sys2Proof.Machine.execDepth n s
  | .ld n => Sys2Proof.Machine.execLd n s
  | .ldg n => Sys2Proof.Machine.execLdg n s
  | .ldl n => Sys2Proof.Machine.execLdl n s
  | .lda n => Sys2Proof.Machine.execLda n s
  | .ldb n => Sys2Proof.Machine.execLdb n s
  | .lds n => Sys2Proof.Machine.execLds n s
  | .ldsg n => Sys2Proof.Machine.execLdsg n s
  | .st n => Sys2Proof.Machine.execSt n s
  | .stg n => Sys2Proof.Machine.execStg n s
  | .stm n => Sys2Proof.Machine.execStm n s
  | .str n => Sys2Proof.Machine.execStr n s
  | .sts n => Sys2Proof.Machine.execSts n s
  | .stss n => Sys2Proof.Machine.execStss n s
  | .stz n => Sys2Proof.Machine.execStz n s
  | .sopen n => Sys2Proof.Machine.execSopen n s
  | .sseek n => Sys2Proof.Machine.execSseek n s
  | .sclose n => Sys2Proof.Machine.execSclose n s
  | .sbar n => Sys2Proof.Machine.execSbar n s
  | .sflush n => Sys2Proof.Machine.execSflush n s
  | .fence n => Sys2Proof.Machine.execFence n s
  | .probe n => Sys2Proof.Machine.execProbe n s
  | .pfetch n => Sys2Proof.Machine.execPfetch n s
  | .scnt n => Sys2Proof.Machine.execScnt n s
  | .xwb n => Sys2Proof.Machine.execXwb n s
  | .xinv n => Sys2Proof.Machine.execXinv n s
  | .smap n => Sys2Proof.Machine.execSmap n s
  | .cpy n => Sys2Proof.Machine.execCpy n s
  | .cpy2 n => Sys2Proof.Machine.execCpy2 n s
  | .cpy3 n => Sys2Proof.Machine.execCpy3 n s
  | .cpym n => Sys2Proof.Machine.execCpym n s
  | .cpyz n => Sys2Proof.Machine.execCpyz n s
  | .cpyx n => Sys2Proof.Machine.execCpyx n s
  | .cpya n => Sys2Proof.Machine.execCpya n s
  | .cpyb n => Sys2Proof.Machine.execCpyb n s
  | .cpyf n => Sys2Proof.Machine.execCpyf n s
  | .cpyc n => Sys2Proof.Machine.execCpyc n s
  | .cpyq n => Sys2Proof.Machine.execCpyq n s
  | .fpdecl n => Sys2Proof.Machine.execFpdecl n s
  | .mncfg n => Sys2Proof.Machine.execMncfg n s
  | .mncfgCheck n => Sys2Proof.Machine.execMncfgCheck n s
  | .mnldb n => Sys2Proof.Machine.execMnldb n s
  | .mnrun n => Sys2Proof.Machine.execMnrun n s
  | .mnrunP n => Sys2Proof.Machine.execMnrunP n s
  | .mnzero n => Sys2Proof.Machine.execMnzero n s
  | .mnout n => Sys2Proof.Machine.execMnout n s
  | .mnprog n => Sys2Proof.Machine.execMnprog n s
  | .mnaor n => Sys2Proof.Machine.execMnaor n s
  | .mnscl n => Sys2Proof.Machine.execMnscl n s
  | .mnsave n => Sys2Proof.Machine.execMnsave n s
  | .mnrest n => Sys2Proof.Machine.execMnrest n s
  | .mnchk n => Sys2Proof.Machine.execMnchk n s
  | .mnstat n => Sys2Proof.Machine.execMnstat n s
  | .mnswap n => Sys2Proof.Machine.execMnswap n s
  | .hadd n => Sys2Proof.Machine.execHadd n s
  | .hfadd n => Sys2Proof.Machine.execHfadd n s
  | .hmin n => Sys2Proof.Machine.execHmin n s
  | .hmax n => Sys2Proof.Machine.execHmax n s
  | .hfmin n => Sys2Proof.Machine.execHfmin n s
  | .hfmax n => Sys2Proof.Machine.execHfmax n s
  | .hand n => Sys2Proof.Machine.execHand n s
  | .hor n => Sys2Proof.Machine.execHor n s
  | .hxor n => Sys2Proof.Machine.execHxor n s
  | .hxchg n => Sys2Proof.Machine.execHxchg n s
  | .hcas n => Sys2Proof.Machine.execHcas n s
  | .hinc n => Sys2Proof.Machine.execHinc n s
  | .hred n => Sys2Proof.Machine.execHred n s
  | .hseq n => Sys2Proof.Machine.execHseq n s
  | .wlcfg n => Sys2Proof.Machine.execWlcfg n s
  | .wlpush n => Sys2Proof.Machine.execWlpush n s
  | .wlpushb n => Sys2Proof.Machine.execWlpushb n s
  | .wlpop n => Sys2Proof.Machine.execWlpop n s
  | .wldone n => Sys2Proof.Machine.execWldone n s
  | .wldoneSeed n => Sys2Proof.Machine.execWldoneSeed n s
  | .wlmin n => Sys2Proof.Machine.execWlmin n s
  | .wlstat n => Sys2Proof.Machine.execWlstat n s
  | .wldrain n => Sys2Proof.Machine.execWldrain n s
  | .lput n => Sys2Proof.Machine.execLput n s
  | .lputn n => Sys2Proof.Machine.execLputn n s
  | .lget n => Sys2Proof.Machine.execLget n s
  | .latom n => Sys2Proof.Machine.execLatom n s
  | .lflush n => Sys2Proof.Machine.execLflush n s
  | .lchanOpen n => Sys2Proof.Machine.execLchanOpen n s
  | .lchanClose n => Sys2Proof.Machine.execLchanClose n s
  | .lstat n => Sys2Proof.Machine.execLstat n s
  | .lcfgBind n => Sys2Proof.Machine.execLcfgBind n s
  | .lcfgUnbind n => Sys2Proof.Machine.execLcfgUnbind n s
  | .trap n => Sys2Proof.Machine.execTrap n s
  | .trapif n => Sys2Proof.Machine.execTrapif n s
  | .flags n => Sys2Proof.Machine.execFlags n s
  | .flagc n => Sys2Proof.Machine.execFlagc n s
  | .poison n => Sys2Proof.Machine.execPoison n s
  | .pchkMask n => Sys2Proof.Machine.execPchkMask n s
  | .pchkTrap n => Sys2Proof.Machine.execPchkTrap n s
  | .pchkCnt n => Sys2Proof.Machine.execPchkCnt n s
  | .beat n => Sys2Proof.Machine.execBeat n s
  | .beatOff n => Sys2Proof.Machine.execBeatOff n s
  | .tapmOn n => Sys2Proof.Machine.execTapmOn n s
  | .tapmOff n => Sys2Proof.Machine.execTapmOff n s
  | .seqCfg blk => Sys2Proof.Machine.execSeqCfg blk s
  | .seqRun blk ic count => Sys2Proof.Machine.execSeqRun blk ic count s
  | .seqSched blk m1 => Sys2Proof.Machine.execSeqSched blk m1 s
  | .seqLoop ic trips target => Sys2Proof.Machine.execSeqLoop ic trips target s
  | .waitsBlk v => Sys2Proof.Machine.execWaitsBlk v s
  | .waitsIc v => Sys2Proof.Machine.execWaitsIc v s
  | .waitsTok v => Sys2Proof.Machine.execWaitsTok v s
  | .seqNotify nfy v => Sys2Proof.Machine.execSeqNotify nfy v s
  | .seqSlot blk k v => Sys2Proof.Machine.execSeqSlot blk k v s
  | .cmdLaunch c => Sys2Proof.Machine.execCmdLaunch c s
  | .cmdWait c => Sys2Proof.Machine.execCmdWait c s
  | .cmdSignal c => Sys2Proof.Machine.execCmdSignal c s
  | .cmdBarrier c => Sys2Proof.Machine.execCmdBarrier c s
  | .cmdSnapshot c => Sys2Proof.Machine.execCmdSnapshot c s
  | .cmdRestore c => Sys2Proof.Machine.execCmdRestore c s
  | .cmdResume c => Sys2Proof.Machine.execCmdResume c s
  | .cmdDiscard c => Sys2Proof.Machine.execCmdDiscard c s
  | .cmdAbort c => Sys2Proof.Machine.execCmdAbort c s
  | .evDepthApply => Sys2Proof.Machine.execEvDepthApply s
  | .mnditOn => Sys2Proof.Machine.execMnditOn s
  | .mnditOff => Sys2Proof.Machine.execMnditOff s
  | .waitsQuiet => Sys2Proof.Machine.execWaitsQuiet s
  | .seqHalt => Sys2Proof.Machine.execSeqHalt s
  | .evSchedDecision => Sys2Proof.Machine.execEvSchedDecision s
  | .evSlotPatch => Sys2Proof.Machine.execEvSlotPatch s
  | .evConfigPrefetch => Sys2Proof.Machine.execEvConfigPrefetch s
  | .evSeqTokenAccept => Sys2Proof.Machine.execEvSeqTokenAccept s
  | .evNodeDrained => Sys2Proof.Machine.execEvNodeDrained s
  | .skStart => Sys2Proof.Machine.execSkStart s
  | .skFinish => Sys2Proof.Machine.execSkFinish s
  | .skDrained => Sys2Proof.Machine.execSkDrained s
  | .skReopen => Sys2Proof.Machine.execSkReopen s
  | .skClose => Sys2Proof.Machine.execSkClose s
  | .skOpen => Sys2Proof.Machine.execSkOpen s
  | .skCount => Sys2Proof.Machine.execSkCount s
  | .skNotice => Sys2Proof.Machine.execSkNotice s
  | .skCut => Sys2Proof.Machine.execSkCut s
  | .skPark => Sys2Proof.Machine.execSkPark s
  | .skReadmit => Sys2Proof.Machine.execSkReadmit s
  | .skRetire => Sys2Proof.Machine.execSkRetire s
  | .evTokenAccept => Sys2Proof.Machine.execEvTokenAccept s
  | .evMarkerArrival => Sys2Proof.Machine.execEvMarkerArrival s
  | .evMarkerPass => Sys2Proof.Machine.execEvMarkerPass s
  | .evScaleTokenArrival => Sys2Proof.Machine.execEvScaleTokenArrival s
  | .evVaultReturn => Sys2Proof.Machine.execEvVaultReturn s
  | .evSpillReturn => Sys2Proof.Machine.execEvSpillReturn s
  | .evOverflowDrain => Sys2Proof.Machine.execEvOverflowDrain s
  | .evFiringSlotEntry => Sys2Proof.Machine.execEvFiringSlotEntry s
  | .evTokenDepart => Sys2Proof.Machine.execEvTokenDepart s
  | .evTapRecordWrite => Sys2Proof.Machine.execEvTapRecordWrite s
  | .evCounterSourceRun => Sys2Proof.Machine.execEvCounterSourceRun s
  | .evMintFrameRequest => Sys2Proof.Machine.execEvMintFrameRequest s
  | .evFrameReturn => Sys2Proof.Machine.execEvFrameReturn s
  | .evAFifoDiscard => Sys2Proof.Machine.execEvAFifoDiscard s
  | .evLoadReply => Sys2Proof.Machine.execEvLoadReply s
  | .evWalkComplete => Sys2Proof.Machine.execEvWalkComplete s
  | .evWbIdleDrain => Sys2Proof.Machine.execEvWbIdleDrain s
  | .evHsWriteEvent => Sys2Proof.Machine.execEvHsWriteEvent s
  | .evHsReadEvent => Sys2Proof.Machine.execEvHsReadEvent s
  | .evHsAtomicEvent => Sys2Proof.Machine.execEvHsAtomicEvent s
  | .evLineFill => Sys2Proof.Machine.execEvLineFill s
  | .evOperationPerformed => Sys2Proof.Machine.execEvOperationPerformed s
  | .evCpInstanceStart => Sys2Proof.Machine.execEvCpInstanceStart s
  | .evCpPiece => Sys2Proof.Machine.execEvCpPiece s
  | .evAFifoAppend => Sys2Proof.Machine.execEvAFifoAppend s
  | .evRowFiringAdmit => Sys2Proof.Machine.execEvRowFiringAdmit s
  | .evRowFiringRetire => Sys2Proof.Machine.execEvRowFiringRetire s
  | .evBBufferFree => Sys2Proof.Machine.execEvBBufferFree s
  | .evDieWave => Sys2Proof.Machine.execEvDieWave s
  | .evDieWaveDeliver => Sys2Proof.Machine.execEvDieWaveDeliver s
  | .evPackageWave => Sys2Proof.Machine.execEvPackageWave s
  | .evPackageWaveDeliver => Sys2Proof.Machine.execEvPackageWaveDeliver s
  | .evTransferAccept => Sys2Proof.Machine.execEvTransferAccept s
  | .evTransferAck => Sys2Proof.Machine.execEvTransferAck s
  | .evRingRefill => Sys2Proof.Machine.execEvRingRefill s
  | .evStealRequest => Sys2Proof.Machine.execEvStealRequest s
  | .evStealHandover => Sys2Proof.Machine.execEvStealHandover s
  | .evFlitReceive => Sys2Proof.Machine.execEvFlitReceive s
  | .evLinkReplayRequest => Sys2Proof.Machine.execEvLinkReplayRequest s
  | .evPacketTrim => Sys2Proof.Machine.execEvPacketTrim s
  | .pkPut => Sys2Proof.Machine.execPkPut s
  | .pkPutn => Sys2Proof.Machine.execPkPutn s
  | .evPutnArrivalEnter => Sys2Proof.Machine.execEvPutnArrivalEnter s
  | .pkGetq => Sys2Proof.Machine.execPkGetq s
  | .pkGetr => Sys2Proof.Machine.execPkGetr s
  | .pkAtomq => Sys2Proof.Machine.execPkAtomq s
  | .pkAtomr => Sys2Proof.Machine.execPkAtomr s
  | .pkAck => Sys2Proof.Machine.execPkAck s
  | .pkNack => Sys2Proof.Machine.execPkNack s
  | .pkTrimmedHeader => Sys2Proof.Machine.execPkTrimmedHeader s
  | .evRreqSend => Sys2Proof.Machine.execEvRreqSend s
  | .pkRreq => Sys2Proof.Machine.execPkRreq s
  | .pkLinkClose => Sys2Proof.Machine.execPkLinkClose s
  | .pkCloseack => Sys2Proof.Machine.execPkCloseack s
  | .evMessageLifetimeExpiry => Sys2Proof.Machine.execEvMessageLifetimeExpiry s
  | .evArrivalEmit => Sys2Proof.Machine.execEvArrivalEmit s
  | .evFiringImageWrite => Sys2Proof.Machine.execEvFiringImageWrite s
  | .evWithdrawnTokenMove => Sys2Proof.Machine.execEvWithdrawnTokenMove s
  | .evFaultRingWrite => Sys2Proof.Machine.execEvFaultRingWrite s
  | .evWatchdogExpiry => Sys2Proof.Machine.execEvWatchdogExpiry s
  | .evBeatExpiry => Sys2Proof.Machine.execEvBeatExpiry s
  | .evCutComplete => Sys2Proof.Machine.execEvCutComplete s
  | .evBudgetPeriod => Sys2Proof.Machine.execEvBudgetPeriod s
  | .evBudgetExhausted => Sys2Proof.Machine.execEvBudgetExhausted s
  | .evQueueWindowWrite => Sys2Proof.Machine.execEvQueueWindowWrite s
  | .evRegionGrant => Sys2Proof.Machine.execEvRegionGrant s
  | .evCompletionWrite => Sys2Proof.Machine.execEvCompletionWrite s
  | .evNfyArm => Sys2Proof.Machine.execEvNfyArm s
  | .evHsSplitWrite => Sys2Proof.Machine.execEvHsSplitWrite s
  | .evPartitionReset => Sys2Proof.Machine.execEvPartitionReset s
  | .evPartitionEnable => Sys2Proof.Machine.execEvPartitionEnable s
  | .evPartInv => Sys2Proof.Machine.execEvPartInv s
  | .evFwLoad => Sys2Proof.Machine.execEvFwLoad s
  | .evFwRaise => Sys2Proof.Machine.execEvFwRaise s
  | .evFwAttest => Sys2Proof.Machine.execEvFwAttest s
  | .evEtBufWrite => Sys2Proof.Machine.execEvEtBufWrite s
  | .evEtGrantWrite => Sys2Proof.Machine.execEvEtGrantWrite s
  | .evRegisterWrite => Sys2Proof.Machine.execEvRegisterWrite s
  | .evHostMemAccess => Sys2Proof.Machine.execEvHostMemAccess s
  | .evPowerOnReset => Sys2Proof.Machine.execEvPowerOnReset s
  | .evInitComplete => Sys2Proof.Machine.execEvInitComplete s
  | .evThrottleStep => Sys2Proof.Machine.execEvThrottleStep s
  | .evThermalTrip => Sys2Proof.Machine.execEvThermalTrip s
  | .evPatrolScrub => Sys2Proof.Machine.execEvPatrolScrub s
  | .evHoldComplete => Sys2Proof.Machine.execEvHoldComplete s
  | .evSliceElapsed => Sys2Proof.Machine.execEvSliceElapsed s
  | .evPortUpChange => Sys2Proof.Machine.execEvPortUpChange s
  | .evPowerLoss => Sys2Proof.Machine.execEvPowerLoss s

end Sys2Proof.Machine
end

