-- ==== Sys2Proof/Machine/Fetch.lean ====
section
/-! DEFINITION. Fetching: the words that the unit named by the schedule's turn executes next, and where they stand. -/

namespace Sys2Proof.Machine

/-- The words that a turn fetches, and what the step acts on; none when there is nothing to fetch. -/
def State.fetch (s : State) (a : Act) : Option (Raw × Cur) :=
  match a with
  | .fire pos slot =>
    if !s.ready then none
    else match (s.node pos).slot slot with
      | some f =>
        if f.held || !s.canRun f.region then none
        else some ({ src := .node, words := [f.words.getD f.ix 0] }, { pos := pos, slot := slot, region := f.region })
      | none => none
  | .pop pos ctx =>
    if !s.ready then none
    else
      let x := s.ctx pos ctx
      match x.owner with
      | some o =>
        if x.mode = 3 ∧ kindOf pos = .till ∧ s.canRun o.region then
          some ({ src := .node, words := [x.sequence.headD 0] }, { pos := pos, slot := ctx, region := o.region })
        else none
      | none => none
  | .control region =>
    if !s.ready then none
    else match s.region region with
      | some r =>
        if (r.stat = 2 ∨ r.stat = 3 ∨ r.stat = 5) ∧ r.cut.isNone ∧ ¬ r.frozen ∧ ¬ r.aborting then
          match r.ccws[r.cc]? with
          | some w => some ({ src := .control, words := [w] }, { pos := r.seqCoord, region := region })
          | none => none
        else none
      | none => none
  | .command q =>
    if !s.ready then none
    else match (s.queue q).fifo with
      | ws :: _ => some ({ src := .queue, words := ws }, { pos := mkCoord 0 0 0, queue := q })
      | [] => none
  | .strobe i =>
    match s.strobes[i]? with
    | some m => some ({ src := .strobe, words := [m.word] }, { pos := mkCoord 0 0 0, region := m.region, place := i })
    | none => none
  | .packet i =>
    match s.packets[i]? with
    | some p => some ({ src := .packet, words := encodePkt p.pkt.hdr }, { pos := linkNode p.port, place := i })
    | none => none
  | .event ws => some ({ src := .event, words := ws }, { pos := mkCoord 0 0 0 })

/-- The schedule's next turn taken off, with the time that passes before it, and the free values renewed. Escrow's accesses to its
cells, which the step before began, are performed first. -/
def State.begin (s : State) (t : Turn) (rest : List Turn) : State :=
  (({ s with turns := rest, freeCtr := s.freeCtr + 1 } : State).performCells).tick t.cycles t.usec

/-- A firing's word that is no instruction (R53, R82): a firing that SKIP answered goes on behind it (R450); any other parks its
frame with ILLEGAL_INSN. The word of a pop source is no firing's, and nothing happens. -/
def State.rejectNode (s : State) (w : Word) : Out :=
  match (s.node s.cur.pos).slot s.cur.slot with
  | some f =>
    if f.words.getD f.ix 0 ≠ w then .next s
    else if f.skipAll then .next ((s.countSkip s.cur.pos (popcount (f.tmask % 2 ^ f.len) f.len)).advance s.cur.pos s.cur.slot)
    else s.takeFrameFault s.cur.pos s.cur.slot .firing (s.infoOf s.cur.pos f Cause.illegalInsn 0)
  | none => .next s

/-- Words that are no well-formed instruction: a node's, as above; a queue entry is a bad command (R124); a packet of a reserved
kind is dropped and counted in BADPKT (R411). A strobe or a control word that no unit can have sent, and an event outside the model's
list, do nothing. -/
def State.reject (s : State) (r : Raw) : Out :=
  match r.src with
  | .node => s.rejectNode (r.words.headD 0)
  | .queue => s.badEntry s.cur.queue r.words
  | .packet =>
    match s.packets[s.cur.place]? with
    | none => .next s
    | some p =>
      let s : State := { s with packets := dropNth s.packets s.cur.place }
      if 11 ≤ (r.words.headD 0).toNat / 2 ^ 60 then .next (s.modLink p.port fun l => { l with badPkt := satAdd 16 l.badPkt 1 })
      else .next s
  | _ => .next s

/-! ## Placing a word where the next step fetches it -/

/-- The node kind whose firing sequences accept an opcode (R52). -/
def nodeOfOpcode (opc : Nat) : Coord :=
  if opc < 0x60 then elemCoord 0 0
  else if opc < 0x80 then clusterNode 0 1
  else if opc < 0x90 then elemCoord 0 0
  else if opc < 0xb0 then elemCoord 1 0
  else if opc < 0xc0 then clusterNode 0 4
  else if opc < 0xd0 then clusterNode 0 3
  else if opc < 0xe0 then elemCoord 1 0
  else if opc < 0xe8 then clusterNode 0 5
  else if opc < 0xf0 then linkNode 0
  else elemCoord 0 0

/-- A region of one cluster that belongs to partition 1. -/
def oneRegion (id : Nat) : Region :=
  { id := id, lid := 0, olid := 0, part := 1, queue := 0, entry := 0, gx := 0, gy := 0, w := 1, h := 1, obj := 0,
    hwin := 0, hdr := [], blkTab := [], slotTab := [], fpTab := [], dataTab := [], relocs := [], slotVals := [],
    ccws := [], rgw := 1, rgh := 1, stat := 2, frames := [(0, { state := 1, s := 12, tcnt := 1 })] }

/-- A firing of one lane whose sequence is one word. -/
def oneFiring (region : Nat) (w : Word) : Firing :=
  { region := region, ctx := 0, frame := 0, iter := 0, len := 1, tmask := 1, pmask := 0,
    ports := [{ port := 0, wide := true, lanes := [0], mask := 1, poison := 0, scales := [], arr := 0, buf := .vault }],
    words := [w], consts := List.replicate 8 0, gathered := true, consumed := 1 }

/-- The device runs and partition 1 is enabled. -/
def State.running (s : State) : State :=
  { s with dev := { s.dev with state := 3 }, parts := s.parts.set 1 { s.partOf 1 with en := true, state := 1 } }

/-- The next step is this turn. -/
def State.nextTurn (s : State) (a : Act) : State := { s with turns := { cycles := 0, usec := 0, act := a } :: s.turns }

/-- The state with words placed where the next step fetches them, with what their unit needs to fetch them: a region of
partition 1 with a firing, a pop source or a control stream; a strobe; a queue entry; a packet; an event. -/
def State.putWords (s : State) (r : Raw) : State :=
  let w := r.words.headD 0
  let id := s.nextRegion
  let owner : Owner := { region := id, blk := 0, vx := 0, vy := 0, nk := 0, fold := 0 }
  let addRegion (s : State) (g : Region → Region) : State :=
    { s with regions := s.regions ++ [g (oneRegion id)], nextRegion := id + 1 }
  match r.src with
  | .node =>
    let opc := w.toNat / 2 ^ 56
    let pos := nodeOfOpcode opc
    let s := addRegion s.running id'
    let s := s.modCtx pos 0 fun x => { x with owner := some owner, niws := [w], cw := if opc = 0xe3 then 3 <<< 58 else 0 }
    if opc = 0xe3 then s.nextTurn (.pop pos 0)
    else (s.modNode pos fun n => n.setSlot 0 (some (oneFiring id w))).nextTurn (.fire pos 0)
  | .control => (addRegion s.running fun x => { x with ccws := [w] }).nextTurn (.control id)
  | .strobe =>
    let m : Strobe := { src := .anchor id, dst := .node (elemCoord 0 0), region := id, word := w }
    { s.nextTurn (.strobe s.strobes.length) with strobes := s.strobes ++ [m] }
  | .queue =>
    (s.running.modQueue 0 fun q => { q with en := true, owner := 1, fifo := r.words :: q.fifo }).nextTurn (.command 0)
  | .packet =>
    match decodePkt r.words with
    | .ok { instr := _, arg := .pkt h } =>
      { s.nextTurn (.packet s.packets.length) with
        packets := s.packets ++ [{ port := 0, crossing := false, pkt := { hdr := h, data := [] } }] }
    | _ => s
  | .event => s.nextTurn (.event r.words)
where
  /-- The region as it is. -/
  id' (r : Region) : Region := r

end Sys2Proof.Machine
end

