-- ==== Sys2Proof/Machine/Run.lean ====
section
/-! DEFINITION. Running fetched words: decoding, checking and executing them; which of a node's slots issues first (R173, R222); and a
zero-mask firing, whose words take one issue cycle together (R173). -/

namespace Sys2Proof.Machine

/-- A decoded instruction runs when it is well-formed (R82). -/
def State.run (s : State) (r : Raw) (f : Fetched) : Host.Outcome State Fault Refusal :=
  if f.wf then exec f.instr { s with cur := { s.cur with arg := f.arg } } else s.reject r

/-- What a fetched word does. -/
def State.execute (s : State) (r : Raw) : Host.Outcome State Fault Refusal :=
  match decode r with
  | .ok f => s.run r f
  | .error _ => s.reject r

/-! ## The order of the slots (R173, R222) -/

/-- The firing in a slot can issue: its word, executed now, does something. One that waits changes nothing. -/
def State.canIssue (s : State) (pos : Coord) (slot : Nat) : Bool :=
  match s.fetch (.fire pos slot) with
  | none => false
  | some (r, c) =>
    match State.execute { s with cur := c } r with
    | .next t => decide (({ t with cur := s.cur } : State) ≠ s)
    | _ => true

/-- No instruction of the firing in the slot has issued since its entry. -/
def Firing.unbegun (f : Firing) : Bool := f.ix == 0 && f.part == 0 && f.opid == 0 && !f.early

/-- The other slots of a node that may be served before this one: of an ME all that are occupied (R222); of a CE or a Numeric Unit those
whose firings entered before and have not begun: nothing but room can hold up their first pass (R173). How long the later passes of a
firing take is left out (log 63), so their order is the schedule's (log 28). -/
def State.rivals (s : State) (pos : Coord) (slot : Nat) (f : Firing) : List (Firing × Nat) :=
  let others := (s.node pos).slots.zipIdx.filterMap fun x => if x.2 = slot then none else x.1.map fun g => (g, x.2)
  match kindOf pos with
  | .me => others
  | .ce | .nu => others.filter fun g => g.1.unbegun && decide (g.1.entry < f.entry)
  | _ => []

/-- The slot that a turn names does not issue in it: a slot that can issue goes before it, at an ME the one that R48 chooses (R222), at a
CE or a Numeric Unit one whose firing entered earlier (R173). -/
def State.yields (s : State) (a : Act) : Bool :=
  match a with
  | .fire pos slot =>
    match (s.node pos).slot slot with
    | none => false
    | some f =>
      match (s.rivals pos slot f).filter fun g => s.canIssue pos g.2 with
      | [] => false
      | first => kindOf pos != .me || s.arbitrate pos (s.node pos).lastIssue ((f, slot) :: first) != some slot
  | _ => false

/-! ## A zero-mask firing (R173) -/

/-- The turn names a zero-mask firing of a CE or a Numeric Unit: its place, its number of entry and its next index. -/
def State.zeroRun (s : State) (a : Act) : Option (Coord × Nat × Nat × Nat) :=
  match a with
  | .fire pos slot =>
    match (s.node pos).slot slot with
    | some f => if f.tmask = 0 ∧ (kindOf pos = .ce ∨ kindOf pos = .nu) then some (pos, slot, f.entry, f.ix + 1) else none
    | none => none
  | _ => none

/-- The further words of a zero-mask firing that has issued up to index `ix`, until one waits or faults or the last has run; at most
`fuel` of them. -/
def State.zeroRest : Nat → State → Coord × Nat × Nat × Nat → Host.Outcome State Fault Refusal
  | 0, s, _ => .next s
  | fuel + 1, s, (pos, slot, entry, ix) =>
    match (s.node pos).slot slot, s.fetch (.fire pos slot) with
    | some f, some (r, c) =>
      if f.entry = entry ∧ f.ix = ix then
        match State.execute { s with cur := c } r with
        | .next t => State.zeroRest fuel t (pos, slot, entry, ix + 1)
        | o => o
      else .next s
    | _, _ => .next s

/-- What follows a turn's own word: the rest of a zero-mask firing (R173). A sequence has at most 16 words. -/
def zeroAfter (z : Option (Coord × Nat × Nat × Nat)) (o : Host.Outcome State Fault Refusal) : Host.Outcome State Fault Refusal :=
  match z, o with
  | some z, .next t => t.zeroRest 16 z
  | _, o => o

end Sys2Proof.Machine
end

