-- ==== Sys2Proof/Machine/Step.lean ====
section
/-! DEFINITION. One step of the machine: a turn of the schedule, its words fetched and run; and
the placing of a table word where the next step fetches it. -/

namespace Sys2Proof.Machine

/-- One step. With no turn left in the schedule the machine stays as it is; a slot before which another goes does not issue in its turn
(R173, R222). -/
def step (s : State) : Host.Outcome State Fault Refusal :=
  match s.turns with
  | [] => .next s
  | t :: rest =>
    let s := s.begin t rest
    match s.fetch t.act with
    | none => .next s
    | some (r, c) =>
      if s.yields t.act then .next s
      else zeroAfter (s.zeroRun t.act) (State.execute { s with cur := c } r)

/-- The state with a table word's instruction placed where the next step fetches it. -/
def State.withFetchWord (s : State) (_nbits w : Nat) : State := s.putWords (rawOfTableWord w)

end Sys2Proof.Machine
end

