-- ==== Sys2Proof/Safety.lean ====
section
/-! DEFINITION. What a safe run is, in the terms the statements use. -/

namespace Sys2Proof.Machine

/-- A step goes on: it answers a next state. -/
def State.goesOn (s : State) : Prop := ∃ t, step s = .next t

/-- The machine's data keep their forms: memory is canonical. -/
def State.Good (s : State) : Prop := Memory.wf s.mem = true

end Sys2Proof.Machine
end

