-- ==== Sys2Proof/Certificates/Slice0/Obligations.lean ====
section
/-! DEFINITION. The statements for the provers, each `def Obligations.<Name> : Prop`, and the words they are written in. -/

open Sys2Proof Sys2Proof.Machine

namespace Sys2Proof.Claims

/-- The step executes the firing `f`: it stands in the current slot, waits on no record, and no answer bears on its
instruction (R447, R449). -/
def Runs (s : State) (f : Firing) : Prop :=
  s.firing = some f ∧ f.held = false ∧ f.due = none ∧ f.skipped = false ∧ f.patch = none

/-- The instruction ends with its result (R178 to R181): `ls` are the lanes written under its effective mask. -/
def Ends (i : Instr) (s : State) (f : Firing) (n : Niw) (wide : Bool) (ls : List (Nat × Lane)) : Prop :=
  exec i s = .next (s.complete f n.d wide (f.eff n.pred) ls)

/-- No event stands at a home slice and waits for its line (R345). -/
def NoFills (s : State) : Prop := ∀ o ∈ s.ops, ∀ q ∈ o.todo, q.filling = false

/-- The output queue takes what the instruction sends (R174). -/
def Room (s : State) (f : Firing) (n : Niw) (wide : Bool) : Prop := s.roomFor s.cur.pos f n.d wide = true

/-- The operands of a lane, as patterns with their poison (R58, R59). -/
def operands (s : State) (f : Firing) (n : Niw) (srcs : List (Ty × Sel)) (l : Nat) : List PVal :=
  srcs.zipIdx.map fun q => s.readSel s.cur.pos f n q.1.1 q.2 q.1.2 l

/-- The lanes of a lane-wise instruction: every active lane, with the value and flags that `g` gives on its operands, and
poisoned when one of them or its predicate bit is (R180). -/
def lanesOf (s : State) (f : Firing) (n : Niw) (srcs : List (Ty × Sel)) (g : List Nat → Nat × Nat) : List (Nat × Lane) :=
  (f.active n.pred).map fun l =>
    let vs := operands s f n srcs l
    (l, { v := (g (vs.map (·.1))).1, psn := f.predPoison n.pred l || vs.any (·.2), fl := (g (vs.map (·.1))).2 })

/-- A lane-wise instruction: its width, its operands, its value and flags. -/
structure LaneRow where
  i : Instr
  wide : Bool
  srcs : List (Ty × Sel)
  g : List Nat → Nat × Nat

/-- Integer arithmetic of R187 and R195 on up to three operands. -/
def arith (n : Niw) (i : Instr) (op : Int → Int → Int → Int) : LaneRow :=
  { i := i, wide := n.ty.isWide, srcs := [(n.ty, n.a), (n.ty, n.b), (n.ty, n.c)],
    g := fun v => ires n.ty n.sat (op (asInt n.ty (arg v 0)) (asInt n.ty (arg v 1)) (asInt n.ty (arg v 2))) }

/-- A bit operation of R190 to R192 on patterns of `w` bits: no flag, and the result kept to `w` bits. -/
def logic (n : Niw) (i : Instr) (op : Nat → Nat → Nat → Nat) : LaneRow :=
  { i := i, wide := n.ty.isWide, srcs := [(n.ty, n.a), (n.ty, n.b), (n.ty, n.c)],
    g := fun v => (op (arg v 0) (arg v 1) (arg v 2) % 2 ^ n.ty.width, 0) }

/-- The destination is in the set d of R186, and the operand in its set v for an integer TY. -/
def inD (d : Dst) : Prop := ∀ k, d ≠ .m k
def inV (x : Sel) : Prop := x ≠ .none ∧ x ≠ .immf

/-- A magnitude with its sign. -/
def signed (neg : Bool) (m : Nat) : Int := if neg then -(m : Int) else m

/-- The integer arithmetic instructions with what they compute, exactly (R187, R195). -/
def arithRows (n : Niw) : List LaneRow :=
  [arith n (.add n) fun a b _ => a + b, arith n (.sub n) fun a b _ => a - b, arith n (.mul n) fun a b _ => a * b,
   arith n (.mulh n) fun a b _ => a * b / 2 ^ n.ty.width, arith n (.mad n) fun a b c => a * b + c,
   arith n (.sad n) fun a b c => (a - b).natAbs + c, arith n (.min n) fun a b _ => min a b,
   arith n (.max n) fun a b _ => max a b, arith n (.abs n) fun a _ _ => a.natAbs, arith n (.neg n) fun a _ _ => -a,
   arith n (.clamp n) fun a b c => min (max a b) c, arith n (.lea n) fun a b _ => a + b * 2 ^ (n.imm.toNat % 16),
   arith n (.lea2 n) fun a b c => a + b * 2 ^ (n.imm.toNat % 16) + c * 2 ^ (n.imm.toNat / 16 % 16)]

/-- The logic and shift instructions (R190). -/
def logicRows (n : Niw) : List LaneRow :=
  let w := n.ty.width
  [logic n (.and n) fun a b _ => a &&& b, logic n (.or n) fun a b _ => a ||| b, logic n (.xor n) fun a b _ => a ^^^ b,
   logic n (.andn n) fun a b _ => a &&& (2 ^ w - 1 - b % 2 ^ w), logic n (.not n) fun a _ _ => 2 ^ w - 1 - a % 2 ^ w,
   logic n (.shl n) fun a b _ => if w ≤ b % 256 then 0 else a * 2 ^ (b % 256), logic n (.shr n) fun a b _ => a / 2 ^ (b % 256),
   logic n (.sar n) fun a b _ => wrap (sx a w / 2 ^ (b % 256)) w,
   logic n (.rot n) fun a b _ => a * 2 ^ (b % 256 % w) + a / 2 ^ (w - b % 256 % w),
   logic n (.funnel n) fun a b c => (a * 2 ^ w + b) / 2 ^ (c % w)]

/-- Moves, comparisons and constants (R65, R194, R195). -/
def moveRows (n : Niw) : List LaneRow :=
  [{ i := .mov n, wide := n.ty.isWide, srcs := [(n.ty, n.a)], g := fun v => (arg v 0, 0) },
   { i := .movi n, wide := false, srcs := [], g := fun _ => (wrap (sx n.imm.toNat 16) 32, 0) },
   { i := .moviHi n, wide := false, srcs := [(.n32, n.a)], g := fun v => (n.imm.toNat * 2 ^ 16 + arg v 0 % 2 ^ 16, 0) },
   { i := .cmp n, wide := false, srcs := [(n.ty, n.a), (n.ty, n.b)],
     g := fun v => (b2n (compareAs n.ty false n.opt.toNat (arg v 0) (arg v 1)), 0) },
   { i := .cmpm n, wide := false, srcs := [(n.ty, n.a), (n.ty, n.b)],
     g := fun v => (b2n (compareAs n.ty false n.opt.toNat (arg v 0) (arg v 1)), 0) }]

/-- The bit-field and packing instructions, whose values are given elsewhere. -/
def fieldInsns (n : Niw) : List Instr :=
  [.dot4 n, .clz n, .ctz n, .popc n, .brev n, .bfe n, .bfi n, .perm n, .pack n, .unpk n, .hash n]

/-- The lane and mask instructions, whose lanes depend on other lanes. -/
def crossInsns (n : Niw) : List Instr :=
  [.sel n, .shfl n, .bcast n, .lred n, .lscan n, .cnt n, .mand n, .mor n, .mxor n, .mnot n, .mpop n, .mfirst n, .mset n,
   .tagrd n, .fred n, .amaxb n, .merge n, .gate n]

/-- The Compute Element's float instructions of one lane (R201 to R208). -/
def floatInsns (n : Niw) : List Instr :=
  [.fadd n, .fsub n, .fmul n, .ffma n, .ffms n, .fnma n, .fnms n, .fmin n, .fmax n, .fminn n, .fmaxn n, .fmaxa n, .fmed3 n,
   .fabs n, .fneg n, .fcopysign n, .fcmp n, .fcmpm n, .fclass n, .frint n, .ffrac n, .fscale n, .fgetexp n, .fgetman n,
   .fdot2 n, .flerp n, .fcvts n]

/-- The Numeric Unit's instructions of one lane (R259 to R268). -/
def numericInsns (n : Niw) : List Instr :=
  [.cvt n, .cvti n, .cvtf n, .dqnt n, .rng n, .exp2 n, .log2 n, .exp n, .ln n, .rcp n, .rsq n, .sqrt n, .div n, .sinpi n,
   .cospi n, .tanh n, .sigm n, .atanpi n, .erf n, .dfma n, .dadd n, .dmul n, .ddiv n, .dsqrt n, .idiv n, .irem n]

/-- The width and the operands of those instructions (R189 to R193, R200 to R208, R259 to R268). -/
def laneForm : Instr → Bool × List (Ty × Sel)
  | .dot4 n => (false, [(.n32, n.a), (.n32, n.b), (if n.ty.isSigned then .i32 else .n32, n.c)])
  | .clz n | .ctz n | .popc n | .brev n | .bfe n | .bfi n => (n.ty.isWide, [(n.ty, n.a), (n.ty, n.b), (n.ty, n.c)])
  | .perm n => (false, [(.n32, n.a), (.n32, n.b), (.n32, n.c)])
  | .pack n => (false, [(packSrc n.ty, n.a), (packSrc n.ty, n.b), (.n32, n.c)])
  | .unpk n => (false, [(.n32, n.a)])
  | .hash n | .rng n => (false, [(.n32, n.a), (.n32, n.b)])
  | .fcmp n | .fcmpm n => (false, [(n.ty, n.a), (n.ty, n.b)])
  | .fclass n => (false, [(n.ty, n.a)])
  | .fscale n => (n.ty.isWide, [(n.ty, n.a), (.i32, n.b)])
  | .fdot2 n => (false, [(.n32, n.a), (.n32, n.b), (.f32, n.c)])
  | .fcvts n => (n.ty.isWide, [(Ty.ofCode n.opt.toNat, n.a)])
  | .cvt n | .cvti n | .cvtf n => (n.ty.isWide, [(Ty.ofCode (n.opt.toNat % 16), n.a)])
  | .dqnt n => (false, [(Ty.ofCode (n.opt.toNat % 16), n.a), (.n8, n.b)])
  | .exp2 n | .log2 n | .exp n | .ln n | .rcp n | .rsq n | .sqrt n | .sinpi n | .cospi n | .tanh n | .sigm n | .atanpi n | .erf n =>
    (n.ty.isWide, [(n.ty, n.a)])
  | .idiv n | .irem n => (n.ty.isWide, [(n.ty, n.a), (n.ty, n.b)])
  | i => match i.niw with
    | some n => (n.ty.isWide, [(n.ty, n.a), (n.ty, n.b), (n.ty, n.c)])
    | none => (false, [])

/-- The lanes that give every active lane its value and flags, by lane number and operands, with the poison of R180. -/
def lanesBy (s : State) (f : Firing) (n : Niw) (srcs : List (Ty × Sel)) (g : Nat → List Nat → Nat × Nat) : List (Nat × Lane) :=
  (f.active n.pred).map fun l =>
    let vs := operands s f n srcs l
    (l, { v := (g l (vs.map (·.1))).1, psn := f.predPoison n.pred l || vs.any (·.2), fl := (g l (vs.map (·.1))).2 })

/-- An instruction of one lane: its width, its operands, and its value and flags in a lane on the operands' patterns. -/
structure ValueRow where
  i : Instr
  wide : Bool
  srcs : List (Ty × Sel)
  g : Nat → List Nat → Nat × Nat

/-- A bit operation on patterns of TY's width, without flags. -/
def onBits (n : Niw) (i : Instr) (op : Nat → Nat → Nat → Nat) : ValueRow :=
  { i := i, wide := n.ty.isWide, srcs := [(n.ty, n.a), (n.ty, n.b), (n.ty, n.c)],
    g := fun _ v => (op (arg v 0) (arg v 1) (arg v 2) % 2 ^ n.ty.width, 0) }

/-- Byte `i` of a pattern, read as a number of TY's signedness. -/
def byteOf (ty : Ty) (x i : Nat) : Int := if ty.isSigned then sx (bits x (8 * i) 8) 8 else (bits x (8 * i) 8 : Nat)

/-- The values of the bit-field and packing instructions (R189, R191, R192, R193, R200). -/
def fieldValues (n : Niw) : List ValueRow :=
  let w := n.ty.width
  let acc : Ty := if n.ty.isSigned then .i32 else .n32
  let narrow (x : Nat) : Nat × Nat := if n.ty.isInt then ires n.ty n.sat (asInt (packSrc n.ty) x) else (x, 0)
  [⟨.dot4 n, false, [(.n32, n.a), (.n32, n.b), (acc, n.c)], fun _ v => ires acc n.sat (asInt acc (arg v 2) + byteOf n.ty (arg v 0) 0 * byteOf n.ty (arg v 1) 0 +
      byteOf n.ty (arg v 0) 1 * byteOf n.ty (arg v 1) 1 + byteOf n.ty (arg v 0) 2 * byteOf n.ty (arg v 1) 2 +
      byteOf n.ty (arg v 0) 3 * byteOf n.ty (arg v 1) 3)⟩,
   onBits n (.clz n) fun a _ _ => if a = 0 then w else w - 1 - Nat.log2 a,
   onBits n (.ctz n) fun a _ _ => ((List.range w).find? fun i => bit a i).getD w,
   onBits n (.popc n) fun a _ _ => ((List.range w).filter fun i => bit a i).length,
   onBits n (.brev n) fun a _ _ => maskOf w fun i => bit a (w - 1 - i),
   onBits n (.bfe n) fun a b c =>
     if c % 256 = 0 ∨ w ≤ b % 256 then 0
     else
       let m := min (c % 256) (w - b % 256)
       if n.ty.isSigned then wrap (sx (bits a (b % 256) m) m) w else bits a (b % 256) m,
   onBits n (.bfi n) fun a b _ => setBits b (n.imm.toNat % 256) (n.imm.toNat / 256) a,
   ⟨.perm n, false, [(.n32, n.a), (.n32, n.b), (.n32, n.c)], fun _ v =>
     let byte (i : Nat) : Nat :=
       let k := bits (arg v 2) (4 * i) 4
       if k < 8 then bits (arg v 1 * 2 ^ 32 + arg v 0) (8 * k) 8 else 0
     (pack [(8, byte 0), (8, byte 1), (8, byte 2), (8, byte 3)], 0)⟩,
   ⟨.pack n, false, [(packSrc n.ty, n.a), (packSrc n.ty, n.b), (.n32, n.c)], fun _ v =>
     let a := narrow (arg v 0)
     let b := narrow (arg v 1)
     (if w = 16 then pack [(16, a.1), (16, b.1)] else pack [(8, a.1), (8, b.1), (16, arg v 2)], a.2 ||| b.2)⟩,
   ⟨.unpk n, false, [(.n32, n.a)], fun _ v =>
     let e := bits (arg v 0) (n.imm.toNat * w) w
     (if n.ty.isSigned then wrap (sx e w) 32 else e, 0)⟩,
   ⟨.hash n, false, [(.n32, n.a), (.n32, n.b)], fun _ v =>
     let x := (arg v 0 ^^^ arg v 1) % 2 ^ 32
     let y := (x ^^^ (x >>> 16)) * 0x9E3779B1 % 2 ^ 32
     let z := (y ^^^ (y >>> 13)) * 0x6C8E9CF5 % 2 ^ 32
     (z ^^^ (z >>> 16), 0)⟩]

/-- A float operation of three operands of TY under the instruction's rounding. -/
def onFloats (s : State) (f : Firing) (n : Niw) (i : Instr) (op : Rounding → Nat → Nat → Nat → Nat × Nat) : ValueRow :=
  { i := i, wide := n.ty.isWide, srcs := [(n.ty, n.a), (n.ty, n.b), (n.ty, n.c)],
    g := fun l v => op (s.rounding f n n.ty l) (arg v 0) (arg v 1) (arg v 2) }

/-- A float operation on the value of one operand, with what a NaN, an infinity and a finite value give. -/
def onValue (s : State) (f : Firing) (n : Niw) (i : Instr) (inf : Rounding → Bool → Nat × Nat)
    (fin : Rounding → Bool → Nat → Int → Nat × Nat) : ValueRow :=
  onFloats s f n i fun r a _ _ =>
    match r.arg r.ty a with
    | .fin neg m e => fin r neg m e
    | .inf neg => inf r neg
    | v => canon r.ty (nanFlags [v])

/-- The values of the Compute Element's float instructions (R184, R201 to R208). -/
def floatValues (s : State) (f : Firing) (n : Niw) : List ValueRow :=
  let sign := n.ty.fmt.signBit
  [onFloats s f n (.fadd n) fun r a b _ => r.add a b false, onFloats s f n (.fsub n) fun r a b _ => r.add a b true,
   onFloats s f n (.fmul n) fun r a b _ => r.mul a b, onFloats s f n (.ffma n) fun r a b c => r.fma a b c false false,
   onFloats s f n (.ffms n) fun r a b c => r.fma a b c false true, onFloats s f n (.fnma n) fun r a b c => r.fma a b c true false,
   onFloats s f n (.fnms n) fun r a b c => r.fma a b c true true,
   onFloats s f n (.fmin n) fun _ a b _ => fminmax n.ty n.fz false a b, onFloats s f n (.fmax n) fun _ a b _ => fminmax n.ty n.fz true a b,
   onFloats s f n (.fminn n) fun _ a b _ => fminmaxn n.ty n.fz false a b,
   onFloats s f n (.fmaxn n) fun _ a b _ => fminmaxn n.ty n.fz true a b,
   onFloats s f n (.fmaxa n) fun _ a b _ => fminmaxn n.ty n.fz true (a % sign) (b % sign),
   onFloats s f n (.fmed3 n) fun _ a b c =>
     let lo := (fminmaxn n.ty n.fz false a b).1
     let hi := (fminmaxn n.ty n.fz true a b).1
     ((fminmaxn n.ty n.fz true lo (fminmaxn n.ty n.fz false hi c).1).1, nanFlags [fval n.ty a, fval n.ty b, fval n.ty c]),
   onFloats s f n (.fabs n) fun _ a _ _ => (a % sign, 0), onFloats s f n (.fneg n) fun _ a _ _ => (a ^^^ sign, 0),
   onFloats s f n (.fcopysign n) fun _ a b _ => (a % sign + (b - b % sign), 0),
   ⟨.fclass n, false, [(n.ty, n.a)], fun _ v => (classOf n.ty (arg v 0), 0)⟩,
   onValue s f n (.frint n) (fun r neg => r.put 0 (.inf neg)) fun r neg m e =>
     if m = 0 then r.put 0 (.fin neg 0 0)
     else
       let q := rndInt r.rm r.draw { neg := neg, m := m, e := e }
       (exactCode r.ty (.fin neg q.1.natAbs 0), flagIf q.2 Flag.inexact),
   onValue s f n (.ffrac n) (fun r _ => canon r.ty Flag.invalid) fun r neg m e =>
     (exactCode r.ty (if 0 ≤ e then .fin neg 0 0 else .fin neg (m % 2 ^ (-e).toNat) e), 0),
   onValue s f n (.fgetexp n) (fun r _ => r.put 0 (.inf false)) fun r _ m e =>
     if m = 0 then r.put Flag.divZero (.inf true)
     else (exactCode r.ty (.fin (decide (e + Nat.log2 m < 0)) (e + Nat.log2 m).natAbs 0), 0),
   onValue s f n (.fgetman n) (fun r _ => canon r.ty Flag.invalid) fun r neg m e =>
     (exactCode r.ty (if m = 0 then .fin neg 0 e else .fin neg m (-(Nat.log2 m : Int))), 0)] ++
  [Instr.fcmp n, .fcmpm n].map (fun i =>
    { i := i, wide := false, srcs := [(n.ty, n.a), (n.ty, n.b)],
      g := fun _ v =>
        let un := (fval n.ty (arg v 0)).isNan || (fval n.ty (arg v 1)).isNan
        (b2n (compareAs n.ty n.fz n.opt.toNat (arg v 0) (arg v 1)),
         nanFlags [fval n.ty (arg v 0), fval n.ty (arg v 1)] ||| flagIf (un && decide (2 ≤ n.opt.toNat ∧ n.opt.toNat ≤ 5)) Flag.invalid) }) ++
  [⟨.fscale n, n.ty.isWide, [(n.ty, n.a), (.i32, n.b)], fun l v =>
     let r := s.rounding f n n.ty l
     match r.arg r.ty (arg v 0) with
     | .fin neg m e => r.put 0 (.fin neg m (e + sx (arg v 1) 32))
     | .inf neg => r.put 0 (.inf neg)
     | x => canon r.ty (nanFlags [x])⟩,
   ⟨.fdot2 n, false, [(.n32, n.a), (.n32, n.b), (.f32, n.c)], fun l v =>
     let r := s.rounding f n .f32 l
     let el (x i : Nat) : FVal := r.arg n.ty (bits x (16 * i) 16)
     r.sumProd [el (arg v 0) 0, el (arg v 0) 1, el (arg v 1) 0, el (arg v 1) 1, r.arg .f32 (arg v 2)]
       [(el (arg v 0) 0, el (arg v 1) 0), (el (arg v 0) 1, el (arg v 1) 1)] [r.arg .f32 (arg v 2)]⟩,
   ⟨.fcvts n, n.ty.isWide, [(Ty.ofCode n.opt.toNat, n.a)], fun l v =>
     let r := s.rounding f n n.ty l
     match r.arg (Ty.ofCode n.opt.toNat) (arg v 0) with
     | .nan g => canon r.ty (nanFlags [.nan g])
     | x => r.put 0 x⟩]

/-- A transcendental function on one operand; its free choice is the step's (R265, log 1). -/
def onTrans (s : State) (f : Firing) (n : Niw) (i : Instr) (fn : TransFn) : ValueRow :=
  { i := i, wide := n.ty.isWide, srcs := [(n.ty, n.a)], g := fun l v => trans (s.rounding f n n.ty l) fn (s.free (512 + l)) (arg v 0) }

/-- A conversion from the source type that MOD names. -/
def onSource (s : State) (f : Firing) (n : Niw) (i : Instr) (op : Rounding → Ty → Nat → Nat × Nat) : ValueRow :=
  { i := i, wide := n.ty.isWide, srcs := [(Ty.ofCode (n.opt.toNat % 16), n.a)],
    g := fun l v => op (s.rounding f n n.ty l) (Ty.ofCode (n.opt.toNat % 16)) (arg v 0) }

/-- A float function of one operand of TY under the instruction's rounding. -/
def onFloat (s : State) (f : Firing) (n : Niw) (i : Instr) (op : Rounding → Nat → Nat × Nat) : ValueRow :=
  { i := i, wide := n.ty.isWide, srcs := [(n.ty, n.a)], g := fun l v => op (s.rounding f n n.ty l) (arg v 0) }

/-- The values of the Numeric Unit's instructions of one lane (R259, R260, R262, R264 to R268). -/
def numericValues (s : State) (f : Firing) (n : Niw) : List ValueRow :=
  let int (i : Instr) (op : Int → Int → Nat × Nat) (zero : Nat → Nat) : ValueRow :=
    { i := i, wide := n.ty.isWide, srcs := [(n.ty, n.a), (n.ty, n.b)],
      g := fun _ v => if asInt n.ty (arg v 1) = 0 then (zero (arg v 0), Flag.divZero) else op (asInt n.ty (arg v 0)) (asInt n.ty (arg v 1)) }
  [onSource s f n (.cvt n) fun r src a => r.put (nanFlags [r.arg src a]) (r.arg src a),
   onSource s f n (.cvti n) fun r src a =>
     let lo := (wrap (Ty.lo n.ty) n.ty.width, Flag.invalid)
     let hi := (wrap (Ty.hi n.ty) n.ty.width, Flag.invalid)
     match r.arg src a with
     | .nan _ | .reserved => (0, Flag.invalid)
     | .inf neg => if neg then lo else hi
     | .fin neg m e =>
       let q := rndInt r.rm r.draw { neg := neg, m := m, e := e }
       if q.1 < Ty.lo n.ty then lo else if Ty.hi n.ty < q.1 then hi else (wrap q.1 n.ty.width, flagIf q.2 Flag.inexact),
   onSource s f n (.cvtf n) fun r src a => rnd r.ty r.rm r.sat r.fz r.draw (Exact.ofInt (asInt src a)),
   ⟨.dqnt n, false, [(Ty.ofCode (n.opt.toNat % 16), n.a), (.n8, n.b)], fun l v =>
     dequantise (s.rounding f n n.ty l) (Ty.ofCode (n.opt.toNat % 16)) (if n.b = .none then f.scale n.a l else arg v 1) (arg v 0)⟩,
   ⟨.rng n, false, [(.n32, n.a), (.n32, n.b)], fun _ v =>
     let r := prDraw (s.ctx s.cur.pos f.ctx).srk (2 ^ 63 + arg v 1 % 2 ^ 31 * 2 ^ 32 + arg v 0)
     if n.ty = .f32 then (exactCode .f32 (.fin false (r / 2 ^ 8) (-24)), 0) else (r, 0)⟩,
   onTrans s f n (.exp2 n) .exp2, onTrans s f n (.log2 n) .log2, onTrans s f n (.exp n) .exp, onTrans s f n (.ln n) .ln,
   onTrans s f n (.sinpi n) .sinpi, onTrans s f n (.cospi n) .cospi, onTrans s f n (.tanh n) .tanh, onTrans s f n (.sigm n) .sigm,
   onTrans s f n (.atanpi n) .atanpi, onTrans s f n (.erf n) .erf,
   onFloat s f n (.rcp n) fun r a => r.rcp a, onFloat s f n (.rsq n) fun r a => r.rsq a, onFloat s f n (.sqrt n) fun r a => r.sqrt a,
   onFloats s f n (.dsqrt n) fun r a _ _ => r.sqrt a,
   onFloats s f n (.div n) fun r a b _ => r.div a b, onFloats s f n (.ddiv n) fun r a b _ => r.div a b,
   onFloats s f n (.dfma n) fun r a b c => r.fma a b c false false, onFloats s f n (.dadd n) fun r a b _ => r.add a b false,
   onFloats s f n (.dmul n) fun r a b _ => r.mul a b,
   int (.idiv n) (fun a b => ires n.ty n.sat (Int.tdiv a b)) fun _ => 0,
   int (.irem n) (fun a b => (wrap (Int.tmod a b) n.ty.width, 0)) fun a => a]

/-- A lane of an operand: its pattern and its poison. -/
def opA (s : State) (f : Firing) (n : Niw) (l : Nat) : PVal := s.readSel s.cur.pos f n n.ty 0 n.a l

/-- The lanes of the cross-lane and mask instructions (R162, R163, R194, R196 to R200, R209, R263): each active lane's value, poison and
flags. -/
def crossValues (s : State) (f : Firing) (n : Niw) : List (Instr × (Nat → Lane)) :=
  let act := f.active n.pred
  let a (l : Nat) : PVal := opA s f n l
  let b (l : Nat) : PVal := s.readSel s.cur.pos f n n.ty 1 n.b l
  let slot (use : Nat) (x : Sel) (l : Nat) : PVal := s.readSlot s.cur.pos f n use x l
  let pp (l : Nat) : Bool := f.predPoison n.pred l
  let int (j : Nat) : Int := asInt n.ty (a j).1
  let op := n.opt.toNat % 8
  let mask (x : Sel) : Nat × Nat := f.masks.getD (maskReg x) (0, 0)
  let move (src : Nat → Int) (extra : Nat → Bool) (l : Nat) : Lane :=
    if 0 ≤ src l ∧ src l < f.len then
      let j := (src l).toNat
      if bit (f.eff n.pred) j then { v := (a j).1, psn := (a j).2 || extra l || pp l || pp j } else { v := 0, psn := extra l || pp l || pp j }
    else { v := 0, psn := extra l || pp l }
  let bits2 (g : Bool → Bool → Bool) (two : Bool) (l : Nat) : Lane :=
    { v := b2n (g (bit (mask n.a).1 l) (bit (mask n.b).1 l)), psn := bit (mask n.a).2 l || (two && bit (mask n.b).2 l) || pp l }
  let counted (v l : Nat) : Lane := { v := v, psn := decide ((mask n.a).2 % 2 ^ f.len ≠ 0) || pp l }
  [(.sel n, fun l =>
     let x := if (slot 2 n.c l).1 ≠ 0 then a l else b l
     { v := x.1, psn := (slot 2 n.c l).2 || x.2 || pp l }),
   (.shfl n, move (fun l =>
     let j := (slot 1 n.b l).1 % 32
     match n.opt.toNat with
     | 0 => j
     | 1 => ((l ^^^ j : Nat) : Int)
     | 2 => (l : Int) - j
     | _ => (l : Int) + j) fun l => (slot 1 n.b l).2),
   (.bcast n, move (fun _ => (n.imm.toNat % 32 : Nat)) fun _ => false),
   (.lred n, fun _ =>
     let r := ires n.ty n.sat ((act.map int).foldl (redOp n.ty op) (redId n.ty op))
     { v := r.1, fl := r.2, psn := act.any (fun j => (a j).2) || f.anyPredPoison n.pred fun _ => true }),
   (.lscan n, fun l =>
     let before (j : Nat) : Bool := if bit n.opt.toNat 3 then decide (j < l) else decide (j ≤ l)
     let part := act.filter before
     let r := ires n.ty n.sat ((part.map int).foldl (redOp n.ty op) (redId n.ty op))
     { v := r.1, fl := r.2, psn := part.any (fun j => (a j).2) || pp l || f.anyPredPoison n.pred before }),
   (.cnt n, fun l =>
     let among (j : Nat) : Bool := !bit n.opt.toNat 0 || decide (j < l)
     let part := act.filter among
     { v := (part.filter fun j => (a j).1 == (a l).1).length,
       psn := (a l).2 || part.any (fun j => (a j).2) || pp l || f.anyPredPoison n.pred among }),
   (.mand n, bits2 (fun x y => x && y) true), (.mor n, bits2 (fun x y => x || y) true), (.mxor n, bits2 (fun x y => x != y) true),
   (.mnot n, bits2 (fun x _ => !x) false),
   (.mpop n, fun l => counted (popcount ((mask n.a).1 % 2 ^ f.len) f.len) l),
   (.mfirst n, fun l => counted (((List.range f.len).find? fun j => bit ((mask n.a).1 % 2 ^ f.len) j).getD 32) l),
   (.mset n, fun l => { v := b2n (bit (s.readSel s.cur.pos f n .n32 0 n.a l).1 l), psn := false }),
   (.tagrd n, fun l =>
     { v := (match n.opt.toNat with
         | 0 => f.frame | 1 => f.iter + l | 2 => f.iter | 3 => f.len | 4 => f.ctx | 5 => s.cur.pos.die.toNat | 6 => f.tmask | _ => f.pmask),
       psn := false }),
   (.amaxb n, fun _ =>
     let r := amax n.ty (bit n.opt.toNat 4) (act.map fun j => fvalFz n.ty n.fz (a j).1)
     { v := r.1, fl := r.2, psn := act.any fun j => (a j).2 }),
   (.merge n, fun l => { v := if f.portLane n.a l then (a l).1 else (b l).1, psn := bit f.pmask l }),
   (.gate n, fun l => { v := (a l).1, psn := bit f.pmask l })]

/-- FRED's value (R209): five levels of pairs in lane order over the active lanes, an absent entry passed over; a NaN that meets no node is
canonical, and a subnormal is flushed under FZ. The flags are those of every node and of every value read. -/
def fredLane (s : State) (f : Firing) (n : Niw) : Lane :=
  let act := f.active n.pred
  let read (x : Nat) : Nat :=
    match fvalFz n.ty n.fz x with
    | .fin neg 0 e => exactCode n.ty (.fin neg 0 e)
    | .nan _ => n.ty.fmt.canonNan
    | _ => x
  let t := fredTree (s.rounding f n n.ty 0) (n.opt.toNat % 8) 5
    ((List.range 32).map fun l => if act.contains l then some (read (opA s f n l).1) else none)
  { v := t.1.getD 0, fl := t.2 ||| nanFlags (act.map fun j => fval n.ty (opA s f n j).1),
    psn := act.any (fun j => (opA s f n j).2) || f.anyPredPoison n.pred fun _ => true }

/-- The width of a cross-lane instruction's result: 32 bits of those that count, test or read tags. -/
def crossWide : Instr → Bool
  | .sel n | .shfl n | .bcast n | .lred n | .lscan n | .merge n | .gate n => n.ty.isWide
  | _ => false

end Sys2Proof.Claims

open Sys2Proof.Claims

/-! ## Compute Element and Numeric Unit -/

/-- R187, R195: ADD, SUB, MUL, MULH, MAD, SAD, MIN, MAX, ABS, NEG, CLAMP, LEA and LEA2 complete, and write
ires(op(A, B, C)) in every active lane, whatever their destination. -/
def Sys2Proof.Claims.IntegerArithmetic : Prop :=
  ∀ (n : Niw) (row : LaneRow) (s : State) (f : Firing), row ∈ arithRows n → Runs s f → Room s f n row.wide →
    Ends row.i s f n row.wide (lanesOf s f n row.srcs row.g)

/-- R190: the logic and shift instructions have the opcodes 0x10 to 0x19; well-formed, they are on an integer type, with D in d, the operands of their
form in v and the others NONE, and SAT, RM, FZ and MOD 0; and they complete with the bits of their definition on the patterns of TY. -/
def Obligations.LogicAndShifts : Prop :=
  (∀ n : Niw, (logicRows n).map (·.i.opcode) = (List.range 10).map fun k => some (0x10 + k, n)) ∧
  (∀ (n : Niw) (row : LaneRow) (count : Nat), (row, count) ∈ (logicRows n).zip [2, 2, 2, 2, 1, 2, 2, 2, 2, 3] → row.i.wf = true →
    n.ty.isInt = true ∧ n.sat = false ∧ n.rm = .rne ∧ n.fz = false ∧ n.opt = 0 ∧ inD n.d ∧ inV n.a ∧
    (if 2 ≤ count then inV n.b else n.b = .none) ∧ (if 3 ≤ count then inV n.c else n.c = .none)) ∧
  ∀ (n : Niw) (row : LaneRow) (s : State) (f : Firing), row ∈ logicRows n → Runs s f → Room s f n row.wide →
    Ends row.i s f n row.wide (lanesOf s f n row.srcs row.g)

/-- R65, R194, R195: MOV, MOVI in both halves, CMP and CMPM complete with their value. -/
def Sys2Proof.Claims.MovesAndCompares : Prop :=
  ∀ (n : Niw) (row : LaneRow) (s : State) (f : Firing), row ∈ moveRows n → Runs s f → Room s f n row.wide →
    Ends row.i s f n row.wide (lanesOf s f n row.srcs row.g)

/-- R65, R187, R194, R195: the integer arithmetic, the moves and the comparisons complete with their value in every active lane. -/
def Obligations.IntegerOperations : Prop :=
  Claims.IntegerArithmetic ∧ Claims.MovesAndCompares

/-- R183, R187: without SAT an N32 ADD, SUB or MUL is the operation of 32-bit words, and sets no flag; the operands are the
patterns of any two lanes. -/
def Sys2Proof.Claims.WrapsLikeWords : Prop :=
  ∀ (n : Niw) (a b : BitVec 32), n.ty = .n32 → n.sat = false →
    (arith n (.add n) fun x y _ => x + y).g [a.toNat, b.toNat, 0] = ((a + b).toNat, 0) ∧
    (arith n (.sub n) fun x y _ => x - y).g [a.toNat, b.toNat, 0] = ((a - b).toNat, 0) ∧
    (arith n (.mul n) fun x y _ => x * y).g [a.toNat, b.toNat, 0] = ((a * b).toNat, 0)

/-- R12, R183: ires keeps every integer to the type: without SAT it wraps and raises nothing; with SAT the value, read back
as the type's integer, is x clamped to the type's range, and Saturated is raised exactly when that changes x. -/
def Sys2Proof.Claims.SaturationRule : Prop :=
  ∀ (ty : Ty) (x : Int), ty.isInt = true →
    (ires ty false x).2 = 0 ∧ (((ires ty false x).1 : Int) = x % 2 ^ ty.width) ∧
    asInt ty (ires ty true x).1 = max (Ty.lo ty) (min (Ty.hi ty) x) ∧
    ((ires ty true x).2 = Flag.saturated ↔ ¬ (Ty.lo ty ≤ x ∧ x ≤ Ty.hi ty)) ∧
    ((ires ty true x).2 = 0 ↔ (Ty.lo ty ≤ x ∧ x ≤ Ty.hi ty))

/-- R12, R183, R187: what ires gives, with and without SAT, and that it wraps as 32-bit words do. -/
def Obligations.SaturationAndWrapping : Prop :=
  Claims.SaturationRule ∧ Claims.WrapsLikeWords

/-- R178: the effective mask, bit by bit, under each of the three predicate forms; the active lanes are the lanes of its bits, in ascending order, and nothing but the bit's
value decides whether a lane with a poisoned predicate bit is one; such a lane's result is poisoned, in every arithmetic, logic, move, compare, bit-field,
packing, float and Numeric Unit instruction, and in the cross-lane and mask instructions but MSET and TAGRD, whose results are never poisoned (R199, R200),
and AMAXB, MERGE and GATE, which take no predicate. -/
def Obligations.EffectiveMask : Prop :=
  (∀ (f : Firing) (p : Pred), f.active p = (List.range f.len).filter fun l => bit (f.eff p) l) ∧
  (∀ (n : Niw) (row : LaneRow) (s : State) (f : Firing), row ∈ arithRows n ++ logicRows n ++ moveRows n → Runs s f → Room s f n row.wide →
    ∃ ls, Ends row.i s f n row.wide ls ∧ ∀ x ∈ ls, f.predPoison n.pred x.1 = true → x.2.psn = true) ∧
  (∀ (n : Niw) (i : Instr) (s : State) (f : Firing), i ∈ fieldInsns n ++ floatInsns n ++ numericInsns n → Runs s f →
    Room s f n (laneForm i).1 →
    ∃ ls, Ends i s f n (laneForm i).1 ls ∧ ∀ x ∈ ls, f.predPoison n.pred x.1 = true → x.2.psn = true) ∧
  (∀ (n : Niw) (i : Instr) (s : State) (f : Firing), i ∈ crossInsns n → i ∉ [Instr.mset n, .tagrd n, .amaxb n, .merge n, .gate n] → Runs s f →
    Room s f n (crossWide i) →
    ∃ ls, Ends i s f n (crossWide i) ls ∧ ∀ x ∈ ls, f.predPoison n.pred x.1 = true → x.2.psn = true) ∧
  ∀ (f : Firing) (p : Pred) (l : Nat),
    bit (f.eff p) l = (decide (l < f.len) && bit f.tmask l &&
      match p with
      | .token => true
      | .mask m inv => bit (f.masks.getD m (0, 0)).1 l != inv)

/-- R188: ADDC and SUBB have the opcodes 0x03 and 0x04; well-formed, TY is a 32- or 64-bit integer type, D is in d, A and B are in v, C is in m, and SAT, RM,
FZ and MOD are 0; and they complete: the sum or difference with the mask bit, and the carry or borrow into the same bit. -/
def Obligations.CarryChains : Prop :=
  (∀ n : Niw, (Instr.addc n).opcode = some (3, n) ∧ (Instr.subb n).opcode = some (4, n)) ∧
  (∀ (n : Niw) (i : Instr), i ∈ [Instr.addc n, Instr.subb n] → i.wf = true →
    n.ty ∈ [Ty.i32, Ty.i64, Ty.n32, Ty.n64] ∧ inD n.d ∧ inV n.a ∧ inV n.b ∧ (∃ k, n.c = .m k) ∧ n.sat = false ∧ n.rm = .rne ∧ n.fz = false ∧ n.opt = 0) ∧
  ∀ (n : Niw) (k : Fin 4) (s : State) (f : Firing), n.c = .m k → Runs s f → Room s f n n.ty.isWide →
    let w := n.ty.width
    let a (l : Nat) : PVal := s.readSel s.cur.pos f n n.ty 0 n.a l
    let b (l : Nat) : PVal := s.readSel s.cur.pos f n n.ty 1 n.b l
    let m := f.masks.getD k (0, 0)
    let psn (l : Nat) : Bool := (a l).2 || (b l).2 || bit m.2 l || f.predPoison n.pred l
    let put (c : Nat → Bool) (d : Nat → Nat) : State :=
      (s.modSlot s.cur.pos s.cur.slot fun g => g.writeMask k ((f.active n.pred).map fun l => (l, { v := b2n (c l), psn := psn l }))).complete
        f n.d n.ty.isWide (f.eff n.pred) ((f.active n.pred).map fun l => (l, { v := d l, psn := psn l }))
    let m1 (l : Nat) : Nat := b2n (bit m.1 l)
    exec (.addc n) s = .next (put (fun l => decide (2 ^ w ≤ (a l).1 + (b l).1 + m1 l))
      fun l => ((a l).1 + (b l).1 + m1 l) % 2 ^ w) ∧
    exec (.subb n) s = .next (put (fun l => decide ((a l).1 < (b l).1 + m1 l))
      fun l => (2 * 2 ^ w + (a l).1 - (b l).1 - m1 l) % 2 ^ w)

/-- R180: the result lanes of the bit-field and packing instructions, of every Compute Element float instruction and of every
Numeric Unit instruction on one lane are the active lanes, and each is poisoned exactly when an operand lane that it reads
or its predicate bit is; each instruction completes. -/
def Sys2Proof.Claims.PoisonOfLanes : Prop :=
  ∀ (n : Niw) (i : Instr) (s : State) (f : Firing), i ∈ fieldInsns n ++ floatInsns n ++ numericInsns n → Runs s f →
    Room s f n (laneForm i).1 →
    ∃ ls, Ends i s f n (laneForm i).1 ls ∧ ls.map (·.1) = f.active n.pred ∧
      ∀ x ∈ ls, x.2.psn = (f.predPoison n.pred x.1 || (operands s f n (laneForm i).2 x.1).any (·.2))

/-- R189, R191 to R193, R200 to R208, R259, R260, R262, R264 to R268: the values and flags of the bit-field and packing instructions, of the Compute Element's float
instructions and of the Numeric Unit's instructions of one lane, in every active lane, whatever their destination. The operations that they share are the
model's own (Rounding.add and the like); FloatArithmetic says what the first of them give. -/
def Sys2Proof.Claims.LaneValues : Prop :=
  ∀ (n : Niw) (s : State) (f : Firing) (row : ValueRow), row ∈ fieldValues n ++ floatValues s f n ++ numericValues s f n → Runs s f →
    Room s f n row.wide → Ends row.i s f n row.wide (lanesBy s f n row.srcs row.g)

/-- R207: FLERP's value: A and B themselves at C = 0 and C = 1, for finite A and B; else one rounding of A + C · (B − A), a NaN with Invalid where B − A is ∞ − ∞. -/
def Sys2Proof.Claims.LerpValue : Prop :=
  ∀ (n : Niw) (s : State) (f : Firing), Runs s f → Room s f n n.ty.isWide →
    Ends (.flerp n) s f n n.ty.isWide (lanesBy s f n [(n.ty, n.a), (n.ty, n.b), (n.ty, n.c)] fun l v =>
      let r := s.rounding f n n.ty l
      let x := r.arg r.ty (arg v 0)
      let y := r.arg r.ty (arg v 1)
      let z := r.arg r.ty (arg v 2)
      let finite (v : FVal) : Bool := !v.isNan && !v.isInf
      if finite x && finite y && z.isZero then r.put 0 x
      else if finite x && finite y && z.cmp (.fin false 1 0) == .eq && !z.isNan then r.put 0 y
      else match sumVals (r.rm == .rdn) [y, x.negate] with
        | none => canon r.ty (nanFlags [x, y, z] ||| Flag.invalid)
        | some d => r.sumProd [x, y, z] [(z, d)] [x])

/-- R184, R201: float arithmetic. Of two finite values a = ±m · 2^e and b = ±m' · 2^e', FADD, and FSUB with b's sign inverted, round the exact sum n · 2^q once, and
a sum of zero is a zero without flags; FMUL rounds the exact product once. A NaN operand gives the canonical NaN, with NaN-in, and with Invalid exactly when one signals;
∞ − ∞ and 0 · ∞ give it with Invalid alone; FFMA rounds the exact ±a · b ± c once. -/
def Sys2Proof.Claims.FloatArithmetic : Prop :=
  (∀ (r : Rounding) (a b : Nat) (sub neg neg' : Bool) (m m' : Nat) (e e' : Int),
    r.arg r.ty a = .fin neg m e → r.arg r.ty b = .fin neg' m' e' →
    ∃ (k : Int) (q : Int), (m = 0 ∨ q ≤ e) ∧ (m' = 0 ∨ q ≤ e') ∧
      k = signed neg (m * 2 ^ (e - q).toNat) + signed (neg' != sub) (m' * 2 ^ (e' - q).toNat) ∧
      (k ≠ 0 → r.add a b sub = rnd r.ty r.rm r.sat r.fz r.draw { neg := decide (k < 0), m := k.natAbs, e := q }) ∧
      (k = 0 → (r.add a b sub).2 = 0 ∧ ((r.add a b sub).1 = 0 ∨ (r.add a b sub).1 = r.ty.fmt.signBit))) ∧
  (∀ (r : Rounding) (a b : Nat) (neg neg' : Bool) (m m' : Nat) (e e' : Int),
    r.arg r.ty a = .fin neg m e → r.arg r.ty b = .fin neg' m' e' →
    r.mul a b = rnd r.ty r.rm r.sat r.fz r.draw { neg := neg != neg', m := m * m', e := e + e' }) ∧
  (∀ (r : Rounding) (a b c : Nat) (negP negC neg neg' neg'' : Bool) (m m' m'' : Nat) (e e' e'' : Int),
    r.arg r.ty a = .fin neg m e → r.arg r.ty b = .fin neg' m' e' → r.arg r.ty c = .fin neg'' m'' e'' →
    ∃ (k : Int) (q : Int), (m * m' = 0 ∨ q ≤ e + e') ∧ (m'' = 0 ∨ q ≤ e'') ∧
      k = signed ((neg != negP) != neg') (m * m' * 2 ^ (e + e' - q).toNat) + signed (neg'' != negC) (m'' * 2 ^ (e'' - q).toNat) ∧
      (k ≠ 0 → r.fma a b c negP negC = rnd r.ty r.rm r.sat r.fz r.draw { neg := decide (k < 0), m := k.natAbs, e := q })) ∧
  (∀ (r : Rounding) (a b : Nat) (sub : Bool), (r.arg r.ty a).isNan = true ∨ (r.arg r.ty b).isNan = true →
    let fl := Flag.nanIn ||| flagIf ((r.arg r.ty a).isSig || (r.arg r.ty b).isSig) Flag.invalid
    r.add a b sub = (r.ty.fmt.canonNan, fl) ∧ r.mul a b = (r.ty.fmt.canonNan, fl)) ∧
  ∀ (r : Rounding) (a b : Nat) (neg : Bool), r.arg r.ty a = .inf neg →
    (∀ sub : Bool, r.arg r.ty b = .inf (neg == sub) → r.add a b sub = (r.ty.fmt.canonNan, Flag.invalid)) ∧
    (∀ (neg' : Bool) (e : Int), r.arg r.ty b = .fin neg' 0 e → r.mul a b = (r.ty.fmt.canonNan, Flag.invalid))

/-- R180, R184, R189, R191 to R193, R200 to R208, R259 to R268: the instructions of one lane complete: their poison, their values, and what float arithmetic gives. -/
def Obligations.LanesAndValues : Prop :=
  Claims.PoisonOfLanes ∧ Claims.LaneValues ∧ Claims.LerpValue ∧ Claims.FloatArithmetic

/-- R194 to R200, R209, R162, R163, R263: the instructions whose lanes depend on other lanes or on masks complete, and write
exactly the active lanes. -/
def Sys2Proof.Claims.CrossLaneCompletes : Prop :=
  ∀ (n : Niw) (i : Instr) (s : State) (f : Firing), i ∈ crossInsns n → Runs s f → Room s f n (crossWide i) →
    ∃ ls, Ends i s f n (crossWide i) ls ∧ ls.map (·.1) = f.active n.pred

/-- R162, R163, R194, R196 to R200, R209, R263: the value, poison and flags that the cross-lane and mask instructions write in every active lane. -/
def Sys2Proof.Claims.CrossLaneValues : Prop :=
  (∀ (n : Niw) (s : State) (f : Firing) (row : Instr × (Nat → Lane)), row ∈ crossValues s f n → Runs s f → Room s f n (crossWide row.1) →
    Ends row.1 s f n (crossWide row.1) ((f.active n.pred).map fun l => (l, row.2 l))) ∧
  ∀ (n : Niw) (s : State) (f : Firing), Runs s f → Room s f n false →
    Ends (.fred n) s f n false ((f.active n.pred).map fun l => (l, fredLane s f n))

/-- R197: LRED gives every active lane the same value, which is ires of the operation over the active lanes from its
identity; NOP does nothing but go on (R195); LPACK moves the active lanes' values to the lowest lanes (R198). -/
def Sys2Proof.Claims.ReductionAndPacking : Prop :=
  (∀ (n : Niw) (s : State) (f : Firing), Runs s f → Room s f n n.ty.isWide →
    ∃ ls, Ends (.lred n) s f n n.ty.isWide ls ∧ ls.map (·.1) = f.active n.pred ∧
      ∀ x ∈ ls, x.2.v = (ires n.ty n.sat (((f.active n.pred).map fun l =>
        asInt n.ty (s.readSel s.cur.pos f n n.ty 0 n.a l).1).foldl (redOp n.ty (n.opt.toNat % 8)) (redId n.ty (n.opt.toNat % 8)))).1) ∧
  (∀ (n : Niw) (s : State) (f : Firing), Runs s f → exec (.nop n) s = .next (s.advance s.cur.pos s.cur.slot)) ∧
  (∀ (n : Niw) (s : State) (f : Firing), Runs s f → Room s f n n.ty.isWide →
    ∃ ls, exec (.lpack n) s = .next (s.complete f n.d n.ty.isWide (2 ^ (f.active n.pred).length - 1) ls) ∧
      ls.map (·.1) = List.range (f.active n.pred).length ∧
      ls.map (·.2.v) = (f.active n.pred).map fun l => (s.readSel s.cur.pos f n n.ty 0 n.a l).1)

/-- R162, R163, R194 to R200, R209, R263: the instructions whose lanes depend on other lanes or on masks complete, with their values; and what LRED, NOP and LPACK give. -/
def Obligations.CrossLaneInstructions : Prop :=
  Claims.CrossLaneCompletes ∧ Claims.CrossLaneValues ∧ Claims.ReductionAndPacking

/-- R261: QNT completes: the scale token and the value token of the quantised block stand in the output queue, the scale
before the values. -/
def Obligations.QuantisedBlock : Prop :=
  ∀ (n : Niw) (o : Fin 4) (s : State) (f : Firing), n.d = .o o → Runs s f → s.room s.cur.pos f.ctx o 2 = true →
    let src := Ty.ofCode (n.opt.toNat % 16)
    let col := (s.column n f src 0 n.a).map fun c => (c.1, fvalFz src n.fz c.2.1, c.2.2)
    let q := quantise n.ty (bit n.opt.toNat 4) (s.rounding f n n.ty) col
    let eff := f.eff n.pred
    let scale := { valueTok f eff 0 false ((List.range f.len).map fun l => if bit eff l then BitVec.ofNat 64 q.1 else 0) with
                   kind := .scale }
    exec (.qnt n) s = .next (((((s.raise s.cur.pos f.ctx (q.2.1 ||| laneFlags q.2.2)).enqueue s.cur.pos f.ctx o false false scale).enqueueRun
      s.cur.pos f.ctx o false false (resultTok f false eff q.2.2)).advance s.cur.pos s.cur.slot))

/-- R176, R179: what completing an instruction writes when its destination is a temporary and the sequence goes on: the
lanes it names take their value and poison, every other lane of every temporary keeps its own, and the masks, the tag and
the operands of the firing stay; the firing is at its next instruction. -/
def Sys2Proof.Claims.TemporaryWritten : Prop :=
  ∀ (s : State) (f : Firing) (r : Fin 8) (wide : Bool) (mask : Nat) (ls : List (Nat × Lane)),
    s.firing = some f → f.ix + 1 < f.words.length → (ls.map (·.1)).Nodup →
    ∃ g, (s.complete f (.t r) wide mask ls).firing = some g ∧ g.ix = f.ix + 1 ∧
      (∀ x ∈ ls, g.temps.find (r.val, x.1) = some (BitVec.ofNat 64 x.2.v, x.2.psn)) ∧
      (∀ q l, (q ≠ r.val ∨ l ∉ ls.map (·.1)) → g.temps.find (q, l) = f.temps.find (q, l)) ∧
      g.masks = f.masks ∧ g.frame = f.frame ∧ g.iter = f.iter ∧ g.len = f.len ∧ g.tmask = f.tmask ∧ g.ports = f.ports

/-- R176, R179: what completing an instruction writes when its destination is a mask register, is discarded, or is a port, and the sequence goes on: the mask
register's bits and poison bits of the lanes it names take theirs, and every other lane and mask register keeps its own; the temporaries stay; a discarded
result changes no register; and a port leaves the registers alone, and sends its token with the effective mask. -/
def Sys2Proof.Claims.MasksAndDiscard : Prop :=
  (∀ (s : State) (f : Firing) (r : Fin 4) (wide : Bool) (mask : Nat) (ls : List (Nat × Lane)),
    s.firing = some f → f.ix + 1 < f.words.length → f.masks.length = 4 → (ls.map (·.1)).Nodup →
    ∃ g, (s.complete f (.m r) wide mask ls).firing = some g ∧ g.ix = f.ix + 1 ∧ g.temps = f.temps ∧
      (∀ x ∈ ls, bit (g.masks.getD r (0, 0)).1 x.1 = (x.2.v % 2 == 1) ∧ bit (g.masks.getD r (0, 0)).2 x.1 = x.2.psn) ∧
      (∀ l, l ∉ ls.map (·.1) → bit (g.masks.getD r (0, 0)).1 l = bit (f.masks.getD r (0, 0)).1 l ∧
        bit (g.masks.getD r (0, 0)).2 l = bit (f.masks.getD r (0, 0)).2 l) ∧
      ∀ k, k ≠ r.val → g.masks.getD k (0, 0) = f.masks.getD k (0, 0)) ∧
  (∀ (s : State) (f : Firing) (wide : Bool) (mask : Nat) (ls : List (Nat × Lane)),
    s.firing = some f → f.ix + 1 < f.words.length →
    (s.complete f .none wide mask ls) =
      ((s.raise s.cur.pos f.ctx (laneFlags (ls.filter fun x => !(f.early && f.earlyLane x.1)))).advance s.cur.pos s.cur.slot) ∧
    ∃ g, (s.complete f .none wide mask ls).firing = some g ∧ g.ix = f.ix + 1 ∧ g.temps = f.temps ∧ g.masks = f.masks) ∧
  ∀ (s : State) (f : Firing) (o : Fin 4) (wide : Bool) (mask : Nat) (ls : List (Nat × Lane)),
    s.firing = some f → f.ix + 1 < f.words.length →
    (s.complete f (.o o) wide mask ls) =
      (((s.raise s.cur.pos f.ctx (laneFlags (ls.filter fun x => !(f.early && f.earlyLane x.1)))).enqueueRun s.cur.pos f.ctx o false false
        (resultTok f wide mask ls)).advance s.cur.pos s.cur.slot)

/-- R42, R174, R181: sticky flags only gather: completing an instruction ORs the flags of its lanes, but for those whose passes issued before while it
waited, into those of the firing's context, except in a Memory Element and a Till, which set none (R457); no other context's flags change. -/
def Sys2Proof.Claims.StickyFlags : Prop :=
  ∀ (s : State) (f : Firing) (d : Dst) (wide : Bool) (mask : Nat) (ls : List (Nat × Lane)),
    f.ctx < (s.node s.cur.pos).ctxs.length →
    let t := s.complete f d wide mask ls
    (t.ctx s.cur.pos f.ctx).sf = (if kindOf s.cur.pos = .me ∨ kindOf s.cur.pos = .till then (s.ctx s.cur.pos f.ctx).sf
      else (s.ctx s.cur.pos f.ctx).sf ||| laneFlags (ls.filter fun x => !(f.early && f.earlyLane x.1))) ∧
    ∀ c k, (c ≠ s.cur.pos ∨ k ≠ f.ctx) → (t.ctx c k).sf = (s.ctx c k).sf

/-- R42, R176, R179, R181: what completing an instruction writes: lanes of a temporary or of a mask register, a token, or nothing; and the sticky flags, which only gather. -/
def Obligations.CompletionWrites : Prop :=
  Claims.TemporaryWritten ∧ Claims.MasksAndDiscard ∧ Claims.StickyFlags

/-- The frame of the Compute Element's and the Numeric Unit's instructions, in a firing that does not wait to post its record: whatever they do, memory, partitions, queues,
notify registers, Memory Elements, engines, links and the device's registers stay as they are, and so does
every node but the one that runs the instruction; of the matching stores only scale tokens whose values the firing gathers end, in the node's own; of a
region only TCNT of frames may change. -/
def Sys2Proof.Claims.ArithmeticFrame : Prop :=
  ∀ (n : Niw) (i : Instr) (s t : State), (∀ f, s.firing = some f → f.due = none) →
    i ∈ (arithRows n).map (·.i) ++ (logicRows n).map (·.i) ++ (moveRows n).map (·.i) ++ fieldInsns n ++ crossInsns n ++
      floatInsns n ++ numericInsns n ++ [.addc n, .subb n, .nop n, .lpack n, .qnt n] →
    exec i s = .next t →
    t.mem = s.mem ∧ t.parts = s.parts ∧ t.queues = s.queues ∧ t.notify = s.notify ∧ t.mes = s.mes ∧
    t.copies = s.copies ∧ t.matrices = s.matrices ∧ t.tills = s.tills ∧ t.links = s.links ∧ t.slices = s.slices ∧
    t.wire = s.wire ∧ t.dev = s.dev ∧ (∀ c, c ≠ s.cur.pos → t.node c = s.node c) ∧
    (∀ c, c ≠ storeOf s.cur.pos → t.store c = s.store c) ∧
    (∀ c, { t.store c with scales := [] } = { s.store c with scales := [] }) ∧
    t.regions.map (fun r => { r with frames := [] }) = s.regions.map fun r => { r with frames := [] }

/-! ## Token Engine -/

/-- R155, R146: ALLOC completes: with no request waiting at the Mint and the budget large enough, it takes the lowest free
frames, one for each active lane in lane order, and writes their numbers. -/
def Sys2Proof.Claims.AllocTakesFrames : Prop :=
  ∀ (n : Niw) (s : State) (f : Firing) (r r' : Region) (fs : List Nat), Runs s f → Room s f n false →
    s.region f.region = some r → f.active n.pred ≠ [] → r.requests = [] →
    r.liveFrames + (f.active n.pred).length ≤ r.budget → r.grantMany n.imm.toNat (f.active n.pred).length = some (r', fs) →
    exec (.alloc n) s = .next ((s.modRegion r.id fun _ => r').complete f n.d false (f.eff n.pred)
      ((f.active n.pred).zipIdx.map fun x =>
        (x.1, { v := fs.getD x.2 0, psn := f.predPoison n.pred ((f.active n.pred).getD x.2 0) })))

/-- R155: ALLOC is all or nothing: past the budget it takes no frame, and its frame parks with FRAME_BUDGET, DETAIL 1; AUXV is the
number of frames that it would have made live. A request that stood before it and fits is served first, so the premise asks that none
stands or that none fits (R146). -/
def Sys2Proof.Claims.AllocRefused : Prop :=
  ∀ (n : Niw) (s : State) (f : Firing) (r : Region), Runs s f → Room s f n false →
    s.region f.region = some r → f.active n.pred ≠ [] → r.budget < r.liveFrames + (f.active n.pred).length →
    (r.requests = [] ∨ r.budget ≤ r.liveFrames) →
    exec (.alloc n) s = s.takeFrameFault s.cur.pos s.cur.slot .firing
      { s.infoOf s.cur.pos f Cause.frameBudget 1 with
        akind := 3, addr := s.edgeOf s.cur.pos f.ctx n.d, auxv := (r.liveFrames + (f.active n.pred).length) % 2 ^ 64 }

/-- R146, R155: ALLOC takes the lowest free frames for all its lanes, or, past the budget, none, and parks its frame. -/
def Obligations.AllocGrantsOrRefuses : Prop :=
  Claims.AllocTakesFrames ∧ Claims.AllocRefused

/-- R146: what a grant gives: the lowest frame in STATE 0, in STATE 1 with its block's tag space, TCNT 0 and the next age;
no other frame changes. -/
def Sys2Proof.Claims.GrantIsLowestFree : Prop :=
  ∀ (r r' : Region) (b f : Nat), r.grant b = some (r', f) →
    (r.frame f).state = 0 ∧ (∀ g, g < f → (r.frame g).state ≠ 0) ∧ f < 1024 ∧
    r'.frame f = { state := 1, s := r.tags b, blk := b, tcnt := 0, age := r.grants } ∧ r'.grants = (r.grants + 1) % 2 ^ 31 ∧
    ∀ g, g ≠ f → r'.frame g = r.frame g

/-- R154, R156: FREE completes: every frame that an active lane names goes to STATE 2, when each is in STATE 1; a lane of a poisoned name is suppressed. -/
def Sys2Proof.Claims.FreeRetiresFrames : Prop :=
  ∀ (n : Niw) (s : State) (f : Firing) (r : Region), Runs s f → s.region f.region = some r → s.sinkMustWait f = false →
    let name (l : Nat) : PVal := s.readSel s.cur.pos f n .n32 0 n.a l
    let sunk (l : Nat) : Bool := (name l).2 || f.predPoison n.pred l
    let live := (f.active n.pred).filter fun l => !sunk l
    let gone := (f.active n.pred).filter sunk
    (∀ l ∈ live, (name l).1 < 1024 ∧ (r.frame (name l).1).state = 1) →
    exec (.free n) s = .next ((((live.map fun l => (name l).1).eraseDups.foldl
      (fun s x => s.modFrame r.id x fun y => { y with state := 2 }) (s.sinkNames f n gone gone.length))).goOn)

/-- R146, R156: what a grant gives a frame, and what FREE does to the frames that it names. -/
def Obligations.FramesGrantedAndRetired : Prop :=
  Claims.GrantIsLowestFree ∧ Claims.FreeRetiresFrames

/-- R157: EMIT completes: the firing's run leaves on its port at base b + d, where that lies in the frame's tag space. -/
def Sys2Proof.Claims.EmitMovesTheTag : Prop :=
  ∀ (n : Niw) (o : Fin 4) (s : State) (f : Firing) (r : Region) (b : Nat), n.d = .o o → Runs s f →
    s.region f.region = some r → Room s f n n.ty.isWide → (b : Int) = f.iter + sx n.imm.toNat 16 →
    b + f.len ≤ 2 ^ (r.frame f.frame).s →
    exec (.emit n) s = .next ((s.enqueueRun s.cur.pos f.ctx o false false
      { resultTok f n.ty.isWide (f.eff n.pred) (s.sendLanes n f) with iter := b }).goOn)

/-- R154, R158, R174: EMITT sends a lane's token at the frame and iteration that the lane names, one token a step (of a run of 64-bit lanes
at most 16, R28), when the queue has room for it; the lanes of a poisoned name are suppressed as they are passed, and with no lane left it
goes on. -/
def Sys2Proof.Claims.EmittNamesTheTag : Prop :=
  (∀ (n : Niw) (o : Fin 4) (s : State) (f : Firing) (r : Region) (l frame iter : Nat) (rest : List (Nat × Named)),
    n.d = .o o → Runs s f → s.region f.region = some r → s.sinkMustWait f = false →
    let names := (f.active n.pred).map fun l => (l, s.named n f r l)
    (names.filter fun x => decide (f.part ≤ x.1) && decide (x.2 ≠ .sunk)) = (l, .to frame iter) :: rest →
    let run := joinLanes frame iter (names.filter fun x => decide (l ≤ x.1))
    let ls := if n.ty.isWide then run.take 16 else run
    s.room s.cur.pos f.ctx o 1 = true →
    let all := (names.filter fun x => x.2 == .sunk).map (·.1)
    let u := s.sinkNames f n (all.filter fun i => decide (f.part ≤ i) && decide (i < l)) all.length
    let vs := ls.map fun l => u.readSel s.cur.pos f n n.ty 0 n.a l
    exec (.emitt n) s = .next ((u.enqueue s.cur.pos f.ctx o false false
      { valueTok f (2 ^ ls.length - 1) (maskOf ls.length fun i => (vs.getD i (0, false)).2) n.ty.isWide
          (vs.map fun v => BitVec.ofNat 64 v.1) with frame := frame, iter := iter, len := ls.length }).partDone (ls.getLastD l + 1))) ∧
  (∀ (n : Niw) (s : State) (f : Firing) (r : Region), Runs s f → s.region f.region = some r → s.sinkMustWait f = false →
    (∀ l ∈ f.active n.pred, s.named n f r l = .sunk ∨ l < f.part) →
    let all := (f.active n.pred).filter fun l => s.named n f r l == .sunk
    exec (.emitt n) s = .next (s.sinkNames f n (all.filter fun l => decide (f.part ≤ l)) all.length).goOn)

/-- R148, R154, R159, R174: ITER sends, lane by lane, the runs of a lane's iteration space one a step, then its marker, and so goes to the next lane; a
lane of a poisoned operand is suppressed as it is passed, and with no lane left ITER goes on. -/
def Sys2Proof.Claims.IterSendsTheSpace : Prop :=
  ∀ (n : Niw) (o : Fin 4) (s : State) (f : Firing) (r : Region), n.d = .o o → Runs s f → s.region f.region = some r →
    s.sinkMustWait f = false →
    let a (l : Nat) : PVal := s.readSel s.cur.pos f n .n32 0 n.a l
    let b (l : Nat) : PVal := s.readSel s.cur.pos f n .n32 1 n.b l
    let sunk (l : Nat) : Bool := (a l).2 || (b l).2 || f.predPoison n.pred l
    let left := (f.active n.pred).filter fun l => decide (f.part / 2 ^ 13 ≤ l) && !sunk l
    let all := (f.active n.pred).filter sunk
    (∀ l rest, left = l :: rest → s.room s.cur.pos f.ctx o 1 = true → r.live (b l).1 = true → (a l).1 ≤ r.space (b l).1 →
      let k := if l = f.part / 2 ^ 13 then f.part % 2 ^ 13 else 0
      let at' := k * n.imm.toNat
      let m := min n.imm.toNat ((a l).1 - at')
      let u := s.sinkNames f n (all.filter fun i => decide (f.part / 2 ^ 13 ≤ i) && decide (i < l)) all.length
      exec (.iter n) s = .next (if at' < (a l).1 then
          (u.enqueue s.cur.pos f.ctx o false false
            { valueTok f (2 ^ m - 1) 0 false ((List.range m).map fun i => BitVec.ofNat 64 (at' + i)) with
              frame := (b l).1, iter := at', len := m }).partDone (l * 2 ^ 13 + k + 1)
        else (u.enqueue s.cur.pos f.ctx o false false (markerTok (b l).1 ((a l).1 % 4096) 0 (s.ctx s.cur.pos f.ctx).sf false)).partDone
          ((l + 1) * 2 ^ 13))) ∧
    (left = [] → exec (.iter n) s =
      .next (s.sinkNames f n (all.filter fun i => decide (f.part / 2 ^ 13 ≤ i)) all.length).goOn)

/-- R157 to R159, R174: EMIT, EMITT and ITER send tokens under the tags that they compute. -/
def Obligations.TokensUnderOtherTags : Prop :=
  Claims.EmitMovesTheTag ∧ Claims.EmittNamesTheTag ∧ Claims.IterSendsTheSpace

/-- R28, R160, R161, R164: SPLIT sends the run's pieces one token a step, when the queue has room for it, and goes on behind the last; a
zero-mask firing's run is one piece; the pieces' lanes follow one another from 0 to the run's last, none longer than the piece nor, at 64
bits, than 16 lanes; STEER sends the lanes whose
condition holds on its port and the others on the next, both at once; EOS sends one marker behind the firing's run. -/
def Obligations.SplitSteerEos : Prop :=
  (∀ (n : Niw) (o : Fin 4) (s : State) (f : Firing), n.d = .o o → Runs s f →
    let ranges := splitRanges n.ty.isWide (if f.tmask = 0 then f.len else n.imm.toNat) f.len
    ∀ start m, ranges[f.part]? = some (start, m) → s.room s.cur.pos f.ctx o 1 = true →
    let t := s.enqueue s.cur.pos f.ctx o false false ((resultTok f n.ty.isWide (f.eff n.pred) (s.sendLanes n f)).sub start m)
    exec (.split n) s = .next (if f.part + 1 < ranges.length then t.partDone (f.part + 1) else t.goOn)) ∧
  (∀ (wide : Bool) (piece len : Nat), 1 ≤ piece → piece ≤ 32 → len ≤ 32 →
    let ranges := splitRanges wide piece len
    (ranges.flatMap fun q => (List.range q.2).map (q.1 + ·)) = List.range len ∧
    ∀ q ∈ ranges, 1 ≤ q.2 ∧ q.2 ≤ (if wide then min piece 16 else piece) ∧ (q.1 + q.2) ≤ len ∧
      (q.1 + q.2 < len → (q.1 + q.2) % piece = 0 ∨ q.2 = 16)) ∧
  (∀ (n : Niw) (o : Fin 4) (s : State) (f : Firing), n.d = .o o → Runs s f →
    s.roomMany s.cur.pos f.ctx [(o.val, tokensOf n.ty.isWide f.len), (o.val + 1, tokensOf n.ty.isWide f.len)] = true →
    let b (l : Nat) : PVal := s.readSel s.cur.pos f n n.ty 1 n.b l
    let a (l : Nat) : PVal := s.readSel s.cur.pos f n n.ty 0 n.a l
    let eff := f.eff n.pred
    let ls := (f.active n.pred).map fun l => (l, ({ v := (a l).1, psn := ((a l).2 || f.predPoison n.pred l) || (b l).2 } : Lane))
    let tok (c : Bool) : Token := resultTok f n.ty.isWide (maskOf f.len fun l => bit eff l && (nonZero n.ty (b l).1 == c)) ls
    exec (.steer n) s = .next (((s.enqueueRun s.cur.pos f.ctx o false false (tok true)).enqueueRun s.cur.pos f.ctx (o.val + 1)
      false false (tok false)).goOn)) ∧
  (∀ (n : Niw) (o : Fin 4) (s : State) (f : Firing), n.d = .o o → Runs s f → s.room s.cur.pos f.ctx o 1 = true →
    exec (.eos n) s = .next ((s.enqueue s.cur.pos f.ctx o false false
      (markerTok f.frame ((f.iter + f.len) % 4096) (n.imm.toNat % 2 ^ 13) (s.ctx s.cur.pos f.ctx).sf false)).goOn))

/-- R165 to R168, R353: JOINP makes the frame a member and sends its receipt. BARR of a member records its arrival, and the phase test follows; of one that has
arrived in this phase it is held for the next; it is a release at the set's scope, performed when its release set is (what releases performed before
it released stands in that set whether or not they come before it in R353's order: the model's choice, log 90). LEAVEP of a member that has not arrived ends its membership, and of one that has arrived waits for the phase's end; what becomes of a BARR that such a member still holds when the phase ends is
the model's choice (log 82). -/
def Sys2Proof.Claims.PartyOperations : Prop :=
  ∀ (n : Niw) (s : State) (f : Firing) (r : Region), Runs s f → s.region f.region = some r →
    let rw := n.opt.toNat % 8
    let k := (s.readSel s.cur.pos f n .n32 0 n.a 0).1
    let p := r.pset k
    let me := (f.frame, s.cur.pos, f.ctx, rw, f.iter)
    k < r.parties →
    ((p.members = [] ∨ n.opt.toNat / 32 = p.scope) →
      exec (.joinp n) s = .next (((s.modPset r.id k fun q => { q with
        scope := n.opt.toNat / 32, members := if q.members.contains f.frame then q.members else q.members ++ [f.frame] }).sendReceipt
        s.cur.pos f.ctx rw f.frame f.iter 0 (n.opt.toNat / 32) 0 false).goOn)) ∧
    (f.frame ∈ p.members → s.releaseReady f p.scope = none →
      let t := (s.released f p.scope).oweParty f rw
      ((∀ a ∈ p.arrived, a.1 ≠ f.frame) → exec (.barr n) s = .next ((t.modPset r.id k fun q =>
        { q with arrived := q.arrived ++ [me], poison := q.poison || f.pmask != 0 }).phaseTest r.id k p.tests).goOn) ∧
      ((∃ a ∈ p.arrived, a.1 = f.frame) → exec (.barr n) s = .next (t.modPset r.id k fun q =>
        { q with nextPhase := q.nextPhase ++ [(f.frame, s.cur.pos, f.ctx, rw, f.iter, f.pmask != 0)] }).goOn)) ∧
    (f.frame ∈ p.members → (∀ a ∈ p.arrived, a.1 ≠ f.frame) →
      exec (.leavep n) s = .next (((s.leaveSet r.id k f.frame).sendReceipt s.cur.pos f.ctx rw f.frame f.iter 0 p.scope 0 false).goOn)) ∧
    (f.frame ∈ p.members → (∃ a ∈ p.arrived, a.1 = f.frame) →
      exec (.leavep n) s = .next (((s.oweParty f rw).modPset r.id k fun q => { q with leaving := q.leaving ++ [me] }).goOn))

/-- R169: DEPTH completes with its change pending, where the cluster's reserved Chits stay within 480; an earlier pending change of the port takes the new value. -/
def Sys2Proof.Claims.DepthPends : Prop :=
  ∀ (n : Niw) (s : State) (f : Firing) (p : Fin 4), n.a = .p p → Runs s f →
    let d := n.imm.toNat % 64
    let rw := n.opt.toNat % 8
    (s.cluster (clusterOf s.cur.pos)).resv + d - (s.ctx s.cur.pos f.ctx).dep p ≤ 480 →
    exec (.depth n) s = .next (((s.oweParty f rw).modCtx s.cur.pos f.ctx fun x => { x with
      depth := (x.depth.map fun e => if e.1 = p.val then (p.val, d, e.2.2) else e) ++ [(p.val, d, rw, f.frame, f.iter)] }).goOn)

/-- R165 to R167, R169: JOINP, BARR and LEAVEP act on their party set, and DEPTH on its edge. -/
def Obligations.PartyAndDepth : Prop :=
  Claims.PartyOperations ∧ Claims.DepthPends

/-! ## Memory Element -/

namespace Sys2Proof.Claims

/-- A load: what it reads, lane by lane. -/
structure LoadRow where
  i : Instr
  n : Niw
  cls : Nat
  scope : Nat
  grouped : Bool
  g : Bool
  mask : Nat
  lanes : List (Nat × Int)
  psn : Nat
  pos : Option Nat := none
  /-- POS counts the lanes of each group as it issues (R215). -/
  counts : Bool := false
  one : Bool := false

/-- The active lanes with an operand pattern, those whose pattern is not poisoned. -/
def sound (s : State) (f : Firing) (n : Niw) (ty : Ty) (use : Nat) (sel : Sel) : List (Nat × Nat) :=
  ((f.active n.pred).filter fun l => !(s.readSel s.cur.pos f n ty use sel l).2).map fun l =>
    (l, (s.readSel s.cur.pos f n ty use sel l).1)

/-- The active lanes whose operand is poisoned. -/
def unsound (s : State) (f : Firing) (n : Niw) (ty : Ty) (use : Nat) (sel : Sel) : Nat :=
  maskOf f.len fun l => (f.active n.pred).contains l && (s.readSel s.cur.pos f n ty use sel l).2

/-- LD, LDG and LDA (R229, R231): lane l reads base + sx(B[l]) · size + sx(IMM16). -/
def elemLoads (s : State) (f : Firing) (n : Niw) (g : Bool) (base : Nat) : List LoadRow :=
  let ls := (sound s f n .i32 1 n.b).map fun x => (x.1, (base : Int) + sx x.2 32 * (n.ty.slot / 8 : Nat) + sx n.imm.toNat 16)
  let row (i : Instr) (grouped : Bool) : LoadRow :=
    { i := i, n := n, cls := 4, scope := n.opt.toNat / 32, grouped := grouped, g := g, mask := f.eff n.pred, lanes := ls,
      psn := unsound s f n .i32 1 n.b }
  [row (.ld n) false, row (.ldg n) true, row (.lda n) false]

/-- LDB (R231): every lane reads the one address. -/
def broadcastLoad (f : Firing) (n : Niw) (g : Bool) (base : Nat) : LoadRow :=
  { i := .ldb n, n := n, cls := 4, scope := n.opt.toNat / 32, grouped := false, g := g, mask := f.eff n.pred,
    lanes := (f.active n.pred).map fun l => (l, (base : Int) + sx n.imm.toNat 16), psn := 0, one := true }

/-- LDL (R231): B is a pointer of 48 bits; a null one makes its lane inactive. -/
def pointerLoad (s : State) (f : Firing) (n : Niw) (g : Bool) (base : Nat) : LoadRow :=
  let b (l : Nat) : PVal := s.readSel s.cur.pos f n .n64 1 n.b l
  let live := (f.active n.pred).filter fun l => (b l).2 || bits (b l).1 0 48 != 0
  { i := .ldl n, n := n, cls := 4, scope := n.opt.toNat / 32, grouped := false, g := g, mask := maskOf f.len live.contains,
    lanes := (live.filter fun l => !(b l).2).map fun l => (l, (base : Int) + bits (b l).1 0 48 + sx n.imm.toNat 16),
    psn := maskOf f.len fun l => live.contains l && (b l).2 }

/-- The stream of an instruction, and its position. -/
def stream (n : Niw) : Nat := n.imm.toNat % 4
def posOf (s : State) (f : Firing) (n : Niw) : Nat := (s.sstOf f (stream n)) % 2 ^ 32

/-- LDS on an affine stream (R75, R217): the active lanes take the next positions, those past the end become inactive. -/
def streamLoad (s : State) (f : Firing) (n : Niw) : LoadRow :=
  let d := s.sd f (stream n)
  let ps := ((f.active n.pred).zipIdx.map fun x => (x.1, posOf s f n + x.2)).filter fun x => decide (x.2 < d.count)
  { i := .lds n, n := n, cls := stream n, scope := d.scope, grouped := false, g := d.g,
    mask := maskOf f.len fun l => ps.any fun x => x.1 == l, lanes := ps.map fun x => (x.1, d.addr (s.sadOf f (stream n)) x.2),
    psn := 0, pos := some (posOf s f n + ps.length) }

/-- LDSG on an indexed stream (R216, R233). -/
def indexedLoad (s : State) (f : Firing) (n : Niw) : LoadRow :=
  let d := s.sd f (stream n)
  let ls := sound s f n .i32 0 n.a
  { i := .ldsg n, n := n, cls := stream n, scope := d.scope, grouped := true, g := d.g, mask := f.eff n.pred,
    lanes := ls.map fun x => (x.1, (s.sadOf f (stream n) : Int) + sx x.2 32 * d.std.getD 0 0), psn := unsound s f n .i32 0 n.a,
    counts := true }

/-- The loads of the model under what they need: the address constant of R229, LDL's run of at most 16, an open stream of
the AMODE that the instruction reads, and indexes within COUNT. -/
def Loads (s : State) (f : Firing) (row : LoadRow) : Prop :=
  ∃ n, (∃ g base, f.addrConst n.a = some (g, base) ∧
      (row ∈ elemLoads s f n g base ∨ row = broadcastLoad f n g base ∨ (f.len ≤ 16 ∧ row = pointerLoad s f n g base))) ∨
    (bit (s.sstOf f (stream n)) 63 = true ∧ (s.sd f (stream n)).amode ≠ 2 ∧ row = streamLoad s f n) ∨
    (bit (s.sstOf f (stream n)) 63 = true ∧ row = indexedLoad s f n ∧
      ∀ x ∈ sound s f n .i32 0 n.a, 0 ≤ sx x.2 32 ∧ sx x.2 32 < ((s.sd f (stream n)).cnt.getD 0 1 : Int))

/-- The stream of an access class (R228): classes 0 to 3 are the streams. -/
def streamOf (cls : Nat) : Option Nat := if cls < 4 then some cls else none

/-- An access of `size` bytes that faults nowhere (R212, R224): in S-space within the window, in G-space with a translation
that the element holds and that permits it, and aligned in both. -/
def Sound (s : State) (f : Firing) (r : Region) (g rd wr : Bool) (cls size align : Nat) (a : Int) : Prop :=
  wrap a 48 % align = 0 ∧ (g = false → 0 ≤ a ∧ a + size ≤ (r.scratch : Int)) ∧
    (g = true → ∀ v ∈ vasOf a size, ∃ x, s.xlatOf f (streamOf cls) r.part v = some x ∧ x.fault s.dev rd wr v = none)

/-- The window of the firing's context in its element's scratchpad (R212). -/
def window (s : State) (f : Firing) (r : Region) : Nat :=
  match (s.ctx s.cur.pos f.ctx).owner with | some o => r.window o | none => 0

/-- The translation of an address that the element holds. -/
def xlat (s : State) (f : Firing) (r : Region) (cls v : Nat) : Xlat :=
  (s.xlatOf f (streamOf cls) r.part v).getD (Xlat.failed r.part v 3)

/-- The physical address of a lane's access. -/
def physical (s : State) (f : Firing) (r : Region) (cls : Nat) (a : Int) : Nat :=
  (xlat s f r cls (wrap a 48)).pa (wrap a 48)

end Sys2Proof.Claims

/-- R221, R228, R231, R233: a load completes its issue: LD, LDG, LDA, LDB, LDL, LDS and LDSG, in both spaces. The reply of the
firing's lanes, or of the next group of them, stands among the element's operations with the tag of R231: with the bytes of the scratchpad as
its values in S-space, and, in G-space, with a request for every line that an access group touches. No byte of memory changes. How inactive lanes fall to the pieces of
an LDG (log 22), and that an address wraps at 2^48 and which lanes make an access group (log 72), are the model's choices. -/
def Obligations.LoadIssues : Prop :=
  ∀ (s : State) (f : Firing) (r : Region) (row : LoadRow), Loads s f row → Runs s f → f.opid = 0 → f.tmask % 2 ^ f.len ≠ 0 →
    s.region f.region = some r → (row.g = true → s.stalled r.part = false) →
    let sz := row.n.ty.slot / 8
    (∀ x ∈ row.lanes, Sound s f r row.g true false row.cls sz sz x.2) →
    let plan : Plan := { g := row.g, lanes := row.lanes, psn := row.psn, mask := row.mask, one := row.one }
    let pieces := plan.pieces f row.grouped (window s f r)
    let lo := (pieces.getD f.part (0, f.len)).1
    let n := (pieces.getD f.part (0, f.len)).2
    let here (ls : List (Nat × Int)) : List (Nat × Nat) :=
      (ls.filter fun x => decide (lo ≤ x.1 ∧ x.1 < lo + n)).map fun x => (x.1, wrap x.2 48)
    let mine := here row.lanes
    (row.g = false → ∀ x ∈ mine, (s.me s.cur.pos).hurt (window s f r + x.2) sz = false) →
    s.canReserve s.cur.pos f.ctx (row.n.opt.toNat % 8) (tokensOf row.n.ty.isWide n) = true →
    s.heldBack f s.cur.pos row.cls (if row.g then row.scope else 0)
      (if row.g then (row.lanes.filter fun x => decide (lo ≤ x.1)).map fun x => lineOf (physical s f r row.cls x.2) else []) = false →
    ∃ t o, exec row.i s = .next t ∧ t.mem = s.mem ∧ t.ops = s.ops ++ [o] ∧ o.kind = .load ∧ o.ty = row.n.ty ∧
      o.reply = row.n.opt.toNat % 8 + 1 ∧ o.ctx = f.ctx ∧ o.frame = f.frame ∧ o.iter = f.iter + lo ∧ o.len = n ∧
      o.mask = bits row.mask lo n ∧ (∀ l, l < 32 → bit o.poison l = bit (bits row.psn lo n) l) ∧
      o.todo = (if row.g then ((plan.groups row.n.ty.isWide).flatMap fun g => lineReqs (xlat s f r row.cls) (here g)).map fun q =>
        { q with lanes := q.lanes.map fun x => (x.1 - lo, x.2) } else []) ∧
      o.vals = (if row.g then [] else mine.map fun x =>
        (x.1 - lo, BitVec.ofNat 64 ((s.me s.cur.pos).value (window s f r + x.2) sz % 2 ^ row.n.ty.width))) ∧
      (f.part = 0 → ∀ p, row.pos = some p → p < 2 ^ 32 → ((t.me s.cur.pos).sst.get 0 (f.ctx, row.cls)).toNat % 2 ^ 32 = p) ∧
      (row.counts = true → ((t.me s.cur.pos).sst.get 0 (f.ctx, row.cls)).toNat % 2 ^ 32 =
        (((s.me s.cur.pos).sst.get 0 (f.ctx, row.cls)).toNat % 2 ^ 32 + mine.length) % 2 ^ 32)

namespace Sys2Proof.Claims

/-- A store: what it writes, lane by lane, in the order in which the lanes are written. -/
structure StoreRow where
  i : Instr
  n : Niw
  cls : Nat
  scope : Nat
  size : Nat
  release : Bool
  g : Bool
  lanes : List (Nat × Int × List Byte)
  sunk : List (Nat × Int)

/-- ST, STR, STG, STM and STZ (R232). Lanes that share an address keep one of their values under STG, a free choice (log 1). -/
def elemStores (s : State) (f : Firing) (n : Niw) (g : Bool) (base : Nat) : List StoreRow :=
  let sz := n.ty.slot / 8
  let b (l : Nat) : PVal := s.readSel s.cur.pos f n .i32 1 n.b l
  let c (l : Nat) : PVal := s.readSel s.cur.pos f n n.ty 2 n.c l
  let at' (l : Nat) : Int := (base : Int) + sx (b l).1 32 * sz + sx n.imm.toNat 16
  let bad (l : Nat) : Bool := (b l).2 || (c l).2
  let act := f.active n.pred
  let ls := (act.filter fun l => !bad l).map fun l => (l, at' l, toBytes sz (c l).1)
  let row (i : Instr) (release : Bool) (lanes : List (Nat × Int × List Byte)) : StoreRow :=
    { i := i, n := n, cls := 4, scope := n.opt.toNat / 32, size := sz, release := release, g := g, lanes := lanes,
      sunk := (act.filter bad).map fun l => (l, at' l) }
  let b0 := b (act.headD 0)
  let run := act.zipIdx.map fun x => (x.1, at' (act.headD 0) + (x.2 * sz : Nat), toBytes sz (c x.1).1, b0.2 || (c x.1).2)
  let z := 64 * (n.imm.toNat % 64 + 1)
  let zeros (l : Nat) : Int := (base : Int) + sx (b l).1 32 * 64
  [row (.st n) false ls, row (.str n) true ls, row (.stg n) false (oneOf s.free ls),
   { row (.stm n) false ((run.filter fun x => !x.2.2.2).map fun x => (x.1, x.2.1, x.2.2.1)) with
     sunk := (run.filter fun x => x.2.2.2).map fun x => (x.1, x.2.1) },
   { row (.stz n) false ((act.filter fun l => !(b l).2).map fun l => (l, zeros l, List.replicate z 0)) with
     size := z, sunk := (act.filter fun l => (b l).2).map fun l => (l, zeros l) }]

/-- STS on an affine stream (R217, R233): the active lanes take the next positions. -/
def streamStore (s : State) (f : Firing) (n : Niw) : StoreRow :=
  let d := s.sd f (stream n)
  let a (l : Nat) : PVal := s.readSel s.cur.pos f n n.ty 0 n.a l
  let ps := (f.active n.pred).zipIdx.map fun x => (x.1, d.addr (s.sadOf f (stream n)) (posOf s f n + x.2))
  { i := .sts n, n := n, cls := stream n, scope := d.scope, size := n.ty.slot / 8, release := false, g := d.g,
    lanes := (ps.filter fun x => !(a x.1).2).map fun x => (x.1, x.2, toBytes (n.ty.slot / 8) (a x.1).1),
    sunk := ps.filter fun x => (a x.1).2 }

/-- STSS on an indexed stream (R216, R233). -/
def indexedStore (s : State) (f : Firing) (n : Niw) : StoreRow :=
  let d := s.sd f (stream n)
  let a (l : Nat) : PVal := s.readSel s.cur.pos f n .i32 0 n.a l
  let b (l : Nat) : PVal := s.readSel s.cur.pos f n n.ty 1 n.b l
  let at' (l : Nat) : Int := (s.sadOf f (stream n) : Int) + sx (a l).1 32 * d.std.getD 0 0
  { i := .stss n, n := n, cls := stream n, scope := d.scope, size := n.ty.slot / 8, release := false, g := d.g,
    lanes := ((f.active n.pred).filter fun l => !((a l).2 || (b l).2)).map fun l => (l, at' l, toBytes (n.ty.slot / 8) (b l).1),
    sunk := ((f.active n.pred).filter fun l => (a l).2 || (b l).2).map fun l => (l, at' l) }

/-- The stores of the model under what they need: as for loads, and positions within the stream. -/
def Stores (s : State) (f : Firing) (row : StoreRow) : Prop :=
  ∃ n, (∃ g base, f.addrConst n.a = some (g, base) ∧ row ∈ elemStores s f n g base) ∨
    (bit (s.sstOf f (stream n)) 63 = true ∧ row = streamStore s f n ∧
      posOf s f n + (f.active n.pred).length ≤ (s.sd f (stream n)).count) ∨
    (bit (s.sstOf f (stream n)) 63 = true ∧ row = indexedStore s f n ∧
      ∀ l ∈ f.active n.pred, (s.readSel s.cur.pos f n .i32 0 n.a l).2 = false →
        (s.readSel s.cur.pos f n n.ty 1 n.b l).2 = false →
        0 ≤ sx (s.readSel s.cur.pos f n .i32 0 n.a l).1 32 ∧
        sx (s.readSel s.cur.pos f n .i32 0 n.a l).1 32 < ((s.sd f (stream n)).cnt.getD 0 1 : Int))

/-- The byte that a list of cells written in order leaves at an address. -/
def stored (cells : List Host.Cell) (a : Nat) : Option Byte := cells.foldl (fun r c => if c.1 = a then some c.2 else r) none

/-- What a store must wait for does not hold it back: the order of R228, a release's release set (R353; what it takes in
is the model's choice, log 90), a full record queue (R495). -/
def FreeToStore (s : State) (f : Firing) (row : StoreRow) (lines : List Nat) : Prop :=
  f.opid = 0 ∧ f.part = 0 ∧ f.tmask % 2 ^ f.len ≠ 0 ∧ (row.sunk ≠ [] → s.sinkMustWait f = false) ∧
  s.heldBack f s.cur.pos row.cls (if row.g then row.scope else 0) lines = false ∧
  (row.release = true → s.releaseReady f (if row.g then row.scope else 0) = none)

end Sys2Proof.Claims

/-- R211, R225, R232, R233: a store to S-space completes: ST, STR, STG, STM, STZ, STS and STSS write the bytes of their lanes, and no
other, at the window's start plus their address (of two lanes on one address the later in lane order stands), suppress the
poisoned lanes, and leave memory and every other element as they are. -/
def Sys2Proof.Claims.StoreToScratchpad : Prop :=
  ∀ (s : State) (f : Firing) (r : Region) (row : StoreRow), Stores s f row → row.g = false → Runs s f →
    s.region f.region = some r → FreeToStore s f row [] →
    (∀ x ∈ row.lanes, Sound s f r false false true row.cls row.size (if row.size < 64 then row.size else 64) x.2.1) →
    let cells := row.lanes.flatMap fun x => cellsAt (window s f r + wrap x.2.1 48) x.2.2
    ∃ t, exec row.i s = .next t ∧ (∀ a, (t.me s.cur.pos).byte a = (stored cells a).getD ((s.me s.cur.pos).byte a)) ∧
      t.mem = s.mem ∧ ∀ c, c ≠ s.cur.pos → t.me c = s.me c

/-- R226, R232, R233: a store to G-space completes: its bytes stand in the cluster's write buffer, one entry a line behind those
that stood there, when the buffer has room and holds none of the lines; bytes of a line that it holds join that line's last entry unless its
drain has begun. Memory changes only when an entry drains. -/
def Sys2Proof.Claims.StoreToWriteBuffer : Prop :=
  (∀ (s : State) (f : Firing) (r : Region) (row : StoreRow), Stores s f row → row.g = true → Runs s f →
    s.region f.region = some r → s.stalled r.part = false →
    (∀ x ∈ row.lanes, Sound s f r true false true row.cls row.size (if row.size < 64 then row.size else 64) x.2.1) →
    let g := clusterOf s.cur.pos
    let cells := row.lanes.flatMap fun x => cellsAt (wrap x.2.1 48) x.2.2
    let phys := cells.map fun c => (((xlat s f r row.cls c.1).pa c.1, c.2), (xlat s f r row.cls c.1).dev)
    let lines := byLine (phys.map (·.1))
    FreeToStore s f row (lines.map (·.1)) → (s.cluster g).wb.length + lines.length ≤ 32 →
    (∀ e ∈ (s.cluster g).wb, ∀ l ∈ lines, e.line ≠ l.1) →
    ∃ t, exec row.i s = .next t ∧ t.mem = s.mem ∧ (∀ c a, (t.me c).byte a = (s.me c).byte a) ∧
      (t.cluster g).wb.map (fun e => (e.line, e.bytes, e.region, e.dev)) =
        (s.cluster g).wb.map (fun e => (e.line, e.bytes, e.region, e.dev)) ++ lines.map fun l =>
          (l.1, l.2.foldl (fun t c => Table.set t c.1 c.2) [], f.region, phys.any fun c => lineOf c.1.1 == l.1 && c.2)) ∧
  ∀ (s : State) (g region l : Nat) (w : Coord × Nat × Nat × Nat) (dev : Bool) (bs : List Host.Cell) (e : WbEntry),
    ((s.cluster g).wb.filter fun x => x.line == l).getLast? = some e → e.draining = false →
    ∃ t, s.wbPut g w region dev l bs = some (t, e.id) ∧ t.mem = s.mem ∧
      (t.cluster g).wb = (s.cluster g).wb.map fun x => if x.id = e.id then
        { e with bytes := bs.foldl (fun t c => Table.set t c.1 c.2) e.bytes, last := s.cyc,
                 writers := if e.writers.contains w then e.writers else e.writers ++ [w] } else x

/-- R211, R225, R226, R232, R233: the stores complete, into the scratchpad or into the cluster's write buffer. -/
def Obligations.StoresComplete : Prop :=
  Claims.StoreToScratchpad ∧ Claims.StoreToWriteBuffer

/-- R74, R75, R216, R234: the stream instructions complete. SOPEN opens the stream at BASE plus A with POS 0, once the writes of an
open one are performed, and refuses a bad descriptor; SSEEK sets POS and clears EXH, and faults past an affine stream's end; SCLOSE closes an open stream,
once its writes are performed, and sends its receipt on RRW with the flags that markers brought; SFLUSH leaves an operation that waits for the stream's
writes; SCNT gives POS in every active lane. A firing without an active lane opens and moves nothing. These clauses rest on the model's own choices: that SCLOSE's receipt is
poisoned when a suppressed store of the stream was (log 8), that SOPEN and SSEEK use a poisoned A and that SSEEK, SFLUSH and SCNT of a closed stream do not
fault (log 73), where the markers' flags are kept (log 74), which second-tier lines go through (log 81), and what at CL drains nothing (log 91). -/
def Sys2Proof.Claims.StreamControl : Prop :=
  ∀ (n : Niw) (s : State) (f : Firing), Runs s f →
    let k := n.imm.toNat % 4
    let d := s.sd f k
    let sc := if d.g then d.scope else 0
    let w := s.sstOf f k
    let ws := (s.ctx s.cur.pos f.ctx).streams.getD k []
    let writes := streamWrites s.cur.pos f.ctx k
    let done := s.awaited sc writes = ([], []) ∧ s.midway s.cur.pos f.ctx k = false
    let u := s.pushTier f.region sc writes
    (∀ a, f.lane0 n.pred = some a →
      (sdOk ws = true → (bit w 63 = true → done) →
        let t := if bit w 63 then u else s
        exec (.sopen n) s = .next (t.modMe s.cur.pos fun m => { m with
          sst := m.sst.set (f.ctx, k) (BitVec.ofNat 64 (2 ^ 63)),
          sad := m.sad.set (f.ctx, k) (BitVec.ofNat 64 (wrap ((d.base : Int) + sx (t.readSel s.cur.pos f n .i32 0 n.a a).1 32) 48)),
          sbad := m.sbad.erase (f.ctx, k) }).goOn) ∧
      (sdOk ws = false → exec (.sopen n) s =
        s.takeFrameFault s.cur.pos s.cur.slot .firing (s.infoOf s.cur.pos f Cause.illegalCfg 0)) ∧
      (let arg := (s.readSel s.cur.pos f n .i32 0 n.a a).1 % 2 ^ 32
       ((d.amode = 0 → arg ≤ d.count) →
        exec (.sseek n) s = .next (s.modMe s.cur.pos fun m => { m with
          sst := m.sst.set (f.ctx, k) (BitVec.ofNat 64 (setBits (setBits w 0 32 arg) 62 1 0)) }).goOn) ∧
       (d.amode = 0 → d.count < arg →
        exec (.sseek n) s = s.meFault f d.g a 4 Cause.access 0 (d.addr (s.sadOf f k) arg)))) ∧
    (f.lane0 n.pred = none → exec (.sopen n) s = .next s.goOn ∧ exec (.sseek n) s = .next s.goOn) ∧
    (bit w 63 = true → f.tmask % 2 ^ f.len ≠ 0 → done →
      exec (.sclose n) s = .next (((u.sendReceipt s.cur.pos f.ctx d.rrw f.frame f.iter
        ((u.ctx s.cur.pos f.ctx).sf ||| (u.ctx s.cur.pos f.ctx).mflags) sc 0 ((u.me s.cur.pos).sbad.contains (f.ctx, k))).modMe s.cur.pos fun m =>
          { m with sst := m.sst.set (f.ctx, k) (BitVec.ofNat 64 (setBits (u.sstOf f k) 63 1 0)), sbad := m.sbad.erase (f.ctx, k) }).goOn)) ∧
    (bit w 63 = false ∨ f.tmask % 2 ^ f.len = 0 → exec (.sclose n) s = .next s.goOn) ∧
    (f.tmask % 2 ^ f.len ≠ 0 →
      let q := s.awaited sc writes
      let t := (s.push sc q).pushTier f.region sc writes
      exec (.sflush n) s = .next ((t.bumpOp.issue
        { opOf t f (.barrier 0) Ty.n8 with scope := sc, receipt := n.opt.toNat % 8, waits := q.1, after := q.2 }).settle.goOn)) ∧
    (Room s f n false →
      Ends (.scnt n) s f n false ((f.active n.pred).map fun l => (l, { v := w % 2 ^ 32, psn := false })))

/-- R216, R217, R224: a linked LDS takes its elements one behind the other. It begins with its reply's credit and its operation at ADDR and POS; each further
step takes in what the last element's link gave; an element of S-space is read at once, with its link; at the stream's end, or when every lane has its
element, POS and ADDR stand behind the last one, and the lanes without an element are inactive. That an element and its link are one step, between which and
the next any unit may act, is the model's choice (log 9). -/
def Sys2Proof.Claims.LinkedLoad : Prop :=
  ∀ (n : Niw) (s : State) (f : Firing) (r : Region), Runs s f → s.region f.region = some r → f.tmask % 2 ^ f.len ≠ 0 →
    let k := n.imm.toNat % 4
    let d := s.sd f k
    let rw := n.opt.toNat % 8
    let c := tokensOf n.ty.isWide f.len
    let lanes := f.active n.pred
    let sz := n.ty.slot / 8
    d.amode = 2 →
    (f.opid = 0 → bit (s.sstOf f k) 63 = true → (d.g = true → s.stalled r.part = false) → s.canReserve s.cur.pos f.ctx rw c = true →
      s.heldBack f s.cur.pos k (if d.g then d.scope else 0) [] = false →
      let o : Op := { opOf s f .load n.ty with
        reply := rw + 1, cls := k, scope := if d.g then d.scope else 0, more := true, link := (s.sadOf f k, s.sstOf f k % 2 ^ 32, 0) }
      exec (.lds n) s = (((s.reserve s.cur.pos f.ctx rw c).bumpOp.issue o).modSlot s.cur.pos s.cur.slot fun f =>
        { f with opid := o.id }).linkStep n { f with opid := o.id } r o) ∧
    ∀ o, f.opid ≠ 0 → (s.ops.find? fun o => o.id == f.opid) = some o →
      let q := o.linked lanes
      let t := s.modOp o.id fun _ => q
      let p := q.link.1
      let pos := q.link.2.1
      let taken := q.link.2.2
      let ended := decide (d.cnt.getD 0 1 ≤ pos ∨ p = 0)
      (o.todo ≠ [] ∨ o.waits ≠ [] → exec (.lds n) s = .next t) ∧
      (o.todo = [] → o.waits = [] → ended = true ∨ lanes.length ≤ taken →
        exec (.lds n) s = .next ((((t.moveStream f.ctx k (some (pos, ended))).modMe s.cur.pos fun m =>
          { m with sad := m.sad.set (f.ctx, k) (BitVec.ofNat 64 p) }).modOp o.id fun o =>
            { o with more := false, mask := maskOf f.len fun l => (lanes.take taken).contains l }).settle.goOn)) ∧
      (o.todo = [] → o.waits = [] → ended = false → taken < lanes.length → d.g = false → t.barred s.cur.pos f.ctx k = false →
        let lane := lanes.getD taken 0
        let a : Int := p + d.std.getD 1 0
        let b : Int := p + d.std.getD 0 0
        let at' (x : Int) : Nat := window s f r + wrap x 48
        Sound s f r false true false k sz sz a → Sound s f r false true false k 8 8 b →
        (s.me s.cur.pos).hurt (at' a) sz = false → (s.me s.cur.pos).hurt (at' b) 8 = false →
        ∃ u : State, exec (.lds n) s = .next (u.modOp o.id fun o => { o with vals := o.vals ++
            [(lane, BitVec.ofNat 64 ((s.me s.cur.pos).value (at' a) sz % 2 ^ n.ty.width)),
             (linkLane lane, BitVec.ofNat 64 ((s.me s.cur.pos).value (at' b) 8))] }) ∧
          u.ops = t.ops ∧ u.mem = s.mem ∧ u.nodes = s.nodes ∧ ∀ x, (u.me s.cur.pos).byte x = (s.me s.cur.pos).byte x)

/-- R74, R75, R216, R234: the stream instructions complete, and a linked LDS with the elements that it reads. -/
def Obligations.StreamInstructions : Prop :=
  Claims.StreamControl ∧ Claims.LinkedLoad

/-- R227, R235, R236: SBAR, FENCE, XWB and XINV complete their issue: an operation that waits for what its scope or its lines hold and then
sends its receipt stands among the element's operations; the write-buffer entries that it waits for drain, the operations go as far as its scope, and at SYS the
lines of second-tier memory that they wrote go through; memory does not change. That those lines go through in the instruction's own step (log 81) and that nothing drains
at CL (log 91) are the model's choices. -/
def Sys2Proof.Claims.BarriersAndWriteBacks : Prop :=
  ∀ (n : Niw) (s : State) (f : Firing), Runs s f → f.tmask % 2 ^ f.len ≠ 0 →
    let rw := n.opt.toNat % 8
    let sc := n.opt.toNat / 32
    let g := clusterOf s.cur.pos
    let classes := maskLanes (n.imm.toNat % 32) 5
    let issued (m : Nat) (x : Reach) : State :=
      let q := s.awaited sc x
      let t := (s.push sc q).pushTier f.region sc x
      (t.bumpOp.issue { opOf t f (.barrier m) Ty.n8 with scope := sc, receipt := rw, waits := q.1, after := q.2 }).settle.goOn
    exec (.sbar n) s = .next (issued (n.imm.toNat % 32)
      { wr := fun w => decide (w.1 = s.cur.pos ∧ w.2.1 = f.ctx) && classes.contains w.2.2.2,
        op := fun o => o.pos == s.cur.pos && o.ctx == f.ctx && classes.contains o.cls && match o.kind with | .barrier _ => false | _ => true }) ∧
    (∀ c, classes.contains c = (decide (c < 5) && bit (n.imm.toNat % 32) c)) ∧
    exec (.fence n) s = .next (issued 0 (frameWrites s.cur.pos f.frame)) ∧
    (∀ m x, (issued m x).mem = s.mem) ∧
    ∀ (r : Region) (base : Nat) (inv : Bool), s.region f.region = some r → s.stalled r.part = false →
      f.addrConst n.a = some (true, base) →
      let sz := n.ty.slot / 8
      let ls := (sound s f n .i32 1 n.b).map fun x => (base : Int) + sx x.2 32 * sz + sx n.imm.toNat 16
      (∀ a ∈ ls, Sound s f r true false true 4 sz sz a) → ls ≠ [] →
      (unsound s f n .i32 1 n.b ≠ 0 → s.sinkMustWait f = false) →
      let lines := (ls.map fun a => lineOf (physical s f r 4 a)).eraseDups
      s.heldBack f s.cur.pos 4 3 lines = false →
      ∃ t o, exec (if inv then .xinv n else .xwb n) s = .next t ∧ t.mem = s.mem ∧ o ∈ t.ops ∧ o.kind = .writeBack inv ∧ o.scope = 3 ∧
        o.receipt = rw ∧ o.frame = f.frame ∧ o.waits = (s.cluster g).wbOf lines ∧ o.todo.map (·.line) = lines ∧
        o.rpoison = (unsound s f n .i32 1 n.b != 0)

/-- R213, R236, R237: PROBE gives the status word of every active lane's address, SMAP its constant of the context; PFETCH brings the line
of a lane that could be read into its slice's cache; each completes and changes no byte of memory. That the probes and prefetches make no counted access group is
the model's choice (log 72). -/
def Sys2Proof.Claims.ProbesPrefetchesAndMaps : Prop :=
  ∀ (n : Niw) (s : State) (f : Firing) (r : Region), Runs s f → s.region f.region = some r →
    let sz := n.ty.slot / 8
    let at' (x : Nat) : Int := sx x 32 * sz + sx n.imm.toNat 16
    (∀ g base, f.addrConst n.a = some (g, base) → Room s f n false → f.tmask % 2 ^ f.len ≠ 0 →
      (g = true → ∀ x ∈ sound s f n .i32 1 n.b, (s.xlatOf f none r.part (wrap (base + at' x.2) 48)).isSome) →
      ∃ (t : State) (ls : List (Nat × Lane)), exec (.probe n) s = .next (t.complete f n.d false (f.eff n.pred) ls) ∧
        t.mem = s.mem ∧ t.cur = s.cur ∧ ls.map (·.1) = f.active n.pred ∧
        ∀ l ∈ ls, let b := s.readSel s.cur.pos f n .i32 1 n.b l.1
          l.2.psn = b.2 ∧ l.2.v = (if b.2 then 0 else s.probe r g sz (xlat s f r 4) (base + at' b.1))) ∧
    (∀ base l x, f.addrConst n.a = some (true, base) → f.tmask % 2 ^ f.len ≠ 0 → s.stalled r.part = false →
      sound s f n .i32 1 n.b = [(l, x)] →
      let a := wrap (base + at' x) 48
      let e := xlat s f r 4 a
      a % sz = 0 → (s.xlatOf f none r.part a).isSome → e.fault s.dev true false a = none → e.dev = false →
      s.cacheable (lineOf (e.pa a)) false = true →
      ∃ t, exec (.pfetch n) s = .next t ∧ t.mem = s.mem ∧ t.cached (lineOf (e.pa a)) = true) ∧
    (∀ base, f.addrConst n.a = some (false, base) → f.tmask % 2 ^ f.len ≠ 0 → exec (.pfetch n) s = .next s.goOn) ∧
    (Room s f n false →
      Ends (.smap n) s f n false ((f.active n.pred).map fun l => (l, { psn := false, v := match n.opt.toNat % 4 with
        | 0 => window s f r
        | 1 => r.scratch
        | 2 => (spadSize - ceilDiv (r.k * r.n * r.scratch) 256 * 256) / 256
        | _ => s.cellsUsed r s.cur.pos })))

/-- R213, R227, R235 to R237: the barriers, the write-backs, PROBE, PFETCH and SMAP complete their issue. -/
def Obligations.BarriersProbesAndMaps : Prop :=
  Claims.BarriersAndWriteBacks ∧ Claims.ProbesPrefetchesAndMaps

/-! ## Home slices, Copy Engine, Escrow -/

namespace Sys2Proof.Claims

/-- A Home Slice instruction: what it accesses and with which operands. -/
structure HomeRow where
  i : Instr
  kind : OpKind
  lanes : List (Nat × Int)
  args : List (Nat × Nat × Nat) := []
  sunk : List Nat

/-- The Home Slice instructions (R358 to R367): each active lane acts on base + sx(B) · size + sx(IMM16) with C, HCAS also with its
compare from the next port; HINC and HRED act on the lowest active lane's element; HSEQ reads 4-byte elements. -/
def homeRows (s : State) (f : Firing) (n : Niw) (base : Nat) : List HomeRow :=
  let act := f.active n.pred
  let b (l : Nat) : PVal := s.readSel s.cur.pos f n .i32 1 n.b l
  let v (l : Nat) : PVal := s.readSel s.cur.pos f n n.ty 2 n.c l
  let x (l : Nat) : PVal := s.readPort f n.ty 3 (Sel.portIx n.c + 1) l
  let at' (sz l : Nat) : Int := (base : Int) + sx (b l).1 32 * sz + sx n.imm.toNat 16
  let row (i : Instr) (opc : Nat) (cas : Bool) : HomeRow :=
    let ok := act.filter fun l => !((b l).2 || (v l).2 || (cas && (x l).2))
    { i := i, kind := .atomic opc, lanes := ok.map fun l => (l, at' (n.ty.slot / 8) l),
      args := ok.map fun l => (l, (v l).1, if cas then (x l).1 else 0),
      sunk := act.filter fun l => (b l).2 || (v l).2 || (cas && (x l).2) }
  let a := act.headD 0
  let one (i : Instr) (opc : Nat) (cs : List Nat) (all : Bool) : HomeRow :=
    if all then { i := i, kind := .atomic opc, lanes := [], sunk := act }
    else { i := i, kind := .atomic opc, lanes := [(a, at' (n.ty.slot / 8) a)],
           args := (cs.filter fun l => !(v l).2).map fun l => (l, (v l).1, 0), sunk := cs.filter fun l => (v l).2 }
  [row (.hadd n) 0xd0 false, row (.hfadd n) 0xd1 false, row (.hmin n) 0xd2 false, row (.hmax n) 0xd3 false,
   row (.hfmin n) 0xd4 false, row (.hfmax n) 0xd5 false, row (.hand n) 0xd6 false, row (.hor n) 0xd7 false,
   row (.hxor n) 0xd8 false, row (.hxchg n) 0xd9 false, row (.hcas n) 0xda true,
   one (.hinc n) 0xdb [a] ((b a).2 || (v a).2), one (.hred n) 0xdc act (b a).2,
   { i := .hseq n, kind := .hseq, lanes := (act.filter fun l => !(b l).2).map fun l => (l, at' 4 l), sunk := act.filter fun l => (b l).2 }]

end Sys2Proof.Claims

/-- R358, R359, R360: every Home Slice instruction completes its issue: one event a line, with its lanes and operands, stands among the
element's operations, with the reply on D's port and the receipt on RWX owed, behind the cluster's write-buffer entries of those lines. No byte of memory
changes yet. A release issues when its release set is performed; what that set takes in is the model's choice (log 90). -/
def Sys2Proof.Claims.HomeIssues : Prop :=
  ∀ (n : Niw) (s : State) (f : Firing) (r : Region) (base : Nat) (row : HomeRow), row ∈ homeRows s f n base → Runs s f →
    f.opid = 0 → f.eff n.pred ≠ 0 → s.region f.region = some r → s.stalled r.part = false → f.addrConst n.a = some (true, base) →
    (∀ x ∈ row.lanes, Sound s f r true true (row.kind != .hseq) 4 (n.ty.slot / 8) (n.ty.slot / 8) x.2) →
    (row.sunk ≠ [] → s.sinkMustWait f = false) →
    let rep := match n.d with | .o o => o.val + 1 | _ => 0
    let sc := n.opt.toNat / 32
    let reqs := atomReqs (xlat s f r 4) (row.lanes.map fun l => (l.1, wrap l.2 48))
    (rep ≠ 0 → s.canReserve s.cur.pos f.ctx (rep - 1) (tokensOf n.ty.isWide f.len) = true) →
    s.heldBack f s.cur.pos 4 sc (reqs.map (·.line)).eraseDups = false →
    (bit (n.opt.toNat / 8 % 4) 1 = true → s.releaseReady f sc = none) →
    row.lanes ≠ [] ∨ rep ≠ 0 ∨ n.opt.toNat % 8 ≠ 0 →
    ∃ t o, exec row.i s = .next t ∧ t.mem = s.mem ∧ o ∈ t.ops ∧ o.kind = row.kind ∧ o.ty = n.ty ∧ o.niw = some n ∧ o.todo = reqs ∧
      o.args = row.args ∧ o.mask = f.eff n.pred ∧ o.reply = rep ∧ o.receipt = n.opt.toNat % 8 ∧ o.scope = sc ∧ o.frame = f.frame ∧
      o.iter = f.iter ∧ o.len = f.len ∧ o.waits = (s.cluster (clusterOf s.cur.pos)).wbOf (reqs.map (·.line)).eraseDups ∧
      o.rpoison = !row.sunk.isEmpty ∧ ∀ l, l < f.len → (bit o.poison l = true ↔ l ∈ row.sunk)

/-- R361 to R363: what an atomic computes at its slice from the old value m, the operand v and HCAS's compare c; the integer forms on
the patterns of a type, the logic forms on bits. -/
def Sys2Proof.Claims.AtomicResults : Prop :=
  ∀ (r : Rounding) (m v c : Nat),
    atomStep r 0xd0 m v c = ires r.ty r.sat (asInt r.ty m + asInt r.ty v) ∧ atomStep r 0xd1 m v c = r.add m v false ∧
    (m < 2 ^ r.ty.width → v < 2 ^ r.ty.width → r.ty.isInt = true →
      atomStep r 0xd2 m v c = (if asInt r.ty m ≤ asInt r.ty v then m else v, 0) ∧
      atomStep r 0xd3 m v c = (if asInt r.ty m ≤ asInt r.ty v then v else m, 0)) ∧
    atomStep r 0xd4 m v c = fminmaxn r.ty r.fz false m v ∧ atomStep r 0xd5 m v c = fminmaxn r.ty r.fz true m v ∧
    atomStep r 0xd6 m v c = (m &&& v, 0) ∧ atomStep r 0xd7 m v c = (m ||| v, 0) ∧ atomStep r 0xd8 m v c = (m ^^^ v, 0) ∧
    atomStep r 0xd9 m v c = (v, 0) ∧ atomStep r 0xda m v c = (if m = c then v else m, 0)

/-- R358 to R363: the Home Slice instructions complete their issue, and what an atomic computes. -/
def Obligations.HomeSliceOperations : Prop :=
  Claims.HomeIssues ∧ Claims.AtomicResults

namespace Sys2Proof.Claims

/-- The Copy Engine's instructions. -/
def copyInsns (n : Niw) : List Instr :=
  [.cpy n, .cpy2 n, .cpy3 n, .cpym n, .cpyz n, .cpyx n, .cpya n, .cpyb n, .cpyf n, .cpyc n, .cpyq n, .fpdecl n]

end Sys2Proof.Claims

/-- R273, R299: a Copy Engine instruction completes: the instances of its active lanes, in lane order, join the engine's queue when it has
room for them, each with the slot's card, its lane's offsets scaled and its count; poisoned lanes and counts of 0 enqueue none; only an instance without pieces may
have completed at once. -/
def Obligations.CopyIssues : Prop :=
  ∀ (n : Niw) (i : Instr) (s : State) (f : Firing) (r : Region), i ∈ copyInsns n → Runs s f → f.opid = 0 → f.part = 0 →
    f.tmask % 2 ^ f.len ≠ 0 → s.region f.region = some r →
    let card := (s.ctx s.cur.pos f.ctx).slots.getD (n.imm.toNat % 8) []
    let a (l : Nat) : PVal := s.readSel s.cur.pos f n .i32 0 n.a l
    let b (l : Nat) : PVal := s.readSel s.cur.pos f n .i32 1 n.b l
    let c (l : Nat) : PVal := s.readSel s.cur.pos f n .n32 2 n.c l
    let sunk (l : Nat) : Bool := (a l).2 || (b l).2 || (n.c != .none && (c l).2)
    let cnt (l : Nat) : Nat := if n.c = .none then (cardOf card).top else (c l).1
    let src (l : Nat) : Int := sx (a l).1 32 * 2 ^ bits n.imm.toNat 4 4
    let dst (l : Nat) : Int := sx (b l).1 32 * 2 ^ bits n.imm.toNat 8 4
    let live := (f.active n.pred).filter fun l => !sunk l
    (∀ l ∈ live, (cardOf card).issueFault { lane := l, src := src l, dst := dst l, cnt := cnt l, sunk := false } = none) →
    ((∃ l ∈ f.active n.pred, sunk l = true) → s.sinkMustWait f = false) →
    (s.copy s.cur.pos).jobs.length + (live.filter fun l => cnt l != 0).length ≤ 64 →
    ∃ t js, exec i s = .next t ∧ t.mem = s.mem ∧
      js.map (fun j : Job => (j.card, j.lane, j.src, j.dst, j.cnt, j.frame, j.running)) =
        (live.filter fun l => cnt l != 0).map (fun l => (card, l, src l, dst l, cnt l, f.frame, false)) ∧
      ((t.copy s.cur.pos).jobs.filter fun j => j.c.pieces != 0) = ((s.copy s.cur.pos).jobs ++ js).filter fun j => j.c.pieces != 0

/-- R65, R181, R468 to R473: the Escrow instructions that do not trap complete with what the chapter gives them. TRAP, TRAPIF and PCHK.TRAP go on
when no active lane asks for the trap. -/
def Sys2Proof.Claims.EscrowCompletes : Prop :=
  ∀ (n : Niw) (s : State) (f : Firing), Runs s f →
    let a (l : Nat) : PVal := s.readSel s.cur.pos f n n.ty 0 n.a l
    let act := f.active n.pred
    (f.eff n.pred = 0 → exec (.trap n) s = .next s.goOn) ∧
    ((∀ l ∈ act, compareAs n.ty false (n.opt.toNat % 16) (a l).1 (s.readSel s.cur.pos f n n.ty 1 n.b l).1 = false) →
      exec (.trapif n) s = .next s.goOn) ∧
    ((∀ l ∈ act, (a l).2 = false) → exec (.pchkTrap n) s = .next s.goOn) ∧
    (Room s f n false →
      Ends (.flags n) s f n false (act.map fun l => (l, { v := (s.ctx s.cur.pos f.ctx).sf % 128, psn := false })) ∧
      Ends (.pchkMask n) s f n false (act.map fun l => (l, { v := b2n (a l).2, psn := false })) ∧
      Ends (.pchkCnt n) s f n false (act.map fun l => (l, { v := (act.filter fun k => (a k).2).length, psn := false }))) ∧
    (Room s f n n.ty.isWide →
      Ends (.poison n) s f n n.ty.isWide (act.map fun l =>
        let b := s.readSel s.cur.pos f n .n32 1 n.b l
        (l, { v := (a l).1, psn := (a l).2 || b.2 || b.1 != 0 || f.predPoison n.pred l }))) ∧
    (f.tmask ≠ 0 →
      exec (.flagc n) s = .next (s.modCtx s.cur.pos f.ctx fun x => { x with sf := x.sf &&& (127 - n.imm.toNat % 128) }).goOn ∧
      exec (.beat n) s = .next (s.modCtx s.cur.pos f.ctx fun x => { x with beat :=
        { arm := true, port := Sel.portIx n.a, k := n.imm.toNat % 32, left := 2 ^ (n.imm.toNat % 32), frame := f.frame,
          iter := f.iter, len := f.len } }).goOn ∧
      exec (.beatOff n) s = .next (s.modCtx s.cur.pos f.ctx fun x => { x with beat := { x.beat with arm := false } }).goOn)

/-- R474: TAPM.ON binds a granted slot to the edge of D's port, TAPM.OFF ends the binding; a slot that the partition does not hold
parks the frame with ILLEGAL_CFG, DETAIL 0x0800 plus the slot. -/
def Sys2Proof.Claims.TapBindings : Prop :=
  ∀ (n : Niw) (s : State) (f : Firing) (r : Region), Runs s f → f.tmask ≠ 0 → s.region f.region = some r →
    let key := (s.cur.pos.die.toNat, n.imm.toNat % 16)
    let b := s.taps.get {} key
    (∀ o, n.d = .o o → b.en = true → b.part = r.part →
      exec (.tapmOn n) s = .next (({ s with taps := s.taps.set key { b with
        v := true, binds := b.binds + 1, pos := s.cur.pos, ctx := f.ctx, port := o.val, edge := s.edgeOf s.cur.pos f.ctx n.d } } : State).goOn)) ∧
    (b.v = true → b.en = true → b.part = r.part →
      exec (.tapmOff n) s = .next (({ s with taps := s.taps.set key { b with v := false } } : State).goOn)) ∧
    (b.v = false → exec (.tapmOff n) s = .next s.goOn) ∧
    (¬ (b.en = true ∧ b.part = r.part) →
      exec (.tapmOn n) s = s.takeFrameFault s.cur.pos s.cur.slot .firing
        (s.infoOf s.cur.pos f Cause.illegalCfg (0x0800 + n.imm.toNat % 16)) ∧
      (b.v = true → exec (.tapmOff n) s = s.takeFrameFault s.cur.pos s.cur.slot .firing
        (s.infoOf s.cur.pos f Cause.illegalCfg (0x0800 + n.imm.toNat % 16))))

/-- R65, R181, R468 to R474: the Escrow instructions that do not trap complete, TAPM among them. -/
def Obligations.EscrowInstructions : Prop :=
  Claims.EscrowCompletes ∧ Claims.TapBindings

/-- R468, R469, R472: the trapping instructions take the frame fault: TRAP, TRAPIF and PCHK.TRAP park the firing's frame with cause TRAP,
DETAIL IMM16 and AUXV the mask of the lanes that trap. -/
def Obligations.Traps : Prop :=
  ∀ (n : Niw) (s : State) (f : Firing), Runs s f →
    let a (l : Nat) : PVal := s.readSel s.cur.pos f n n.ty 0 n.a l
    let hit (i : Instr) (l : Nat) : Bool := match i with
      | .trapif _ => compareAs n.ty false (n.opt.toNat % 16) (a l).1 (s.readSel s.cur.pos f n n.ty 1 n.b l).1
      | .pchkTrap _ => (a l).2
      | _ => true
    ∀ i ∈ [.trap n, .trapif n, .pchkTrap n], (∃ l ∈ f.active n.pred, hit i l = true) →
      exec i s = s.takeFrameFault s.cur.pos s.cur.slot .trap { s.infoOf s.cur.pos f Cause.trap n.imm.toNat with
        auxv := maskOf f.len fun l => bit (f.eff n.pred) l && hit i l }

/-- R129, R444, R445, R495, R504: taking a frame fault. When the device can hold the record, the record is posted with PARKED 1 and the next RECNO and
stays open; a firing of which no instruction has taken effect leaves its slot and its input tokens stand among its cluster's withdrawn ones, and any other
stops in its slot, where its image waits for an Escrow cell; the frame is parked; and memory, the other nodes and the other partitions keep what they hold.
When it cannot, the frame is parked, nothing is posted, the record waits with the firing in its slot, and WAITC counts from then on. -/
def Obligations.TakesFrameFault : Prop :=
  ∀ (s : State) (slot : Nat) (c : Coord) (f : Firing) (r : Region) (h : Hold) (i : FaultInfo),
    (s.node c).slot slot = some f → s.region f.region = some r → i.frame = f.frame →
    (∀ p ∈ f.ports, ∀ k, p.tok = some k → k.dst = c) →
    let back := h = .firing ∧ f.untouched = true
    ∃ t, s.takeFrameFault c slot h i = .next t ∧ t.mem = s.mem ∧
      (∀ d, d ≠ c → t.node d = s.node d) ∧ (∀ p, p ≠ r.part → t.partOf p = s.partOf p) ∧
      (∃ q, t.region r.id = some q ∧ (q.frame f.frame).parked = true ∧ ∀ g, g ≠ f.frame → q.frame g = r.frame g) ∧
      (s.canPost r.part = true →
        (back → (t.node c).slot slot = none ∧ t.images = s.images ∧
          ∀ p ∈ f.ports, ∀ k, p.tok = some k → ∃ w ∈ (t.cluster (clusterOf c)).withdrawn, w.piece.tok = k ∧ w.region = f.region) ∧
        (¬ back → (t.node c).slot slot = some { f with held := true, due := none } ∧
          t.images = s.images ++ [{ region := r.id, pos := c, firing := { f with held := true, due := none },
                                    recno := some (s.partOf r.part).recno, cell := none }]) ∧
        (t.partOf r.part).recno = ((s.partOf r.part).recno + 1) % 2 ^ 32 ∧
        (∃ o, (t.partOf r.part).opens = (s.partOf r.part).opens ++ [o] ∧ o.recno = (s.partOf r.part).recno ∧ o.region = r.id ∧
          o.frame = f.frame ∧ o.cause = i.cause ∧ o.detail = i.detail) ∧
        (t.partOf r.part).held.map (·.words) = (s.partOf r.part).held.map (·.words) ++
          [{ i with parked := true }.words r.part r.queue r.lid s.cyc (s.partOf r.part).recno]) ∧
      (s.canPost r.part = false →
        (t.node c).slot slot = some { f with due := some (h, i) } ∧ t.images = s.images ∧
        t.partOf r.part = { s.partOf r.part with waiting := true })

namespace Sys2Proof.Claims

/-- The width of the result of an instruction of one lane: 32 bits where it writes an N32 slot or an F32 value, else that of TY (R176). -/
def laneWidth (n : Niw) : Instr → Nat
  | .dot4 _ | .perm _ | .pack _ | .unpk _ | .hash _ | .rng _ | .fcmp _ | .fcmpm _ | .fclass _ | .fdot2 _ => 32
  | _ => n.ty.width

/-- The step executes the firing `f`, whatever answer bears on its instruction. -/
def Acting (s : State) (f : Firing) : Prop := s.firing = some f ∧ f.held = false ∧ f.due = none

/-- The result lanes under SKIP, and under PATCH with a pattern of `w` bits (R449). -/
def lostLanes (f : Firing) (n : Niw) : List (Nat × Lane) := (f.active n.pred).map fun l => (l, { v := 0, psn := true })
def patched (f : Firing) (n : Niw) (w : Nat) (v : Word) : List (Nat × Lane) :=
  (f.active n.pred).map fun l => (l, { v := v.toNat % 2 ^ w, psn := false })

end Sys2Proof.Claims

/-- R447, R449, R450, R451: the return from a frame fault. RETRY lets the firing execute its instruction again, SKIP with every lane suppressed, PATCH with
the pattern; after a trap it goes on behind the trapping instruction; a firing that gave its inputs back does so when it is admitted again; and the frame
leaves PARKED once no open record parks it. Under SKIP an instruction performs nothing: its active lanes are poisoned zeros and are counted, a load's reply is poisoned,
ALLOC takes no frame, FREE frees none, and EMITT and ITER send nothing further; under PATCH the lanes take the pattern, cut to the result's width and not poisoned. -/
def Obligations.ReturnsFromFrameFault : Prop :=
  (∀ (f : Firing) (n : Niw) (w : Nat) (g : Firing → List (Nat × Lane)),
    (f.skipped = true → f.resultLanes n w g = lostLanes f n) ∧
    (∀ v, f.skipped = false → f.patch = some v → f.resultLanes n w g = patched f n w v) ∧
    (f.skipped = false → f.patch = none → f.resultLanes n w g = g f)) ∧
  (∀ (n : Niw) (i : Instr) (s : State) (f : Firing), i ∈ fieldInsns n ++ floatInsns n ++ numericInsns n → Acting s f →
    Room s f n (laneForm i).1 →
    (f.skipped = true → exec i s = .next ((s.countSkip s.cur.pos (f.active n.pred).length).complete f n.d (laneForm i).1 (f.eff n.pred) (lostLanes f n))) ∧
    (∀ v, f.skipped = false → f.patch = some v →
      exec i s = .next (s.complete f n.d (laneForm i).1 (f.eff n.pred) (patched f n (laneWidth n i) v)))) ∧
  (∀ (n : Niw) (s : State) (f : Firing) (r : Region), Acting s f → s.region f.region = some r →
    let act := f.active n.pred
    (f.skipped = true →
      (Room s f n false → exec (.alloc n) s = .next ((s.countSkip s.cur.pos act.length).complete f n.d false (f.eff n.pred)
        (act.zipIdx.map fun x => (x.1, { v := 0, psn := true })))) ∧
      exec (.free n) s = .next ((s.countSkip s.cur.pos act.length).goOn) ∧
      exec (.emitt n) s = .next ((s.countSkip s.cur.pos (act.filter fun l => decide (f.part ≤ l)).length).goOn)) ∧
    (∀ v, f.skipped = false → f.patch = some v → Room s f n false →
      exec (.alloc n) s = .next (s.complete f n.d false (f.eff n.pred) (act.zipIdx.map fun x => (x.1, { v := v.toNat % 2 ^ 32, psn := false }))))) ∧
  (∀ (n : Niw) (i : Instr) (s : State) (f : Firing), i ∈ [.ld n, .ldg n, .lda n, .ldb n, .ldl n, .lds n, .ldsg n] → Acting s f → f.opid = 0 →
    let k := n.opt.toNat % 8
    let eff := f.tmask % 2 ^ f.len
    s.canReserve s.cur.pos f.ctx k (tokensOf n.ty.isWide f.len) = true →
    let sends (u : State) (psn : Nat) (v : Word) : Prop := ∃ o : Op,
      exec i s = .next (((u.reserve s.cur.pos f.ctx k (tokensOf n.ty.isWide f.len)).bumpOp.issue o).settle.goOn) ∧
      o.kind = .load ∧ o.ty = n.ty ∧ o.todo = [] ∧ o.reply = k + 1 ∧ o.receipt = 0 ∧ o.mask = eff ∧ o.poison = psn ∧ o.frame = f.frame ∧
      o.iter = f.iter ∧ o.len = f.len ∧ o.vals = (maskLanes eff f.len).map fun l => (l, v)
    (f.skipped = true → sends (s.countSkip s.cur.pos (popcount eff f.len)) eff 0) ∧
    (∀ v, f.skipped = false → f.patch = some v → sends s 0 (BitVec.ofNat 64 (v.toNat % 2 ^ n.ty.width)))) ∧
  (∀ (s : State) (c : Coord) (k frame iter n tmask : Nat) (ps : List PortIn) (r : Region), s.region (s.regionOf c k) = some r →
    let how := Table.find r.skips (c, k, frame, iter, n)
    ∃ f, ((s.admitFiring c k frame iter n tmask ps).node c).admitted = (s.node c).admitted ++ [f] ∧ f.ports = ps ∧
      f.words = (s.ctx c k).sequence ∧ (how = some .skipAll ↔ f.skipAll = true) ∧ (how = some .skip ↔ f.skip = true) ∧
      (∀ v, how = some (.patch v) ↔ f.patch = some v) ∧ f.ix = if how = some .after then 1 else 0) ∧
  (∀ (f : Firing) (v : Word) (act : Nat),
    (f.answered true act v).ix = f.ix + 1 ∧ (f.answered true act v).held = false ∧
    (f.answered false 0 v).ix = f.ix ∧ (f.answered false 0 v).skip = f.skip ∧ (f.answered false 0 v).patch = f.patch ∧
    (f.answered false 1 v).skip = true ∧ (f.answered false 1 v).ix = f.ix ∧ (f.answered false 2 v).patch = some v ∧
    (f.answered false act v).held = false ∧ (f.answered false act v).temps = f.temps ∧ (f.answered false act v).ports = f.ports ∧
    (f.answered false act v).masks = f.masks) ∧
  ∀ (s : State) (r : Region) (k : Nat), s.region r.id = some r → (r.frame k).parked = true →
    (s.opensOf r k = [] → ∃ q, (s.unparkFrame r.id k).region r.id = some q ∧ q.frame k = { r.frame k with parked := false } ∧
      ∀ g, g ≠ k → q.frame g = r.frame g) ∧
    (s.opensOf r k ≠ [] → s.unparkFrame r.id k = s)

/-! ## Matrix Node -/

namespace Sys2Proof.Claims

/-- A configuration instruction of a Matrix Node can run: a firing with an active lane, whose slot holds a configuration (R304, R321). -/
def MnRuns (s : State) (f : Firing) (r : Region) (n : Niw) (ws : List Word) : Prop :=
  Runs s f ∧ f.tmask % 2 ^ f.len ≠ 0 ∧ s.region f.region = some r ∧
    ws = (s.ctx s.cur.pos f.ctx).slots.getD (n.imm.toNat % 8) [] ∧ ws ≠ []

/-- The operands in the lowest active lane (R321). -/
def laneA (s : State) (f : Firing) (n : Niw) (ty : Ty) (use : Nat) (sel : Sel) : PVal :=
  s.readSel s.cur.pos f n ty use sel ((f.active .token).headD 0)

/-- The instruction that a firing issues: its tag, the configuration it copies, and its work (R321). -/
def mnOp (s : State) (f : Firing) (n : Niw) (ws : List Word) (work : MnWork) (rrw : Nat) : MnOp :=
  { id := (s.matrix s.cur.pos).nextId, region := f.region, ctx := f.ctx, frame := f.frame, iter := f.iter, len := f.len,
    pmask := f.pmask, lmask := f.tmask, opc := (f.words.getD f.ix 0).toNat / 2 ^ 56, seqix := f.ix, slot := n.imm.toNat % 8,
    cfg0 := ws.getD 0 0, cfg1 := ws.getD 1 0, work := work, rrw := rrw }

/-- What issuing an instruction of a Matrix Node does (R321): it joins the node's instructions and owes its receipt and its rows, the firing
goes on, and the node acts as far as it can. -/
def mnIssued (s : State) (f : Firing) (o : MnOp) (rows : Nat) : State :=
  (((s.modMatrix s.cur.pos fun m => { m with ops := m.ops ++ [o], nextId := m.nextId + 1 }).owe s.cur.pos f.ctx f.frame
    (1 + rows)).goOn).mnPump s.cur.pos

end Sys2Proof.Claims

/-- R79, R323: MNCFG writes its slot when the words meet R79 and refuses them otherwise, with DETAIL the failing word; without operands it
checks the slot. Both send the receipt of the slot's RRW. -/
def Sys2Proof.Claims.MatrixConfiguration : Prop :=
  ∀ (n : Niw) (s : State) (f : Firing) (r : Region) (ws : List Word), MnRuns s f r n ws →
    let a := laneA s f n .n64 0 n.a
    let b := laneA s f n .n64 1 n.b
    let w0 : Word := BitVec.ofNat 64 a.1
    let w1 : Word := BitVec.ofNat 64 b.1
    let aor := bits (r.hdr.getD 0 0).toNat 21 3
    let fault (d v : Nat) : Out := s.takeFrameFault s.cur.pos s.cur.slot .firing { s.infoOf s.cur.pos f Cause.illegalCfg d with auxv := v }
    (a.2 = false → b.2 = false → mnCfgBad aor w0 w1 = none →
      exec (.mncfg n) s = .next (((s.modCtx s.cur.pos f.ctx fun x => { x with slots := setNth x.slots (n.imm.toNat % 8) [w0, w1] }).sendReceipt
        s.cur.pos f.ctx (mnCfgOf [w0, w1]).rrw f.frame f.iter 0 0 0 false).goOn)) ∧
    (a.2 = false → b.2 = false → ∀ d, mnCfgBad aor w0 w1 = some d →
      exec (.mncfg n) s = fault d (if d = 1 then w0.toNat else w1.toNat)) ∧
    (mnCfgBad aor (ws.getD 0 0) (ws.getD 1 0) = none →
      exec (.mncfgCheck n) s = .next ((s.sendReceipt s.cur.pos f.ctx (mnCfgOf ws).rrw f.frame f.iter 0 0 0 false).goOn)) ∧
    (∀ d, mnCfgBad aor (ws.getD 0 0) (ws.getD 1 0) = some d → exec (.mncfgCheck n) s = fault d (ws.getD (d - 1) 0).toNat)

/-- R308, R324 to R328, R330, R332: MNLDB, MNSWAP, MNRUN, MNRUN.P, MNZERO, MNSCL, MNOUT, MNSAVE and MNREST issue when their range is within the
configuration's rows (and, where they send, the frame's tag space), with the rows that they name. -/
def Obligations.MatrixIssues : Prop :=
  ∀ (n : Niw) (s : State) (f : Firing) (r : Region) (ws : List Word), MnRuns s f r n ws →
    let pos := s.cur.pos
    let c := mnCfgOf ws
    let m := s.matrix pos
    let a := laneA s f n .n32 0 n.a
    let b := laneA s f n .n32 1 n.b
    let e := laneA s f n .i32 2 n.c
    let op (w : MnWork) : MnOp := mnOp s f n ws w c.rrw
    let out := bit n.opt.toNat 1
    let dit := c.dit || bit m.dit f.ctx
    let used := m.ops.filterMap fun o => match o.work with | .run .. => some o.runSlot | _ => none
    exec (.mnldb n) s = .next (mnIssued s f (op (.hold c.bsel false)) 0) ∧
    (m.holder c.bsel = none → (m.buf c.bsel).st ≠ 1 →
      exec (.mnswap n) s = .next (mnIssued (if (m.buf c.bsel).st = 2 then (s.modBuf pos c.bsel fun b => { b with st := 3, rel := m.nextId }) else s)
        f (op (.hold (1 - c.bsel) false)) 0)) ∧
    (∀ k, a.2 = false → b.2 = false → a.1 < c.nr → 1 ≤ b.1 → b.1 ≤ 4096 → (out = true → c.reach b.1 ≤ r.space f.frame) →
      [0, 1, 2, 3].find? (fun k => !used.contains k) = some k →
      exec (.mnrun n) s = .next (mnIssued s f { op (.run none out dit a.1 b.1 0 0) with runSlot := k } b.1)) ∧
    (∀ k p i, n.c = .p p → f.portIn p = some i → f.len = 16 →
      let a0 := s.readSel pos f n .n32 0 n.a 0
      a0.2 = false → a0.1 < c.nr → (out = true → c.reach 1 ≤ r.space f.frame) →
      [0, 1, 2, 3].find? (fun k => !used.contains k) = some k →
      exec (.mnrunP n) s = .next (mnIssued s f { op (.run (some i) out dit a0.1 1 0 0) with runSlot := k } 1)) ∧
    (a.2 = false → b.2 = false → a.1 < c.nr → 1 ≤ b.1 → b.1 ≤ c.nr →
      exec (.mnzero n) s = .next (mnIssued s f (op (.zero a.1 b.1 0)) 0) ∧
      (e.2 = false → exec (.mnscl n) s = .next (mnIssued s f (op (.scale a.1 b.1 0 (sx e.1 32))) 0)) ∧
      (c.reach b.1 ≤ r.space f.frame →
        exec (.mnout n) s = .next (mnIssued s f (op (.out (bit n.opt.toNat 0) a.1 b.1 0)) 0))) ∧
    ∀ (base : Nat) (ls : List (Nat × Bool)),
      let x := laneA s f n .n32 0 n.b
      let y := laneA s f n .n32 1 n.c
      let rw := n.opt.toNat % 8
      let sc := n.opt.toNat / 32
      let l := (List.range y.1).map fun j => (ls.drop (4 * j)).take 4
      f.addrConst n.a = some (true, base) → base % 128 = 0 → x.2 = false → y.2 = false → 1 ≤ y.1 → x.1 + y.1 ≤ 128 →
      (s.mnLines r.part base y.1 true = .inr ls → exec (.mnsave n) s = .next (mnIssued s f
        { mnOp s f n ws (.save x.1 y.1 0 l sc) rw with cfg0 := BitVec.ofNat 64 base, cfg1 := 0 } 0)) ∧
      (s.mnLines r.part base y.1 false = .inr ls → exec (.mnrest n) s = .next (mnIssued s f
        { mnOp s f n ws (.rest x.1 y.1 0 l sc) rw with cfg0 := BitVec.ofNat 64 base, cfg1 := 0 } 0))

/-- R320, R333: the queries MNPROG, MNAOR, MNCHK and MNSTAT give their value in every active lane; MNDIT.ON and MNDIT.OFF set the context's bit. -/
def Sys2Proof.Claims.MatrixQueries : Prop :=
  ∀ (n : Niw) (s : State) (f : Firing) (r : Region) (ws : List Word), MnRuns s f r n ws →
    let pos := s.cur.pos
    let m := s.matrix pos
    let c := mnCfgOf ws
    let b := m.buf c.bsel
    let bad := (List.range c.nc).filterMap fun i => (tileFault c.tyb (b.col i)).map fun x => (i, x)
    let value (v : Nat) : List (Nat × Lane) := (f.active n.pred).map fun l => (l, { v := v % 2 ^ 32, psn := false })
    let answers (i : Instr) (v : Nat) : Prop := Ends i s f n false (value v)
    (∀ o : Fin 4, n.d = .o o → Room s f n false →
      answers (.mnprog n) (m.ops.foldl (fun v x => match x.work with
        | .run .. => if x.ctx = f.ctx ∧ x.frame = f.frame then v + x.doneRows else v
        | _ => v) 0) ∧
      answers (.mnaor n) (2 + 256 * bits (r.hdr.getD 0 0).toNat 21 3) ∧
      answers (.mnchk n) (bad.length + 2 ^ 8 * (bad.headD (0, 0)).1 + 2 ^ 16 * (bad.headD (0, 0)).2 + 2 ^ 20 * b2n (b.st == 2)) ∧
      answers (.mnstat n) (match n.opt.toNat % 4 with
        | 0 => (m.buf 0).st + 4 * (m.buf 1).st + 16 * m.runs.length + 128 * m.window.length
        | 1 => ((s.copy (clusterNode (clusterOf pos) 4)).fifo.filter fun e => decide (e.region = f.region ∧ e.frame = f.frame)).length
        | 2 => m.rows
        | _ => (s.ctx pos f.ctx).sf)) ∧
    exec .mnditOn s = .next ((s.modMatrix pos fun m => { m with dit := setBits m.dit f.ctx 1 1 }).goOn) ∧
    exec .mnditOff s = .next ((s.modMatrix pos fun m => { m with dit := setBits m.dit f.ctx 1 0 }).goOn)

/-- R79, R320, R323, R333: MNCFG and the queries of a Matrix Node complete. -/
def Obligations.MatrixSettings : Prop :=
  Claims.MatrixConfiguration ∧ Claims.MatrixQueries

/-- R49, R327, R332: what the row-slot instructions do to the row of their place `d`: MNZERO clears it and its poison flag; MNSCL scales the configured
columns; MNSAVE writes the image of 512 bytes of a row without poison; MNREST gives it the image's values, poisoned when a line of the
image carries an uncorrectable error, whose record then has room (R495, R502). In a partition that its budget stalls, MNREST, and
MNSAVE of such a row, wait. -/
def Obligations.MatrixRows : Prop :=
  ∀ (s : State) (c : Coord) (o : MnOp) (a b d : Nat) (e : Int), NoFills s →
    let q := o.cfg
    let k := q.row (a + d)
    (∀ x, o.work = .zero a b x → ∃ t, s.rowEffect c o d = some (t, 0, false) ∧ (t.matrix c).accRow k = List.replicate 128 0 ∧
      bit (t.matrix c).apsn k = false ∧ t.mem = s.mem ∧ ∀ j, j ≠ k → (t.matrix c).accRow j = (s.matrix c).accRow j) ∧
    (∀ x, o.work = .scale a b x e → (((s.matrix c).accRow k).length = 128) →
      ∃ t fl, s.rowEffect c o d = some (t, fl, false) ∧ t.mem = s.mem ∧
        (∀ i, i < 128 → ((t.matrix c).accRow k).getD i 0 = if i < q.nc
          then BitVec.ofNat 32 (scaleElem (q.tya == .i8) e (((s.matrix c).accRow k).getD i 0).toNat).1
          else ((s.matrix c).accRow k).getD i 0) ∧
        ∀ j, j ≠ k → (t.matrix c).accRow j = (s.matrix c).accRow j) ∧
    (∀ x n l sc, (o.work = .save b n x l sc ∧ bit (s.matrix c).apsn (b + d) = false) ∨ o.work = .rest b n x l sc →
      s.stalled (s.mnPart o) = true → s.rowEffect c o d = none) ∧
    (∀ x n l sc, o.work = .save b n x l sc → bit (s.matrix c).apsn (b + d) = false → s.stalled (s.mnPart o) = false → Memory.wf s.mem = true →
      let ps := l.getD d []
      let bs := rowBytes ((s.matrix c).accRow (b + d))
      let cells := ps.zipIdx.flatMap fun p => cellsAt p.1.1 ((bs.drop (128 * p.2)).take 128)
      ∃ t, s.rowEffect c o d = some (t, 0, false) ∧
        ∀ x, Memory.read t.mem x = (stored cells x).getD (Memory.read s.mem x)) ∧
    (∀ x n l sc, o.work = .rest b n x l sc → b + d < 128 → s.stalled (s.mnPart o) = false → s.rowFull c o d = false →
      let ps := l.getD d []
      let psn := ps.any fun p => s.badLines.contains (lineOf p.1)
      ∃ t, s.rowEffect c o d = some (t, 0, psn) ∧ t.mem = s.mem ∧ bit (t.matrix c).apsn (b + d) = psn ∧
        ∀ i, i < 128 → ((t.matrix c).accRow (b + d)).getD i 0 =
          BitVec.ofNat 32 (ofBytes (((ps.flatMap fun p => Memory.reads s.mem p.1 128).drop (4 * i)).take 4)))

/-! ## Worklist Engine -/

namespace Sys2Proof.Claims

/-- A worklist instruction of a firing with an active lane, in its region. -/
def WlRuns (s : State) (f : Firing) (r : Region) : Prop :=
  Runs s f ∧ f.tmask % 2 ^ f.len ≠ 0 ∧ s.region f.region = some r

/-- An operand in the lowest active lane. -/
def low (s : State) (f : Firing) (n : Niw) (ty : Ty) (use : Nat) (sel : Sel) : PVal :=
  s.readSel s.cur.pos f n ty use sel ((f.active .token).headD 0)

/-- The lanes of a push: each active lane with its task, and whether one of its operands is poisoned (R396). -/
def pushLanes (s : State) (f : Firing) (n : Niw) : List (Nat × Task × Bool) :=
  (f.active .token).map fun l =>
    let a := s.readSel s.cur.pos f n .n32 0 n.a l
    let b := s.readSel s.cur.pos f n .n32 1 n.b l
    let c := s.readSel s.cur.pos f n .n64 2 n.c l
    (l, { pri := a.1, key := b.1, pay := c.1 }, a.2 || b.2 || c.2)

/-- The first step of a push counts and reports its suppressed lanes and opens the push (R396, R456); a later step finds it open. -/
def pushOpened (s : State) (f : Firing) (n : Niw) : State × Nat :=
  let sunk := (pushLanes s f n).filter (·.2.2)
  if f.opid ≠ 0 then (s, f.opid)
  else
    let t := match sunk with
      | [] => s
      | x :: _ => (s.modTill s.cur.pos fun t => { t with psup := satAdd 64 t.psup sunk.length }).reportSink s.cur.pos f 3
          (s.sinkEdge s.cur.pos f.ctx (n.opt.toNat % 8)) x.1 sunk.length
    t.wlOpen f (n.opt.toNat % 8) 0 (!sunk.isEmpty) false

end Sys2Proof.Claims

/-- R372, R395: WLCFG completes on a word and a ring base within their limits, on a region that is not configured: it configures every Till of the
region, which then holds no task, and HOLD stands. -/
def Obligations.WorklistConfiguration : Prop :=
  ∀ (n : Niw) (s : State) (f : Firing) (r : Region), WlRuns s f r →
    let w := (low s f n .n64 0 n.a).1
    let base := (low s f n .n64 1 n.b).1
    wlWordOk w = true → (bit w 16 = true → (s.nfy (bits w 17 8)).owner = r.part) → wlRingOk base = true →
    (s.till s.cur.pos).openNow = false →
    ∃ t, exec (.wlcfg n) s = .next t ∧ t.mem = s.mem ∧ ∀ c ∈ r.tills, (t.till c).cfg = BitVec.ofNat 64 w ∧
      (t.till c).rbase = base % 2 ^ 48 ∧ (t.till c).cfgd = true ∧ (t.till c).hold = true ∧ (t.till c).term = false ∧
      (t.till c).tasks = [] ∧ (t.till c).ringCount = 0

/-- R374, R396: WLPUSH completes one lane a step, in lane order. Its first step counts and reports the lanes of a poisoned operand, which push nothing; each
further step issues a lane's task to its Till and goes to the next lane, or waits for credit or room; after the last lane the receipt is due when every task is
accepted. A zero-mask firing sends its receipt. A task for another Till leaves by transfer and counts in SENT; one for its own Till joins the Till's tasks, or,
beyond the window, its ring, and counts in SENT and in RECV. One lane a step (log 28) and the edge that a POISON_SINK record names (log 76) are the model's choices. -/
def Sys2Proof.Claims.PushesTasks : Prop :=
  (∀ (n : Niw) (s : State) (f : Firing) (r : Region), WlRuns s f r → s.sinkMustWait f = false → (∀ p, n.c = .p p → f.len ≤ 16) →
    (f.opid = 0 → (s.till s.cur.pos).cfgd = true ∧ (s.till s.cur.pos).term = false) →
    let w := pushOpened s f n
    exec (.wlpush n) s = .next (match (pushLanes s f n).find? fun x => decide (f.part ≤ x.1) && !x.2.2 with
      | none => w.1.wlIssued w.2
      | some (l, x, _) =>
        let p := w.1.pushTask r s.cur.pos (pushDest (fun k => hash32 k 0) r s.cur.pos (n.opt.toNat / 8 % 8 % 4) x.key) x w.2 true
        if p.2 then p.1.modSlot s.cur.pos s.cur.slot fun g => { g with part := l + 1 } else p.1)) ∧
  (∀ (n : Niw) (s : State) (f : Firing) (r : Region), Runs s f → f.tmask % 2 ^ f.len = 0 → s.region f.region = some r →
    exec (.wlpush n) s = .next (s.sendReceipt s.cur.pos f.ctx (n.opt.toNat % 8) f.frame f.iter 0 0 0 false).goOn) ∧
  (∀ (s : State) (r : Region) (pos dst : Coord) (x : Task) (op : Nat), dst ≠ pos → s.transferCredit pos dst = true →
    let y : Transfer := { id := s.nextTransfer, src := pos, dst := dst, region := r.id, task := x, steal := false, op := op }
    ∃ t, s.pushTask r pos dst x op true = (t, true) ∧ t.mem = s.mem ∧ t.transfers = s.transfers ++ [y] ∧
      (t.till pos).sent = ((s.till pos).sent + 1) % 2 ^ 48 ∧
      (t.till pos).pmin = min (s.till pos).pmin x.pri) ∧
  (∀ (s : State) (r : Region) (pos : Coord) (x : Task) (op : Nat), (s.till pos).beyond x = false →
    (s.till pos).tasks.length < (s.till pos).hiwm →
    ∃ t, s.pushTask r pos pos x op true = (t, true) ∧ t.mem = s.mem ∧ (t.till pos).tasks = ((s.till pos).insert x).tasks ∧
      (t.till pos).sent = ((s.till pos).sent + 1) % 2 ^ 48 ∧ (t.till pos).recv = ((s.till pos).recv + 1) % 2 ^ 48) ∧
  ∀ (s u : State) (r : Region) (pos : Coord) (x : Task) (op : Nat), (s.till pos).beyond x = true → s.ringWrite r pos x = (u, true) →
    ∃ t, s.pushTask r pos pos x op true = (t, true) ∧ t.mem = u.mem ∧ (t.till pos).rTail = (u.till pos).rTail ∧
      (t.till pos).tasks = (u.till pos).tasks ∧ (t.till pos).sent = ((u.till pos).sent + 1) % 2 ^ 48 ∧
      (t.till pos).recv = ((u.till pos).recv + 1) % 2 ^ 48

/-- R371, R397: WLPUSHB completes. It first announces its records in SENT; then it pushes one record a step, read from memory at its address and laid out as R371
says, each read once and kept while it waits for credit or room; after the last its receipt is due when every record is accepted. A zero-mask firing and a count
of 0 send the receipt, and a poisoned operand suppresses the instruction. One record a step (log 28), the edge that a POISON_SINK record names (log 76) and a
record that counts as unread while it waits (log 77) are the model's choices. -/
def Sys2Proof.Claims.PushesRecords : Prop :=
  (∀ (n : Niw) (s : State) (f : Firing) (r : Region), Runs s f → f.tmask % 2 ^ f.len = 0 → s.region f.region = some r →
    exec (.wlpushb n) s = .next (s.sendReceipt s.cur.pos f.ctx (n.opt.toNat % 8) f.frame f.iter 0 0 0 false).goOn) ∧
  ∀ (n : Niw) (s : State) (f : Firing) (r : Region) (base : Nat), WlRuns s f r →
    (f.opid = 0 → (s.till s.cur.pos).cfgd = true ∧ (s.till s.cur.pos).term = false) → f.addrConst n.a = some (true, base) →
    let pos := s.cur.pos
    let rw := n.opt.toNat % 8
    let b := low s f n .n32 1 n.b
    let c := low s f n .n32 2 n.c
    let held := ((s.till pos).ops.find? fun o => o.id == f.opid).bind (·.record)
    let push (s : State) (x : Task) : State :=
      let p := s.pushTask r pos (pushDest (fun k => hash32 k 0) r pos (n.opt.toNat / 8 % 8 % 4) x.key) x f.opid false
      let q := p.1.modWlOp pos f.opid fun o => { o with record := if p.2 then none else some x, records := o.records - b2n p.2 }
      if p.2 then (q.modTill pos fun t => t.lower x.pri).modSlot pos s.cur.slot fun g => { g with part := g.part + 1 } else q
    ((b.2 || c.2) = true → s.sinkMustWait f = false → exec (.wlpushb n) s = .next ((((s.modTill pos fun t =>
      { t with psup := satAdd 64 t.psup 1 }).reportSink pos f 3 (s.sinkEdge pos f.ctx rw) ((f.active .token).headD 0) 1).sendReceipt
        pos f.ctx rw f.frame f.iter 0 0 0 true).goOn)) ∧
    (b.2 = false → c.2 = false → b.1 = 0 → exec (.wlpushb n) s =
      .next (s.sendReceipt pos f.ctx rw f.frame f.iter 0 0 0 false).goOn) ∧
    (b.2 = false → c.2 = false → 1 ≤ b.1 → b.1 ≤ 2 ^ 20 →
      (f.opid = 0 → exec (.wlpushb n) s =
        .next ((s.modTill pos fun t => { t with sent := (t.sent + b.1) % 2 ^ 48 }).wlOpen f rw b.1 false false).1) ∧
      (f.opid ≠ 0 → b.1 ≤ f.part → exec (.wlpushb n) s = .next (s.wlIssued f.opid)) ∧
      (∀ x, f.opid ≠ 0 → f.part < b.1 → held = some x → exec (.wlpushb n) s = .next (push s x)) ∧
      ∀ spa dev, f.opid ≠ 0 → f.part < b.1 → held = none → s.stalled r.part = false → (base + 16 * (c.1 + f.part)) % 16 = 0 →
        s.reach r.part (base + 16 * (c.1 + f.part)) false = .inr (spa, dev) →
        let u := s.unitRead (some r.part) (lineOf spa) dev
        exec (.wlpushb n) s = .next (push u (taskOf (Memory.reads u.mem spa 16))))

/-- R371, R374, R396, R397: WLPUSH and WLPUSHB complete. -/
def Obligations.WorklistPushes : Prop :=
  Claims.PushesTasks ∧ Claims.PushesRecords

/-- R383, R398: WLPOP completes when its turn has come and a batch can form: the batch's tasks leave the Till for service under one of the source's frames, a
token of their fields leaves on each output port, and a marker behind it. The numbers that batches get as they form are the model's own (log 77). -/
def Obligations.PopsBatches : Prop :=
  ∀ (n : Niw) (s : State) (b : NextBatch) (r : Region),
    let pos := s.cur.pos
    let k := s.cur.slot
    let t := s.till pos
    ((List.range 8).map fun i => (t.lastPop + 1 + i) % 8).find? (fun c => (s.nextBatch pos c).isSome) = some k →
    s.nextBatch pos k = some b → s.region (s.regionOf pos k) = some r →
    let batch : Batch := { frame := b.frame, run := b.run, fan := b.fan, bucket := b.bucket, tasks := b.tasks.map (·.2), id := t.nextId + 1 }
    let past (y : Batch) : Batch := if y.frame = b.frame then { y with gone := true } else y
    let taken : State := s.modTill pos fun t =>
      { t.modSource k fun p => { p.reclaim r with batches := (p.reclaim r).batches.map past ++ [batch] } with
        nextId := t.nextId + 1, tasks := t.tasks.filter fun q => !b.tasks.any fun y => y.1 == q.1, pops := (t.pops + b.tasks.length) % 2 ^ 48, lastPop := k }
    let tok (o : Nat) : Token :=
      { kind := .value, dst := mkCoord 0 0 0, ctx := 0, port := 0, frame := b.frame, iter := 0, len := b.run, aux := 0,
        mask := 2 ^ b.run - 1, poison := 0, wide := false,
        lanes := (List.range b.run).map fun l =>
          BitVec.ofNat 64 ((((b.tasks.map (·.2)).getD (l / b.fan) { key := 0, pri := 0, pay := 0 })).field o) }
    let os := (s.ctx pos k).outPorts
    exec (.wlpop n) s = .next ((os.foldl (fun s o => s.enqueue pos k o false false (markerTok b.frame (b.run % 4096) 0 0 false))
      (os.foldl (fun s o => s.enqueue pos k o false false (tok o)) taken)).progress (s.regionOf pos k))

/-- R390, R399, R400, R401: WLDONE covers its run in its batch, counts the tasks that it completes and sends the retire notice; WLDONE.SEED ends HOLD at every Till of the
region; WLMIN and WLSTAT give their value in every active lane; WLDRAIN's receipt waits for termination, or is sent when it has come. That the retire notice carries
its batch's number is the model's choice (log 77). -/
def Obligations.WorklistProgress : Prop :=
  ∀ (n : Niw) (s : State) (f : Firing) (r : Region), Runs s f → s.region f.region = some r →
    let pos := s.cur.pos
    let t := s.till pos
    (∀ c k b, s.batchOf r f.frame = some (c, k, b) → (∀ i, f.iter ≤ i → i < f.iter + f.len → i < b.run ∧ bit b.cov i = false) →
      let m := (2 ^ f.len - 1) * 2 ^ f.iter
      exec (.wldone n) s = .next ((((s.modBatch c k f.frame fun b => { b with cov := b.cov + m }).modTill pos fun t =>
        { t with retires := (t.retires + (b.coveredTasks (b.cov + m) - b.coveredTasks b.cov)) % 2 ^ 48 }).sendStrobe
          (.node pos) (.node c) r.id 11 [(32, m), (6, 0), (10, f.frame)] b.id).goOn)) ∧
    (t.hold = true → exec (.wldoneSeed n) s =
      .next ((r.tills.foldl (fun s c => s.modTill c fun t => { t with hold := false }) s).goOn)) ∧
    (Room s f n false →
      Ends (.wlmin n) s f n false ((f.active .token).map fun l => (l, { psn := false, v := if t.cfgd = false then 0xffffffff else match n.opt.toNat / 8 % 8 with
        | 0 => min t.lpkg (min t.ldie t.locLow)
        | 1 => t.bkt (min t.lpkg (min t.ldie t.locLow))
        | 2 => t.lpkg
        | _ => leastPri (t.tasks.map fun x => x.2.pri) })) ∧
      Ends (.wlstat n) s f n false ((f.active .token).map fun l => (l, { psn := false, v := (if t.cfgd = false then 0 else match n.opt.toNat / 8 % 8 with
        | 0 => t.tasks.length
        | 1 => t.inService.length
        | 2 => t.rTail - t.rHead
        | 3 => b2n t.term
        | _ => (s.clearing f.region).waves) % 2 ^ 32 }))) ∧
    (t.cfgd = true →
      (t.term = true → exec (.wldrain n) s =
        .next ((s.sendReceipt pos f.ctx (n.opt.toNat % 8) f.frame f.iter 0 0 0 false).goOn)) ∧
      (t.term = false → exec (.wldrain n) s = .next ((s.wlOpen f (n.opt.toNat % 8) 0 false true).1.goOn)))

/-! ## Link Engine -/

namespace Sys2Proof.Claims

/-- A link instruction executes: a firing with an active lane in its region, that waits for no reply. -/
def LkRuns (s : State) (f : Firing) (r : Region) : Prop :=
  Runs s f ∧ f.opid = 0 ∧ f.tmask % 2 ^ f.len ≠ 0 ∧ s.region f.region = some r

/-- The instruction, after its release at SYS with REL, takes its place on its channel, owes its receipt and its reply, issues its messages in
lane order, and goes on; after an acquire it waits in its slot (R426, R428, R430). -/
def linkSent (s : State) (f : Firing) (o : Owes) (ord : Nat) (ms : List Msg) : State :=
  let p := portOfLink s.cur.pos
  let u := if bit ord 1 then s.released f 3 else s
  let x := u.linkOpen f o
  let t := (ms.foldl (fun s m => s.sendMsg p { m with op := x.2, region := f.region }) x.1).publish p o.chan
  if bit ord 0 && decide (f.ix + 1 < f.words.length) then t.modSlot s.cur.pos s.cur.slot fun g => { g with opid := x.2 } else t.goOn

/-- An instruction that sends no message ends in its turn on its channel (R426). -/
def linkEnded (s : State) (f : Firing) (o : Owes) : State := ((s.linkOpen f o).1.publish (portOfLink s.cur.pos) o.chan).goOn

end Sys2Proof.Claims

/-- R419, R429, R432, R433, R434: LPUT, LGET, LPUTN and LATOM issue when their lanes pass the checks and the channel takes their messages: one
message a lane (one in all for LPUTN) with the remote offset CB plus the lane's index, and, for LPUT and LGET, the local address base plus its own; poisoned
lanes are suppressed. A release waits for what earlier releases ordered (R353, R428; which those are is the model's choice, log 90), and a message waits for
room for the record of an uncorrectable source line (R495, R502); the edge that a sink without an address names is the model's choice (log 76). -/
def Sys2Proof.Claims.LinkMessages : Prop :=
  ∀ (n : Niw) (s : State) (f : Firing) (r : Region), LkRuns s f r →
    let p := portOfLink s.cur.pos
    let j := 8 * f.ctx + n.imm.toNat % 8
    let c := (s.link p).chan j
    let rw := n.opt.toNat % 8
    let act := f.active .token
    c.opened = true → (s.sinkMustWait f = false) →
    (∀ base, f.addrConst n.a = some (true, base) → ∀ get : Bool,
      let len := 64 * (n.imm.toNat / 8 + 1)
      let b (l : Nat) : PVal := s.readSel s.cur.pos f n .i32 1 n.b l
      let d (l : Nat) : PVal := s.readSel s.cur.pos f n .i32 2 n.c l
      let loc (l : Nat) : Nat := wrap ((base : Int) + sx (b l).1 32) 48
      let rem (l : Nat) : Int := (c.cb : Int) + sx (d l).1 32
      let good := act.filter fun l => !((b l).2 || (d l).2)
      let bad := act.filter fun l => (b l).2 || (d l).2
      ∀ xs : Nat → List Xlat,
      (∀ l ∈ good, loc l % 64 = 0 ∧ rem l % 64 = 0 ∧ 0 ≤ rem l ∧ rem l + len ≤ 2 ^ 40 ∧ s.pagesOf r.part (loc l) len get = .inr (xs l)) →
      s.linkWaits r j good.length = false → s.relWaits (n.opt.toNat / 8 % 4) = false →
      let ms := good.map fun l => { newMsg j (if get then 2 else 0) l (rem l).toNat (loc l) len r.part with xl := xs l }
      s.hurtFits r.part ms = true →
      exec (if get then .lget n else .lput n) s = .next (linkSent
        (s.linkSinks f bad 1 (match bad with | l :: _ => loc l | [] => 0)) f { chan := j, rw := rw, poisoned := !bad.isEmpty }
        (n.opt.toNat / 8 % 4) ms)) ∧
    (let a := act.headD 0
     let b := s.readSel s.cur.pos f n .i32 1 n.b a
     let v (l : Nat) : PVal := s.readSel s.cur.pos f n (if n.ty.isWide then Ty.n64 else Ty.n32) 0 n.a l
     let rem : Int := (c.cb : Int) + sx b.1 32
     let sz := n.ty.slot / 8
     let nw := bit n.imm.toNat 3
     let mask := maskOf f.len fun l => act.contains l && !(v l).2
     let bs := putnPayload n.ty f.len mask ((List.range f.len).map fun l => if bit mask l then (v l).1 % 2 ^ n.ty.width else 0)
     let bad := act.filter fun l => (v l).2
     (n.ty.isWide = true → f.len ≤ 16) → b.2 = false → (nw = false → rem % sz = 0 ∧ 0 ≤ rem ∧ rem + f.len * sz ≤ 2 ^ 40) →
     s.linkWaits r j 1 = false → s.relWaits (n.opt.toNat / 8 % 4) = false →
     exec (.lputn n) s = .next (linkSent (s.linkSinks f bad 3 (s.sinkEdge s.cur.pos f.ctx rw)) f { chan := j, rw := rw, poisoned := !bad.isEmpty } (n.opt.toNat / 8 % 4)
       [{ newMsg j 1 a (wrap rem 40) 0 bs.length r.part with keep := bs }])) ∧
    (let op := bits n.imm.toNat 3 4
     let a (l : Nat) : PVal := s.readSel s.cur.pos f n .i32 0 n.a l
     let b (l : Nat) : PVal := s.readSel s.cur.pos f n (if op = 7 then Ty.n64 else n.ty) 1 n.b l
     let good := act.filter fun l => !((a l).2 || (b l).2)
     let bad := act.filter fun l => (a l).2 || (b l).2
     (op = 7 → f.len ≤ 16) → s.linkWaits r j good.length = false → s.relWaits (n.opt.toNat / 8 % 4) = false →
     let rep := match n.d with | .o o => o.val + 1 | _ => 0
     exec (.latom n) s = .next (linkSent (s.linkSinks f bad 3 (s.sinkEdge s.cur.pos f.ctx (if rw = 0 then rep else rw))) f
       { chan := j, rw := rw, reply := rep, wide := n.ty.isWide, poisoned := !bad.isEmpty,
         bad := maskOf f.len bad.contains } (n.opt.toNat / 8 % 4)
       (good.map fun l => { newMsg j 4 l (wrap ((c.cb : Int) + sx (a l).1 32 * (n.ty.slot / 8 : Nat)) 40) 0 8 r.part with
         aop := op, aty := Ty.code n.ty, keep := toBytes 8 (b l).1 })))

/-- R419: a message that is issued takes the channel's next MSN, and a PUT or PUTN its next DSN; both wrap at 24 bits; it stands among the node's messages
until it is answered, cut into packets of 4096 bytes. No byte of memory changes, where no event waits for its line at a home slice. -/
def Sys2Proof.Claims.MessageNumbers : Prop :=
  ∀ (s : State) (p : Nat) (m : Msg), NoFills s →
    let c := (s.link p).chan m.chan
    let t := s.sendMsg p m
    let d := (t.link p).chan m.chan
    let data : Bool := decide (m.kind = 0 ∨ m.kind = 1)
    d.msn = (c.msn + 1) % 2 ^ 24 ∧ d.dsn = (if data then (c.dsn + 1) % 2 ^ 24 else c.dsn) ∧ t.mem = s.mem ∧
      (t.link p).msgs.map (fun x => (x.chan, x.kind, x.msn, x.dsn, x.rem, x.loc, x.len, x.npk)) =
        (s.link p).msgs.map (fun x => (x.chan, x.kind, x.msn, x.dsn, x.rem, x.loc, x.len, x.npk)) ++
          [(m.chan, m.kind, c.msn, if data then c.dsn else 0, m.rem, m.loc, m.len, ceilDiv m.len 4096)]

/-- R419, R429, R432 to R434: the messages of a link node issue, take their numbers and stand until they are answered. -/
def Obligations.LinkIssues : Prop :=
  Claims.LinkMessages ∧ Claims.MessageNumbers

/-- R418, R429, R431, R435, R436, R437: LFLUSH takes its place behind the channel's messages; LCHAN.OPEN of a closed channel stores its words and numbers from 0, and of the same
words on an open one changes nothing; LCHAN.CLOSE of a closed channel has no effect, and of an open one without messages sends CLOSE and waits for its answer; LCFG binds and unbinds a window; LSTAT gives the counter. -/
def Obligations.LinkControl : Prop :=
  ∀ (n : Niw) (s : State) (f : Firing) (r : Region), LkRuns s f r →
    let p := portOfLink s.cur.pos
    let j := 8 * f.ctx + n.imm.toNat % 8
    let l := s.link p
    let c := l.chan j
    let rw := n.opt.toNat % 8
    let a := (f.active .token).headD 0
    let d := (s.readSel s.cur.pos f n .n64 0 n.a a).1
    let b := (s.readSel s.cur.pos f n .n64 1 n.b a).1
    let w := n.imm.toNat % 256
    let x := s.win w
    let mine := decide (x.bctx = f.ctx ∧ x.bregion = r.id)
    let closing : State := (s.sendClose p (some r.part) j).modSlot s.cur.pos s.cur.slot fun g => { g with part := 1 }
    (c.opened = true → exec (.lflush n) s = .next (linkEnded s f
      { chan := j, rw := rw, place := true, left := (l.msgs.filter fun m => m.chan == j).map (·.id) })) ∧
    (bits d 0 20 = 0 → bits b 40 24 = 0 → b % 64 = 0 → f.part = 0 →
      (c.opened = false → exec (.lchanOpen n) s = .next (linkEnded (s.modChan p j fun c => { c with
        desc := BitVec.ofNat 64 d, base := BitVec.ofNat 64 b, msn := 0, dsn := 0, opened := true }) f { chan := j, rw := rw })) ∧
      (c.opened = true → c.closing = false → c.desc.toNat = d → c.base.toNat = b →
        exec (.lchanOpen n) s = .next (linkEnded s f { chan := j, rw := rw })) ∧
      (c.opened = true → c.closing = false → ¬ (c.desc.toNat = d ∧ c.base.toNat = b) → l.outs j = 0 →
        exec (.lchanOpen n) s = .next closing)) ∧
    (c.opened = false → exec (.lchanClose n) s = .next (linkEnded s f { chan := j, rw := rw })) ∧
    (c.opened = true → c.closing = false → f.part = 0 → l.outs j = 0 → exec (.lchanClose n) s = .next closing) ∧
    (x.en = true → x.part = r.part → x.port = p → (x.bound = true → mine = true) → 5 ≤ (r.frame f.frame).s →
      exec (.lcfgBind n) s = .next (linkEnded (((if x.bound then s.unbind w else s).tcntAdd r.id f.frame 1).modWin w fun x => { x with
        bound := true, bctx := f.ctx, bport := bits n.imm.toNat 8 2, bframe := f.frame, bregion := r.id }) f { chan := 64, rw := rw })) ∧
    exec (.lcfgUnbind n) s = .next (linkEnded (if x.bound && decide (x.bctx = f.ctx ∧ x.bregion = r.id ∧ x.port = p) then s.unbind w else s)
      f { chan := 64, rw := rw }) ∧
    (Room s f n false → Ends (.lstat n) s f n false ((f.active n.pred).map fun k =>
      (k, { v := s.linkStat p j f.ctx (n.opt.toNat / 8), psn := false })))

namespace Sys2Proof.Claims

/-- A packet arrives: it stands at the step's place, and no earlier one is of its flow (R413). `x` is the packet with its node, and `t` the state
without it. -/
def Arrives (s : State) (x : PktIn) (t : State) : Prop :=
  s.packets[s.cur.place]? = some x ∧
    (∀ o ∈ s.packets.take s.cur.place, o.port = x.port → s.flow o.pkt.hdr ≠ s.flow x.pkt.hdr) ∧
    t = { s with packets := dropNth s.packets s.cur.place }

/-- A request passes the checks of its window (R420): the state with its record, the message that it belongs to, its window. -/
def Passes (s : State) (x : PktIn) (t : State) (m : RxMsg) : Prop :=
  ∃ u, Arrives s x u ∧ ((u.rreqSeen x.port x.pkt.hdr).ownPacket x.pkt.hdr).rxOpen x.port x.pkt.hdr = some (t, m) ∧ m.done = false ∧ x.pkt.hdr.trim = false ∧
    let w := t.win x.pkt.hdr.win.toNat
    w.en = true ∧ w.rkey = x.pkt.hdr.rkey.toNat ∧ x.pkt.hdr.off.toNat + x.pkt.hdr.len.toNat ≤ w.len

/-- An answer belongs to a message that this device has outstanding (R421). -/
def Answers (s : State) (x : PktIn) (t : State) (m : Msg) : Prop :=
  ∃ u, Arrives s x u ∧ (u.link x.port).msgOf x.pkt.hdr = some m ∧
    t = (u.modMsg x.port m.id fun m => { m with last := u.cyc }).progress m.region

end Sys2Proof.Claims

/-- R420, R421, R427, R432, R434: a request that passes its window's checks completes at the holder: PUT writes its bytes and PUTN its elements, GETQ reads and returns them, ATOMQ performs
its operation, behind the event that waits for its line's fill (that it goes first is the model's choice, log 83), and returns the old value; whether a PUTN that arrives writes
its elements is a free value where nothing in the packet says it (log 12). LINK_CLOSE is answered at once when there is no record, and closes the record otherwise. -/
def Obligations.RequestsPerformed : Prop :=
  (∀ (s t : State) (x : PktIn) (m : RxMsg), Passes s x t m →
    let h := x.pkt.hdr
    let w := t.win h.win.toNat
    (∀ u, h.kind.toNat ≠ 1 → t.winWrite w.part (linePieces (w.gbase + h.off.toNat) h.len.toNat) x.pkt.data = (u, none) →
      exec .pkPut s = .next (u.rxWritten x.port h true)) ∧
    (∀ u, h.kind.toNat = 1 → w.arrivals.length < arrivalMax →
      (h.ord = true → (match (u.link x.port).recOf h with | some c => c.next | none => 0) = m.dsn) →
      let e := arrivalOf x.pkt.data
      (if nwOf h then [] else e.writes).foldl (fun (acc : State × Option (Nat × Nat)) y =>
        match acc with
        | (s, some f) => (s, some f)
        | (s, none) => s.winWrite w.part (linePieces (w.gbase + h.off.toNat + y.1) y.2.length) y.2) (t, none) = (u, none) →
      exec .pkPutn s = .next (u.enterArrival x.port h h.win.toNat e)) ∧
    (∀ u, h.kind.toNat ≠ 1 → t.winHurt w.part (w.gbase + h.off.toNat) h.len.toNat = none → t.sendGetr x.port h 0 = .inr u → exec .pkGetq s = .next (u.rxWritten x.port h false)) ∧
    (let ty := Ty.ofCode h.aty.toNat
     let va := (w.gbase + h.off.toNat) % 2 ^ 48
     let e := t.walk w.part va
     let op := latomOpc h.aop.toNat
     let v := ofBytes (x.pkt.data.take 8)
     let g := t.lineReady (lineOf (e.pa va))
     let old := Memory.value g.mem (e.pa va) (ty.slot / 8)
     let new := atomStep { ty := ty, rm := .rne, sat := false, fz := false, draw := 0 } op old
       (if op = 0xda then v % 2 ^ 32 else v % 2 ^ ty.width) (if op = 0xda then v / 2 ^ 32 else 0)
     h.kind.toNat = 4 → e.fault t.dev true true va = none → t.badLines.contains (lineOf (e.pa va)) = false →
     exec .pkAtomq s = .next (((g.writeEvent (some w.part) (lineOf (e.pa va)) e.dev (g.dev.inTier (e.pa va)) true true
       (cellsAt (e.pa va) (toBytes (ty.slot / 8) new.1))).1.sendPkt x.port none
         { hdr := { answer h 5 with len := 16, aty := h.aty, xtag := h.xtag }, data := toBytes 8 old ++ toBytes 8 new.2 }).rxWritten x.port h false))) ∧
  ∀ (s t : State) (x : PktIn), Arrives s x t →
    ((t.link x.port).recOf x.pkt.hdr = none →
      exec .pkLinkClose s = .next (t.sendPkt x.port none { hdr := answer x.pkt.hdr 10, data := [] })) ∧
    ((t.link x.port).recOf x.pkt.hdr ≠ none →
      exec .pkLinkClose s = .next ((t.modRec x.port x.pkt.hdr fun r => { r with closing := some x.pkt.hdr }).rxClose x.port x.pkt.hdr))

/-- R421, R422, R423, R424, R431: an answer to a message that is outstanding completes at its sender: GETR writes its bytes, ATOMR gives the lane's old value, ACK ends the message, NACK
ends it as failed, an RREQ forms the packet again; a trimmed GETR queues its re-request; CLOSEACK closes its channel, and a context that its block has left is kept while another of its channels is
open or being closed. A GETR's line whose page is gone poisons the operation: the model's choice (log 96). -/
def Obligations.AnswersComplete : Prop :=
  (∀ (s t : State) (x : PktIn) (m : Msg), Answers s x t m →
    let h := x.pkt.hdr
    let p := x.port
    let reg (i : FaultInfo) : State → State := fun u => match u.region m.region with | some r => u.postFor r .nothing i | none => u
    (h.kind.toNat = 6 → exec .pkAck s = .next (t.msgDone p m false false)) ∧
    (h.kind.toNat = 5 → exec .pkAtomr s = .next ((t.modLinkOp p m.op fun o => { o with
      vals := o.vals ++ [(m.lane, BitVec.ofNat 64 (ofBytes (x.pkt.data.take 8)))],
      flags := if m.aop = 8 then o.flags ||| (x.pkt.data.getD 8 0).toNat % 128 else o.flags }).msgDone p m false false)) ∧
    ((∀ r, t.region m.region = some r → t.canPost r.part = true) → h.aop.toNat ≠ 6 →
      exec .pkNack s = .next ((reg { t.msgInfo p m (if h.aop.toNat = 4 then Cause.xlate else Cause.access) (m.lane + 256 * (16 + h.aop.toNat)) with
        auxv := m.ddev * 2 ^ 46 + m.win * 2 ^ 38 + h.off.toNat % 2 ^ 38 } t).msgDone p m true false)) ∧
    (m.kind = 0 ∨ m.kind = 1 → t.hurtFits m.part [m] = true → ∀ u, Arrives s x u → u.rreqOfPut h = true →
      exec .pkRreq s = .next (((t.modLink p LinkNode.resent).modChan p m.chan fun c =>
        { c with trims := satAdd 16 c.trims 1, retx := satAdd 16 c.retx 1 }).sendPacket p m h.pidx.toNat h.trims.toNat))) ∧
  (∀ (s u : State) (x : PktIn) (m : Msg), Arrives s x u → x.pkt.hdr.kind.toNat = 3 → (u.link x.port).msgOf x.pkt.hdr = some m →
    let h := x.pkt.hdr
    let heard (v : State) : State := (((v.rreqSeen x.port h).modMsg x.port m.id fun m => { m with last := v.cyc }).progress m.region)
    let t := heard u
    (let got := if m.got.contains h.pidx.toNat then m.got else m.got ++ [h.pidx.toNat]
     let z := t.msgWrite m (linePieces (m.loc + 4096 * h.pidx.toNat) x.pkt.data.length) x.pkt.data
     let w := (if z.2 then z.1.modLinkOp x.port m.op fun o => { o with poisoned := true } else z.1).modMsg x.port m.id fun y => { y with got := got }
     exec .pkGetr s = .next (if m.npk ≤ got.length then w.msgDone x.port { m with got := got } false false else w)) ∧
    (h.trims.toNat + 1 ≠ 8 →
      let v := heard (u.modLink x.port fun l => { l with trimRx := satAdd 64 l.trimRx 1 })
      exec .pkTrimmedHeader s = .next ((v.modChan x.port m.chan fun c => { c with trims := satAdd 16 c.trims 1 }).modLink x.port
        fun l => { l with rreqs := l.rreqs ++ [{ hdr := h, t := h.trims.toNat + 1, eligible := v.cyc + v.dev.pace (h.trims.toNat + 1), sent := false }] }))) ∧
  ∀ (s t : State) (x : PktIn), Arrives s x t →
    let j := x.pkt.hdr.chan.toNat
    ((t.link x.port).chan j).closing = true →
    ∃ u, exec .pkCloseack s = .next u ∧ ((u.link x.port).chan j).opened = false ∧ ((u.link x.port).chan j).closing = false ∧
      u.mem = s.mem ∧ (∀ k, k ≠ j → (u.link x.port).chan k = (s.link x.port).chan k) ∧
      ∀ k, k ∈ (u.link x.port).leaving ↔ k ∈ (s.link x.port).leaving ∧ (k.1 = j / 8 → ∃ i, i < 8 ∧
        (((u.link x.port).chan (8 * k.1 + i)).opened = true ∨ ((u.link x.port).chan (8 * k.1 + i)).closing = true))

/-! ## Region Sequencer, queues, strobes -/

namespace Sys2Proof.Claims

/-- The control stream of the step's region executes. -/
def Control (s : State) (r : Region) : Prop := s.region s.cur.region = some r

/-- A control command is complete: the stream goes on at `cc` (R104). -/
def controlGoes (r : Region) (cc : Nat) (q : Region) : Prop := q.cc = cc ∧ q.stat = 2 ∧ q.id = r.id

/-- The command at the step's queue may start (R124, R491): the queue holds it, its partition runs, and the notify register that it names is owned, which is
asked only of a command with CEN = 1 (the model's reading of R124, log 44). -/
def Starts (s : State) (c : Cmd) : Prop :=
  (s.queue s.cur.queue).fifo ≠ [] ∧ s.partRuns (s.queue s.cur.queue).owner = true ∧
    (c.cen = true → s.ownsNfy (s.queue s.cur.queue).owner c.cnfy.toNat = true)

/-- The command has left its queue's FIFO as the last of the started commands, done or not (R122). -/
def begun (s : State) (c : Cmd) (code : Nat) (done : Bool) : State :=
  s.modQueue s.cur.queue fun x => { x with
    fifo := x.fifo.drop 1, nextEntry := x.nextEntry + 1,
    started := x.started ++ [{ entry := x.nextEntry, cmd := code, cen := c.cen, cnfy := c.cnfy.toNat, cval := c.cval,
                               done := done, lid := c.lid.toNat }] }

/-- A strobe arrives: it stands at the step's place with the argument `a`, and no earlier one has its source and destination (R33); `t` is the state
without it. -/
def Strobes (s : State) (m : Strobe) (a : Nat) (t : State) : Prop :=
  s.strobes[s.cur.place]? = some m ∧ (∃ w : BitVec 48, s.cur.arg = .strobe w ∧ a = w.toNat) ∧
    (∀ o ∈ s.strobes.take s.cur.place, ¬ (o.src = m.src ∧ o.dst = m.dst)) ∧ t = { s with strobes := dropNth s.strobes s.cur.place }

end Sys2Proof.Claims

/-- R104, R106, R107, R108, R110: CFG of a resident block completes, of another loads it first, and waits while it drains; RUN loads its block, waits for its
counter, asks the Mint for a frame, and with the frame completes; SCHED and LOOP complete. The stream goes on at the next command or at LOOP's target. RUN's
counter is active from 0 with the frame, and one START strobe leaves for each node with a source (one a node and not one a source: the
model's reading, log 41). -/
def Sys2Proof.Claims.ControlRuns : Prop :=
  ∀ (s : State) (r : Region), Control s r →
    (∀ b : BitVec 6, (r.blk b.toNat).resident = true → (r.blk b.toNat).draining = false →
      exec (.seqCfg b) s = .next (s.ctlNext r) ∧
      ∀ (k : BitVec 2) (n : Half), ((r.ics.getD k.toNat {}).act = true → exec (.seqRun b k n) s = .next s) ∧
        ((r.ics.getD k.toNat {}).act = false → r.granted = none → r.requests = [] →
          exec (.seqRun b k n) s = .next (s.modRegion r.id fun q => { q with requests := q.requests ++ [.run k.toNat b.toNat] }))) ∧
    (∀ (b : BitVec 6) (k : BitVec 2) (n : Half),
      ((r.blk b.toNat).resident = true → (r.blk b.toNat).draining = true →
        exec (.seqCfg b) s = .next s ∧ exec (.seqRun b k n) s = .next s) ∧
      ((r.blk b.toNat).resident = false →
        (∀ t, s.loadBlock r b.toNat = .loaded t → exec (.seqCfg b) s = .next (t.ctlNext r) ∧ exec (.seqRun b k n) s = .next t) ∧
        (s.loadBlock r b.toNat = .wait → exec (.seqCfg b) s = .next s ∧ exec (.seqRun b k n) s = .next s))) ∧
    (∀ b : BitVec 6, (r.blk b.toNat).resident = true → (r.blk b.toNat).draining = false →
      ∀ (k : BitVec 2) (n : Half) (g f : Nat), (r.ics.getD k.toNat {}).act = false → r.granted = some (g, f) → r.ics.length = 4 →
        ∃ t q, exec (.seqRun b k n) s = .next t ∧ t.region r.id = some q ∧ controlGoes r (r.cc + 1) q ∧ q.granted = none ∧
          q.ics.getD k.toNat {} = { act := true, frame := f, blk := b.toNat, limit := n.toNat, count := 0,
                                    left := (s.sourcesOf r b.toNat k.toNat).length } ∧
          t.mem = s.mem ∧ t.strobes.map (fun m => (m.src, m.dst)) = s.strobes.map (fun m => (m.src, m.dst)) ++
            (s.sourcesOf r b.toNat k.toNat).eraseDups.map fun c => (Peer.anchor r.id, Peer.node c)) ∧
    (∀ (b : BitVec 6) (m : BitVec 5), ∃ t q, exec (.seqSched b m) s = .next t ∧ t.region r.id = some q ∧ controlGoes r (r.cc + 1) q ∧
      q.sched = some (b.toNat, m.toNat + 1) ∧ ∀ i, i < m.toNat + 1 → (q.blk (b.toNat + i)).pass = 0) ∧
    ∀ (k : BitVec 2) (n target : BitVec 16), r.trips.length = 4 →
      let i := (r.trips.getD k.toNat 0 + 1) % 2 ^ 16
      ∃ t q, exec (.seqLoop k n target) s = .next t ∧ t.region r.id = some q ∧
        (i < n.toNat → controlGoes r target.toNat q ∧ q.trips.getD k.toNat 0 = i) ∧
        (n.toNat ≤ i → controlGoes r (r.cc + 1) q ∧ q.trips.getD k.toNat 0 = 0)

/-- R103, R111, R113: the WAITS commands complete when their condition holds, WAITS.TOK consumes its count, and otherwise the stream waits, with its condition's code;
NOTIFY adds to its register, whose value stays at 2 to the 64 minus 1 rather than decrease (DESIGN CHOICE, log 71), and goes on. -/
def Obligations.ControlWaits : Prop :=
  ∀ (s : State) (r : Region) (v : Half), Control s r →
    let waits (code : Nat) (i : Instr) : Prop := exec i s = .next (s.modRegion r.id fun q => { q with stat := 3, wcond := code })
    ((r.blk v.toNat).resident = false → exec (.waitsBlk v) s = .next (s.ctlNext r)) ∧
    ((r.blk v.toNat).resident = true → waits 0 (.waitsBlk v)) ∧
    ((r.ics.getD v.toNat {}).act = false → exec (.waitsIc v) s = .next (s.ctlNext r)) ∧
    ((r.ics.getD v.toNat {}).act = true → waits 1 (.waitsIc v)) ∧
    (v.toNat ≤ r.tokc → ∃ t q, exec (.waitsTok v) s = .next t ∧ t.region r.id = some q ∧ controlGoes r (r.cc + 1) q ∧ q.tokc = r.tokc - v.toNat) ∧
    (r.tokc < v.toNat → waits 3 (.waitsTok v)) ∧
    (s.quiescent r = true → exec .waitsQuiet s = .next (s.ctlNext r)) ∧
    (s.quiescent r = false → waits 2 .waitsQuiet) ∧
    ∀ k : BitVec 8, let sum : Word := BitVec.ofNat 64 (min ((s.nfy k.toNat).value.toNat + v.toNat) (2 ^ 64 - 1))
      ∃ t, exec (.seqNotify k v) s = .next t ∧ t = (s.nfySet k.toNat sum).ctlNext r ∧ (t.nfy k.toNat).value = sum

/-- R114, R116: SLOT records its value in the slot table's entries of its block and number; where no node of the block reads it, it goes on at once; else every
context that reads it gets the value, and SLOT waits until no node of the block has still to acknowledge. HALT stops the scheduler; it waits while a counter is
active, a resident block armed or a link message of the region under way, and then frees the blocks left and releases the region (that it waits for nothing
else that is under way is the model's reading, log 36). -/
def Sys2Proof.Claims.ControlSlotAndHalt : Prop :=
  ∀ (s : State) (r : Region), Control s r →
    (∀ (b : BitVec 6) (k : BitVec 3) (v : Half), r.slotSent = false →
      (∀ c ∈ r.allNodes, ∀ x ∈ (s.node c).ctxs, x.ofBlock r.id b.toNat = true → x.slotm k.toNat = false) →
      ∃ t q, exec (.seqSlot b k v) s = .next t ∧ t.region r.id = some q ∧ controlGoes r (r.cc + 1) q ∧
        q.slotVals = r.slotTab.zipIdx.map fun e =>
          if bits e.1.1.toNat 58 6 = b.toNat ∧ bits e.1.1.toNat 40 3 = k.toNat then v.toNat else r.slotVals.getD e.2 0) ∧
    (∀ (b : BitVec 6) (k : BitVec 3) (v : Half), r.slotSent = false →
      let reads (x : Ctx) : Bool := x.slotm k.toNat && x.ofBlock r.id b.toNat
      let nodes := r.allNodes.filter fun c => (s.node c).ctxs.any reads
      let given (x : Ctx) : Ctx := if reads x then { x with patch := x.patch ++ [(k.toNat, v.setWidth 64)] } else x
      let value (q : Region) (e : (Word × Word) × Nat) : Nat :=
        if bits e.1.1.toNat 58 6 = b.toNat ∧ bits e.1.1.toNat 40 3 = k.toNat then v.toNat else q.slotVals.getD e.2 0
      let named : State := s.modRegion r.id fun q => { q with slotVals := q.slotTab.zipIdx.map (value q) }
      nodes ≠ [] → exec (.seqSlot b k v) s =
        .next ((nodes.foldl (fun s c => s.modNode c fun n => { n with ctxs := n.ctxs.map given }) named).modRegion
          r.id fun q => { q.modBlk b.toNat fun x => { x with patching := nodes } with slotSent := true })) ∧
    (∀ (b : BitVec 6) (k : BitVec 3) (v : Half), r.slotSent = true → (r.blk b.toNat).patching ≠ [] →
      exec (.seqSlot b k v) s = .next s) ∧
    (∀ (b : BitVec 6) (k : BitVec 3) (v : Half), r.slotSent = true → (r.blk b.toNat).patching = [] →
      exec (.seqSlot b k v) s = .next ((s.modRegion r.id fun q => { q with slotSent := false }).ctlNext r)) ∧
    (let h : State := s.modRegion r.id fun q => { q with sched := none, stat := 5 }
     ((r.ics.any (·.act) || (r.residents.any fun b => h.armed r b) || h.linkBusy r) = true → exec .seqHalt s = .next h) ∧
     ((r.ics.any (·.act) || (r.residents.any fun b => h.armed r b) || h.linkBusy r) = false →
       exec .seqHalt s = .next ((r.residents.foldl (fun s b => match s.region r.id with | some q => s.freeBlock q b | none => s) h).endLaunch r)))

/-- R104, R106 to R108, R110, R114, R116: CFG, RUN, SCHED, LOOP, SLOT and HALT. -/
def Obligations.ControlCommands : Prop :=
  Claims.ControlRuns ∧ Claims.ControlSlotAndHalt

/-- R101, R122, R123, R124, R453, R460, R466, R492: the queue commands start. WAIT when its register has reached the value, SIGNAL, whose CEN is 1, at once, BARRIER when every earlier command is done, and are
done; LAUNCH and RESTORE put their request before the allocator; SNAPSHOT and ABORT start on a launch that runs, and RESUME and DISCARD answer an open record, at once or, in a region under a
cut, when the cut has ended. That CNFY must be owned only with CEN = 1 is the model's reading (log 44). -/
def Obligations.QueueCommands : Prop :=
  ∀ (s : State) (c : Cmd), Starts s c →
    let q := s.cur.queue
    let part := (s.queue q).owner
    (s.ownsNfy part (c.w2.toNat % 256) = true → ¬ (s.nfy (c.w2.toNat % 256)).value < c.w3 → exec (.cmdWait c) s = .next (begun s c 2 true)) ∧
    (c.cen = true → exec (.cmdSignal c) s = .next (begun s c 3 true)) ∧
    ((s.queue q).started.all (·.done) = true → exec (.cmdBarrier c) s = .next (begun s c 4 true)) ∧
    (s.asked q = false → s.launchOf part c.lid.toNat = none →
      (∀ t r, s.readObject (s.newLaunch c q part) = .inr (t, r) →
        exec (.cmdLaunch c) s = .next { t with regions := t.regions ++ [r], nextRegion := t.nextRegion + 1 }) ∧
      (∀ t r, s.restoreRequest c q part = .inr (t, r) →
        exec (.cmdRestore c) s = .next { t with regions := t.regions ++ [r], nextRegion := t.nextRegion + 1 })) ∧
    (∀ r, s.launchOf part c.lid.toNat = some r →
      (r.waiting = false → exec (.cmdAbort c) s = .next ((begun s c 9 false).abort r)) ∧
      (r.waiting = true → exec (.cmdAbort c) s = .next (begun (s.cancelWaiting r) c 9 true)) ∧
      (let sn : Snap := { queue := q, entry := (s.queue q).nextEntry, region := r.id, save := c.w2.toNat % 2 ^ 48, saveLen := c.w3.toNat }
       exec (.cmdSnapshot c) s = .next (({ begun s c 5 false with snaps := s.snaps ++ [sn] } : State).advanceSnap sn))) ∧
    (∀ o r, s.openRec part c.w2.toNat = some o → s.region o.region = some r → r.aborting = false →
      let held (code : Nat) (discard : Bool) : State := { begun s c code false with heldAnswers := s.heldAnswers ++
        [{ queue := q, entry := (s.queue q).nextEntry, region := r.id, discard := discard, cmd := c }] }
      let taken (code : Nat) (discard : Bool) (t : State) : Prop :=
        r.cut = none → (begun s c code false).takeAnswer q (s.queue q).nextEntry part discard c = some t
      (resumeOk c = true → s.accepts o c.w3.toNat = true →
        ∃ t, taken 7 false t ∧ exec (.cmdResume c) s = .next (if r.cut.isSome then held 7 false else t)) ∧
      ((match o.hold with | .firing | .trap | .piece _ _ | .matrix _ _ | .pushb _ => true | _ => false) = true →
        ∃ t, taken 8 true t ∧ exec (.cmdDiscard c) s = .next (if r.cut.isSome then held 8 true else t)))

/-- R33, R107, R117, R118: the strobes of counters and of teardown act where they arrive, in send order from each source: START begins the sources of its counter,
FINISH ends one; DRAINED and REOPEN change who has drained; CLOSE shuts the words into the block, waits while a token is on its way into it, and then sends the
replies that the node owes; OPEN opens the words; COUNT adds a node's reply. Each is gone once it has acted. -/
def Sys2Proof.Claims.TeardownStrobes : Prop :=
  ∀ (s t : State) (m : Strobe) (a : Nat), Strobes s m a t →
    let b := bits a 42 6
    (∀ c r, m.dst = .node c → t.region m.region = some r →
      let src : Machine.Source := { ic := bits a 46 2, frame := bits a 36 10, count := bits a 23 13, next := 0, closing := false }
      let start (x : Ctx) : Ctx :=
        if x.mode == 3 && x.csel == bits a 46 2 && x.ofBlock r.id (r.ic (bits a 46 2)).blk then { x with source := some src, armed := true }
        else x
      (exec .skStart s = .next (t.modNode c fun n => { n with ctxs := n.ctxs.map start })) ∧
      (s.wireInto r.id b = true → exec .skClose s = .next (s.setClosed c r.id b true)) ∧
      (s.wireInto r.id b = false →
        let u := t.setClosed c r.id b true
        let n := u.node c
        let still := n.ctxs.any fun x => x.ofBlock r.id b && x.drained
        let reply (u : State) (taken : Bool) (v : Nat) : State := if (r.blk b).awaiting.contains (c, taken) then
          u.sendStrobe (.node c) (.anchor r.id) r.id 8 [(32, v), (1, b2n taken), (1, b2n (taken && still)), (8, 0), (6, b)] else u
        exec .skClose s = .next (reply (reply u false (n.counts.get (0, 0) (r.id, b)).1) true (n.counts.get (0, 0) (r.id, b)).2)) ∧
      exec .skOpen s = .next (t.setClosed c m.region b false)) ∧
    (exec .skFinish s = .next (t.modRegion m.region fun r =>
      let i := r.ic (bits a 46 2)
      let j : Counter := if i.left ≤ 1 then { i with left := 0, act := false, count := i.limit } else { i with left := i.left - 1 }
      { r with ics := setNth r.ics (bits a 46 2) j })) ∧
    (∀ c, Strobe.from? m = some c →
      exec .skDrained s = .next ((t.modBlk m.region b fun x => { x with draining := true, drainedBy := (x.drainedBy ++ [c]).eraseDups }).tryClose
        m.region b) ∧
      exec .skReopen s = .next (t.modBlk m.region b fun x => { x with drainedBy := x.drainedBy.filter (· != c), allStill := false }) ∧
      exec .skCount s = .next ((t.modBlk m.region b fun x => { x with
        awaiting := x.awaiting.filter fun y => !decide (y = (c, bit a 32)),
        sentSum := if bit a 32 then x.sentSum else x.sentSum + bits a 0 32,
        takenSum := if bit a 32 then x.takenSum + bits a 0 32 else x.takenSum,
        allStill := x.allStill && (!bit a 32 || bit a 33) }).endClose m.region b))

/-- R399, R444, R451, R461: PARK marks the frame in its cluster and withdraws its tokens there, READMIT ends the mark and lets images and tokens go ahead, RETIRE
takes the iterations of its batch out of service (the batch's number in the strobe is the model's, log 77), CUT stops a node, stands at it until what it issued is performed and then sends its notices, and has no effect
in a region without a cut; NOTICE tells a node what left on an edge, and one that names no edge has no effect. -/
def Sys2Proof.Claims.NoticeStrobes : Prop :=
  ∀ (s t : State) (m : Strobe) (a : Nat), Strobes s m a t →
    let f := bits a 38 10
    (∀ g, m.dst = .cluster g →
      exec .skPark s = .next ((t.modCluster g fun c => { c with parkSeen := (c.parkSeen ++ [(m.region, f)]).eraseDups }).withdrawAll g m.region f) ∧
      exec .skReadmit s = .next ((((t.modCluster g fun c => { c with parkSeen := c.parkSeen.filter (· != (m.region, f)) }).resumeSlots m.region f
        fun c => clusterOf c == g).readmitTokens g m.region f).settleAnswers)) ∧
    (∀ c, m.dst = .node c →
      exec .skRetire s = .next (t.modTill c fun x => { x with sources := x.sources.map fun p => (p.1, { p.2 with
        batches := p.2.batches.map fun b => if b.frame == a / 2 ^ 38 && b.id == m.batch then { b with retired := b.retired ||| a % 2 ^ 32 } else b }) }) ∧
      (∀ r, t.region m.region = some r → r.cut = none → exec .skCut s = .next t) ∧
      (∀ r, t.region m.region = some r → r.cut ≠ none →
        ((s.cutHere r c).cutReady r c = true → exec .skCut s = .next ((t.cutHere r c).sendNotices r c)) ∧
        ((s.cutHere r c).cutReady r c = false → exec .skCut s = .next (s.cutHere r c))) ∧
      (∀ r d e, t.region m.region = some r → Strobe.from? m = some d →
        ((t.outEdges r d).find? fun e => e.1.edge == bits a 35 13 && e.2.1 == c && e.1.ctx == bits a 32 3 && e.2.2 == bits a 0 32) = some e →
        exec .skNotice s = .next (t.modCtx c (bits a 32 3) fun x => { x with notices := x.notices ++ [(e.1.port, bits a 0 32)] })) ∧
      ∀ r d, t.region m.region = some r → Strobe.from? m = some d →
        ((t.outEdges r d).find? fun e => e.1.edge == bits a 35 13 && e.2.1 == c && e.1.ctx == bits a 32 3 && e.2.2 == bits a 0 32) = none →
        exec .skNotice s = .next t)

/-- R33, R107, R117, R118, R399, R444, R451, R461: the strobes act where they arrive. -/
def Obligations.Strobes : Prop :=
  Claims.TeardownStrobes ∧ Claims.NoticeStrobes

/-! ## Tokens, markers, counters, frames -/

namespace Sys2Proof.Claims

/-- The step's event has the operands `e` (log 2). -/
def At (s : State) (e : Ev) : Prop := s.cur.arg = .ev e

/-- The token at place `e.i` of the network is `w`, the first of its edge there (R35), and its store takes it (R141). -/
def Lands (s : State) (e : Ev) (w : Wire) : Prop :=
  At s e ∧ s.arriving e.i.toNat = some w ∧ s.storeShut w.tok = false

end Sys2Proof.Claims

/-- R111, R112, R132 to R135, R138, R140, R256, R306, R444, R461: what an arriving token becomes. Each leaves the network with its cluster's next arrival number,
and is withdrawn where its frame has parked, or kept for after the cut in one. Else a value or receipt takes its scales and is matched: in streaming mode
its firing is admitted, in exact mode it waits while a partner is missing and is admitted with its partners when none is, and in run-overlap mode it waits
while no iteration is covered on every port, and otherwise the interval from the first such is admitted, the waiting pieces' leftovers are placed and its own
arrive again; a marker waits in the store; a scale token of a Matrix Node fills the latch of its
context, and any other is held in a shared buffer, or takes the place of an earlier one of its tag. Its edge is relieved when it has no free Chit. The
Sequencer counts a token on its port.
The words and the operands of events are the model's own (DESIGN CHOICE, log 2), and so are the one count of arrivals in a cluster (log 68), the pieces that are
searched, the Vault's among them in order of arrival and none in a Chit (log 67), several leftovers in the overflow register (log 66), scale 127 under an inactive lane of the
attached scale token, and a scale token that is taken from its Chit (log 97), and a latch byte that keeps its value under an inactive lane (log 99). -/
def Obligations.TokensArrive : Prop :=
  ∀ (s : State) (e : Ev) (w : Wire), Lands s e w →
    let c := w.tok.dst
    let st := storeOf c
    let k := w.tok.ctx
    let a := s.landed e.i.toNat w
    let kept (v : State) : State := if a.1.parkSeen (clusterOf c) w.region w.tok.frame then a.1.withdraw w.region st a.2
      else if a.1.cutAt c k then a.1.modStore st fun t => { t with pend := t.pend ++ [a.2] }
      else v.relieve w.region c k w.tok.port
    a.1.wire = dropNth s.wire e.i.toNat ∧ a.2.tok = w.tok ∧ a.2.arr = (s.cluster (clusterOf c)).nextArr ∧
    (isSeqPort c w.tok.port = false → w.tok.kind = .value ∨ w.tok.kind = .receipt →
      let b := a.1.attach a.2
      exec .evTokenAccept s = .next (kept (b.1.arrive w.region st b.2)) ∧
      (a.1.parkSeen (clusterOf c) w.region w.tok.frame = false → a.1.cutAt c k = false →
        ((b.1.ctx c k).mode = 0 → (∃ q ∈ (b.1.ctx c k).reqPorts, q ≠ w.tok.port ∧
            ∀ p ∈ b.1.candidates st c k w.tok.frame q, p.tok.iter ≠ w.tok.iter) →
          b.1.arrive w.region st b.2 = b.1.place w.region st b.2) ∧
        (∀ others : List Piece, (b.1.ctx c k).mode = 0 →
          ((b.1.ctx c k).reqPorts.filter (· != w.tok.port)).map (fun q =>
            (b.1.candidates st c k w.tok.frame q).find? fun p => p.tok.iter == w.tok.iter) = others.map some →
          let all := sortBy (fun x y => decide (x.tok.port ≤ y.tok.port)) (b.2 :: others)
          let lead := (all.headD b.2).tok
          let ps := all.map fun p => portExact p lead.len
          let binds (i : PortIn) : Bool := !(all.any fun p => p.tok.port == i.port && p.tok.len == 1 && p.tok.port != lead.port)
          b.1.arrive w.region st b.2 = (others.foldl (fun s p => s.take st p) b.1).admitFiring c k w.tok.frame w.tok.iter lead.len
            (tokenMask (b.1.ctx c k).sequence ps binds lead.len) ps) ∧
        ((b.1.ctx c k).mode = 1 →
          let others := (b.1.ctx c k).reqPorts.filter (· != w.tok.port)
          let covers (i : Nat) (p : Piece) : Bool := decide (p.tok.iter ≤ i ∧ i < p.tok.iter + p.tok.len)
          let chosen (i : Nat) : List (Option Piece) := others.map fun q => (b.1.candidates st c k w.tok.frame q).find? (covers i)
          ((∀ i, w.tok.iter ≤ i → i < w.tok.iter + w.tok.len → none ∈ chosen i) → b.1.arrive w.region st b.2 = b.1.place w.region st b.2) ∧
          ∀ (i : Nat) (qs : List Piece), w.tok.iter ≤ i → i < w.tok.iter + w.tok.len → (∀ j, w.tok.iter ≤ j → j < i → none ∈ chosen j) →
            chosen i = qs.map some →
            let n := qs.foldl (fun z q => min z (q.tok.iter + q.tok.len)) (w.tok.iter + w.tok.len) - i
            let ps := sortBy (fun x y => decide (x.port ≤ y.port)) ((b.2 :: qs).map fun q => portOverlap q i n)
            let u := (qs.foldl (fun s q => s.take st q) b.1).admitFiring c k w.tok.frame i n
              (tokenMask (b.1.ctx c k).sequence ps (fun _ => true) n) ps
            let mine := leftovers b.2 i n
            let v := u.tcntAdd w.region w.tok.frame ((qs.flatMap fun q => leftovers q i n).length + mine.length)
            let z := qs.foldl (fun s q => s.placeLeftovers w.region st (leftovers q i n)) v
            b.1.arrive w.region st b.2 = mine.zipIdx.foldl (fun s q => s.arriveOverlap w.region st (q.2 == 0) 31 q.1) z) ∧
        ((b.1.ctx c k).mode = 2 → let ps := [portOverlap b.2 w.tok.iter w.tok.len]
          b.1.arrive w.region st b.2 = b.1.admitFiring c k w.tok.frame w.tok.iter w.tok.len
            (tokenMask (b.1.ctx c k).sequence ps (fun _ => true) w.tok.len) ps))) ∧
    (isSeqPort c w.tok.port = false → w.tok.kind = .marker →
      exec .evMarkerArrival s = .next (kept (a.1.place w.region st a.2))) ∧
    (isSeqPort c w.tok.port = false → w.tok.kind = .scale →
      let gone (t : State) : State := kept (t.leaveBuf c k w.tok.port a.2.arr a.2.buf)
      let held : HeldScale := { tok := w.tok, arr := a.2.arr }
      (kindOf c = .mn →
        let m := a.1.matrices.get {} c
        let v := [0, 1, 2, 3].foldl (fun v l => if bit w.tok.mask l then setBits v (8 * l) 8 (w.tok.lanes.getD l 0).toNat else v) (m.latch.getD k 0)
        exec .evScaleTokenArrival s = .next (gone (({ a.1 with matrices := a.1.matrices.set c { m with latch := setNth m.latch k v } } :
          State).tcntSub w.region w.tok.frame 1))) ∧
      (kindOf c ≠ .mn → ((a.1.store st).scales.findIdx? fun h => h.into.isNone && sameTag h.tok w.tok) = none → a.1.sharedFree c = true →
        exec .evScaleTokenArrival s = .next (gone ((a.1.modStore st fun y => { y with scales := y.scales ++ [held] }).modCluster
          (clusterOf c) fun x => { x with shared := x.shared + 1 }))) ∧
      (kindOf c ≠ .mn → ∀ i, ((a.1.store st).scales.findIdx? fun h => h.into.isNone && sameTag h.tok w.tok) = some i →
        ((a.1.store st).scales.getD i held).arr ≤ a.2.arr →
        exec .evScaleTokenArrival s = .next (gone ((a.1.modStore st fun y => { y with scales := setNth y.scales i held }).tcntSub
          w.region w.tok.frame 1)))) ∧
    (isSeqPort c w.tok.port = true →
      exec .evSeqTokenAccept s = .next ((({ s with wire := dropNth s.wire e.i.toNat } : State).modRegion w.region fun r =>
        { r with tokc := (r.tokc + 1) % 2 ^ 32, lastTok := some s.cyc }).tcntSub w.region w.tok.frame 1))

/-- R42, R138, R140 to R142, R147, R173, R174: tokens go on. Markers pass when one waits on every required port and nothing of their frame waits before them or is
owed, and the context keeps their flags (log 74); the Vault and the spill map return their tokens in arrival order; the overflow register and the Chits let go of
theirs; an admitted firing that passes its check enters a free slot, and one that fails it parks its frame; and a copy of a queued token departs.
The words and the operands of events are the model's own (DESIGN CHOICE, log 2), and so are the match of a token that returns from the spill map (log 7), several
overflow pieces of one store (log 66), what becomes of tokens held in their Chits (log 67) and the refusal of a counter source's firing (log 59). -/
def Obligations.TokensGoOn : Prop :=
  ∀ (s : State) (e : Ev), At s e →
    let pos := e.pos
    let k := e.i.toNat
    let g := e.i.toNat
    let x := s.ctx pos k
    (let ports := x.reqPorts
     ∀ (lead : Piece) (rest : List Piece), ports.map (fun p => s.markerAt pos k p e.j.toNat) = (lead :: rest).map some →
      (∀ q ∈ ports.zip (lead :: rest), s.scaleWaits pos k q.1 e.j.toNat q.2.arr = false ∧
        ∀ p ∈ s.waiting pos k q.1 e.j.toNat, p.arr < q.2.arr → p.tok.kind = .marker) →
      let replies := if kindOf pos = .me then x.loadWords else []
      s.firingOf pos k e.j.toNat = false → s.cutAt pos k = false →
      (∀ o ∈ s.ops, o.pos = pos → o.ctx = k → o.frame = e.j.toNat → o.reply = 0 ∧ o.receipt ∉ replies) →
      (s.matrix pos).sends k e.j.toNat = false → s.roomMany pos k (x.outPorts.map fun o => (o, 1)) = true →
      let flags := (lead :: rest).foldl (fun f p => f ||| bits (p.tok.lanes.getD 0 0).toNat 18 7) x.sf
      let t := markerTok e.j.toNat lead.tok.iter lead.tok.aux flags ((lead :: rest).any fun p => bit p.tok.poison 0)
      let sent := x.outPorts.foldl (fun s o => s.enqueue pos k o false false t) s
      let sent := (replies.foldl (fun s w => s.enqueue pos k w true false t) sent).modCtx pos k fun x => { x with mflags := x.mflags ||| flags }
      exec .evMarkerPass s = .next ((lead :: rest).foldl (fun t p =>
        ((t.take (storeOf pos) p).leaveBuf pos k p.tok.port p.arr p.buf).tcntSub (s.regionOf pos k) e.j.toNat 1) sent)) ∧
    (∀ v, (s.cluster g).vault[e.j.toNat]? = some v → (s.store v.store).entries.length < storeSize v.store →
      s.sharedFree v.piece.tok.dst = true →
      (∀ w ∈ (s.cluster g).vault ++ (s.cluster g).spill, ¬ (w.store = v.store ∧ w.piece.tok.dst = v.piece.tok.dst ∧
        w.piece.tok.ctx = v.piece.tok.ctx ∧ w.piece.tok.port = v.piece.tok.port ∧ w.piece.arr < v.piece.arr)) →
      exec .evVaultReturn s = .next ((s.modCluster g fun c => { c with vault := dropNth c.vault e.j.toNat }).intoShared v.store v.piece)) ∧
    (∀ v, (s.cluster g).spill[e.j.toNat]? = some v → (s.cluster g).vault.length < vaultMax →
      (∀ w ∈ (s.cluster g).spill, ¬ (w.store = v.store ∧ w.piece.tok.dst = v.piece.tok.dst ∧
        w.piece.tok.ctx = v.piece.tok.ctx ∧ w.piece.tok.port = v.piece.tok.port ∧ w.piece.arr < v.piece.arr)) →
      let t := s.modCluster g fun c => { c with spill := dropNth c.spill e.j.toNat }
      exec .evSpillReturn s = .next (if v.piece.tok.kind = .marker ∨ s.cutAt v.piece.tok.dst v.piece.tok.ctx = true
        then t.modCluster g fun c => { c with vault := c.vault ++ [{ v with piece := { v.piece with buf := .vault } }] }
        else t.arrive (s.regionOf v.piece.tok.dst v.piece.tok.ctx) v.store { v.piece with buf := .vault })) ∧
    (let st := storeOf pos
     let full := storeSize st ≤ (s.store st).entries.length
     (∀ p rest, (s.store st).overflow = p :: rest →
      let t := s.modStore st fun t => { t with overflow := rest }
      exec .evOverflowDrain s = .next (if ¬ full ∧ s.sharedFree p.tok.dst = true
        then (t.intoShared st p).leaveBuf p.tok.dst p.tok.ctx p.tok.port p.arr p.buf
        else (t.stash (s.regionOf p.tok.dst p.tok.ctx) st false p).getD s)) ∧
     (∀ p rest, (s.store st).overflow = [] → (s.store st).held = p :: rest → s.cutAt p.tok.dst p.tok.ctx = false →
      let t := s.modStore st fun t => { t with held := rest }
      let r := s.regionOf p.tok.dst p.tok.ctx
      (p.tok.kind ≠ .scale → exec .evOverflowDrain s = .next (if full then (t.stash r st false p).getD s
        else if p.tok.kind = .marker then t.place r st p else t.arrive r st p)) ∧
      (p.tok.kind = .scale → s.sharedFree p.tok.dst = true → exec .evOverflowDrain s = .next (t.takeIn r p)))) ∧
    (∀ slot more i f, s.freeSlots pos = slot :: more → s.images = [] → s.chooseFiring pos more.isEmpty = some i →
      (s.node pos).admitted[i]? = some f → s.cutAt pos f.ctx = false →
      (f.skipAll = true ∨ (s.ctx pos f.ctx).firstBad pos f.words = none → f.entry = 0 → f.ix < f.words.length →
        exec .evFiringSlotEntry s = .next (s.modNode pos fun n =>
          { ({ n with admitted := dropNth n.admitted i, lastCtx := f.ctx } : Node).setSlot slot (some { f with entry := n.entries + 1 }) with
            entries := n.entries + 1 }).settleAnswers) ∧
      (∀ b, f.skipAll = false → (s.ctx pos f.ctx).firstBad pos f.words = some b →
        exec .evFiringSlotEntry s = .next (s.refuseFiring pos i f b).settleAnswers)) ∧
    ∀ o, (s.node pos).outq[e.i.toNat]? = some o → e.j.toNat ∈ o.todo → s.noticedAt pos o.ctx = false →
      s.mayDepart pos o e.j.toNat = true →
      (∀ p ∈ (s.node pos).outq.take e.i.toNat, ¬ (p.ctx = o.ctx ∧ p.rw = o.rw ∧ e.j.toNat ∈ p.todo)) →
      exec .evTokenDepart s = .next ((s.depart pos o e.j.toNat).modNode pos fun n =>
        if (o.todo.filter (· != e.j.toNat)).isEmpty then { n with outq := dropNth n.outq e.i.toNat }
        else { n with outq := setNth n.outq e.i.toNat { o with todo := o.todo.filter (· != e.j.toNat) } }) ∧
      ∃ v, (s.depart pos o e.j.toNat).wire = s.wire ++ [v] ∧ v.tok.lanes = o.tok.lanes ∧ v.tok.mask = o.tok.mask ∧
        v.tok.poison = o.tok.poison ∧ v.tok.frame = o.tok.frame ∧ v.tok.iter = o.tok.iter ∧ v.tok.len = o.tok.len ∧
        v.tok.dst = ((s.ctx pos o.ctx).rw o.rw).target e.j.toNat

/-- R103, R107, R136, R146, R147, R169, R296, R382: counters and frames. A counter's source admits its next run, and after the last sends its markers and its finish strobe; the
Mint grants the frame at the head of its order to RUN or to a pop source; a retiring frame with nothing left returns to STATE 0 and leaves its block's
run frames and its party sets; its unclaimed A FIFO entries end before; and a pending depth takes effect once its edge is empty.
The words and the operands of events are the model's own (DESIGN CHOICE, log 2). -/
def Obligations.CountersAndFrames : Prop :=
  ∀ (s : State) (e : Ev), At s e →
    (let pos := e.pos
     let k := e.i.toNat
     let x := s.ctx pos k
     ∀ c o r, x.source = some c → x.owner = some o → s.region o.region = some r → (s.node pos).cut = false → r.stopped = false →
      s.stalled r.part = false → (r.frame c.frame).parked = false →
      (c.next < c.count →
        let m := min x.crun (c.count - c.next)
        exec .evCounterSourceRun s = .next (((s.admitFiring pos k c.frame c.next m (2 ^ m - 1) []).modCtx pos k fun x =>
          { x with source := some { c with next := c.next + m }, armed := true }).countIter r c.ic)) ∧
      (c.count ≤ c.next → s.firingOf pos k c.frame = false → (s.matrix pos).sends k c.frame = false → s.roomMany pos k (x.outPorts.map fun o => (o, 1)) = true →
        exec .evCounterSourceRun s = .next (((x.outPorts.foldl (fun s o =>
          s.enqueue pos k o false false (markerTok c.frame (c.count % 4096) 0 x.sf false)) s).modCtx pos k fun x =>
            { x with source := none }).sendStrobe (.node pos) (.anchor r.id) r.id 1 [(36, 0), (10, c.frame), (2, c.ic)]))) ∧
    (∀ r, s.region e.i.toNat = some r →
      (r.liveFrames < r.budget →
        (∀ ic blk rest r' f, r.requests = .run ic blk :: rest → r.grant blk = some (r', f) →
          exec .evMintFrameRequest s = .next (s.modRegion r.id fun _ => { r' with requests := rest, granted := some (ic, f) })) ∧
        (∀ pos k rest o r' f, r.requests = .pop pos k :: rest → (s.ctx pos k).owner = some o → r.grant o.blk = some (r', f) →
          exec .evMintFrameRequest s = .next ((s.modRegion r.id fun _ => { r' with requests := rest }).modTill pos fun t =>
            t.modSource k fun p => { p with frames := p.frames ++ [f], asked := p.asked - 1 }))) ∧
      (let f := e.j.toNat
       let y := r.frame f
       (y.state = 2 → y.parked = false → y.tcnt ≤ s.looseScales r f → s.frameBusy r f = false →
        exec .evFrameReturn s = .next ((r.psets.map (·.1)).foldl (fun s k => s.quitSet r.id k f)
          ((((s.dropScales r f).endDrops r.id f).modFrame r.id f fun y => { y with state := 0, tcnt := 0, reported := false }).modRegion r.id
            fun q => { q with blks := q.blks.map fun b => (b.1, { b.2 with runFrames := b.2.runFrames.filter (· != f) }) })).settleAnswers) ∧
       (let cps := r.clusters.map fun g => clusterNode g 4
        let total := cps.foldl (fun n c => n + s.fifoOf c r.id f) 0
        y.state = 2 → y.parked = false → total ≠ 0 → y.tcnt = total →
        exec .evAFifoDiscard s = .next ((cps.foldl (fun s c =>
          if s.fifoOf c r.id f = 0 then s
          else { s with copies := s.copies.set c { s.copies.get {} c with
            fifo := (s.copies.get {} c).fifo.filter fun x => !decide (x.region = r.id ∧ x.frame = f),
            adrop := satAdd 16 (s.copies.get {} c).adrop (s.fifoOf c r.id f) } }) s).tcntSub r.id f total)))) ∧
    (let pos := e.pos
     let k := e.i.toNat
     let p := e.j.toNat
     let x := s.ctx pos k
     ∀ d rw frame iter ds, (x.depth.filter fun y => y.1 == p) = (p, d, rw, frame, iter) :: ds → s.edgeTokens pos k p = false →
      x.used.getD p 0 = 0 →
      let t := (s.modCluster (clusterOf pos) fun c => { c with resv := c.resv + d - x.dep p }).modCtx pos k fun x =>
        { x.setDep p d with depth := x.depth.filter fun y => y.1 != p }
      exec .evDepthApply s = .next (((p, d, rw, frame, iter) :: ds).foldl (fun s y =>
        if y.2.2.1 = 0 then s
        else (s.sendReceipt pos k y.2.2.1 y.2.2.2.1 y.2.2.2.2 0 0 0 false).repay pos k y.2.2.2.1 1) t))

/-! ## Memory -/

/-- R218, R221, R226, R227, R344 to R348, R353, R359, R367, R502: the events of memory. A walk reads its entries at their home slices and ends with its translation, kept where it may be; an idle write-buffer
entry begins to drain, and a draining one writes its bytes to memory; a line comes from backing memory; a read returns the bytes of its lanes, at SYS past a clean
copy of second-tier memory; an atomic leaves its results in memory, and returns the old values; a full reply leaves as a token; and a performed operation's receipt
leaves; an operation that owes a record of uncorrectable data posts it first, when there is room.
The words and the operands of events are the model's own (DESIGN CHOICE, log 2), and so are the lines of second-tier memory that wait for a release or a barrier
and what a region's acquires at SYS have read (log 81), the walk's reads of table entries at their home slices (log 86) and the marks of what a later release
awaits (log 90). -/
def Obligations.MemoryActs : Prop :=
  ∀ (s : State) (e : Ev), At s e →
    let i := e.i.toNat
    let j := e.j.toNat
    (∀ w, s.walks[i]? = some w → ((s.walks.take i).filter fun v => clusterOf v.pos == clusterOf w.pos).length < 4 →
      let t := (s.tableLines w.part w.va).foldl (fun s l => s.unitRead (s.partFor w.region) l false) s
      let x := t.walk w.part w.va
      exec .evWalkComplete s = .next ((({ t with walks := dropNth t.walks i } : State).modSlot w.pos w.slot fun f =>
        if f.region = w.region then { f with xl := f.xl ++ [x] } else f).modMe w.pos fun m =>
          match w.stream with
          | some k =>
            let more := (dropNth t.walks i).any fun v => decide (v.pos = w.pos ∧ v.stream = some k)
            let sst := m.sst.set k (BitVec.ofNat 64 (setBits (m.sst.get 0 k).toNat 61 1 (b2n more)))
            if x.bad.isNone then { m with sst := sst, sx := m.sx.set k x } else { m with sst := sst }
          | none => if x.bad.isNone then { m with tlb := (x :: m.tlb).take 8 } else m)) ∧
    (∀ w, (s.cluster i).wb[j]? = some w → w.draining = false → w.last + 1024 ≤ s.cyc →
      exec .evWbIdleDrain s = .next (s.drain i [w.id] false)) ∧
    (∀ w, (s.cluster i).wb[j]? = some w → w.draining = true → (∀ v ∈ (s.cluster i).wb.take j, v.line ≠ w.line) →
      (∀ o ∈ s.ops, ∀ q ∈ o.todo, q.line = w.line → q.filling = false) → Memory.wf s.mem = true →
      ∃ t, exec .evHsWriteEvent s = .next t ∧ (t.cluster i).wb = dropNth (s.cluster i).wb j ∧
        ∀ a, Memory.read t.mem a = (stored w.bytes a).getD (Memory.read s.mem a)) ∧
    (∀ o q, s.ops[i]? = some o → o.todo[j]? = some q → q.filling = true → s.cached q.line = false →
      exec .evLineFill s = .next (s.fill (s.partFor o.region) q.line)) ∧
    (∀ o r va rest, s.ops[i]? = some o → o.eccs = va :: rest → s.region o.region = some r → s.canPost r.part = true →
      exec .evHsReadEvent s = .next ((s.eccRecord r o va).modOp o.id fun o => { o with eccs := rest }).settle) ∧
    (∀ o q, s.ops[i]? = some o → o.todo[j]? = some q → o.eccs = [] → o.waits = [] → s.lineHeld o.id q = false →
      (o.kind = .load → (s.cacheable q.line q.dev = false ∨ s.cached q.line = true) → e.v.toNat ≠ 2 → q.line ∉ s.badLines →
        let u : State := { s with dev := { s.dev with corr := satAdd 32 s.dev.corr (b2n (e.v.toNat == 1)), uncorr := satAdd 32 s.dev.uncorr 0 } }
        let p := s.partFor o.region
        let r := ((if o.scope = 3 ∧ q.filling = false ∧ s.readsDevice q.line = true then u.meterHome p 0 2
          else u.useLine p q.line false (!q.filling)).meterHome p 1 0).acquired o q.line
        let byte (a : Nat) : Byte := if o.scope = 0 then s.clByte (clusterOf o.pos) a else Memory.read s.mem a
        let value (size width a : Nat) : Word := BitVec.ofNat 64 (ofBytes ((List.range size).map fun k => byte (a + k)) % 2 ^ width)
        exec .evHsReadEvent s = .next (r.performedReq o.id j fun o => { o with vals := o.vals ++ q.lanes.map fun x =>
          (x.1, if x.1 < 32 then value (tyBytes o.ty) o.ty.width x.2 else value 8 64 x.2) })) ∧
      (o.kind = .hseq → exec .evHsReadEvent s = .next (((if s.cached q.line = true then s.useLine (s.partFor o.region) q.line false true
        else s).meterHome (s.partFor o.region) 1 0).performedReq o.id j fun o =>
          { o with vals := o.vals ++ q.lanes.map fun p => (p.1, BitVec.ofNat 64 (s.ltagOf q.line)) })) ∧
      (∀ inv, o.kind = .writeBack inv → exec .evHsReadEvent s = .next
        ((if inv then (s.clean (s.partFor o.region) q.line).invalidate q.line else s.clean (s.partFor o.region) q.line).performedReq o.id j id)) ∧
      (∀ opc n, o.kind = .atomic opc → o.niw = some n → (s.cacheable q.line q.dev = false ∨ s.cached q.line = true) → e.v.toNat ≠ 2 →
        q.line ∉ s.badLines →
        let u : State := { s with dev := { s.dev with corr := satAdd 32 s.dev.corr (b2n (e.v.toNat == 1)), uncorr := satAdd 32 s.dev.uncorr 0 } }
        let r := u.acquired o q.line
        let a := r.atomEvent o n opc q
        let w := r.writeEvent (r.partFor o.region) q.line q.dev (decide (max o.scope o.upTo = 3) && r.dev.inTier (128 * q.line)) true
          (!q.filling) a.cells
        exec .evHsAtomicEvent s = .next ((w.1.oweTier q.line [(o.pos, o.ctx, o.frame, o.cls)] false false).performedReq o.id j fun o =>
          { o with vals := o.vals ++ a.old, flags := o.flags ||| a.flags, tags := o.tags ++ [w.2] }))) ∧
    (∀ o, s.ops[i]? = some o → o.reply ≠ 0 → o.performed = true →
      let lane (l : Nat) : Word := if bit o.mask l && !bit o.poison l then (Table.find o.vals l).getD 0 else 0
      let t : Token := { kind := .value, dst := o.pos, ctx := 0, port := 0, frame := o.frame, iter := o.iter, len := o.len, aux := 0,
                         mask := o.mask, poison := o.poison &&& o.mask, wide := o.ty.isWide, lanes := (List.range o.len).map lane }
      exec .evLoadReply s = .next (((((s.enqueueRun o.pos o.ctx (o.reply - 1) true true t).progress o.region).repay o.pos o.ctx o.frame 1).modOp
        o.id fun o => { o with reply := 0 }).settle)) ∧
    ∀ o, s.ops[i]? = some o → o.receipt ≠ 0 → o.performed = true →
      exec .evOperationPerformed s = .next (((((s.certified o.pos o.ctx o.frame).sendReceipt o.pos o.ctx o.receipt o.frame o.base o.flags
        o.scope (match o.tags with | [t] => if o.several then 0 else t | _ => 0) o.rpoison).repay o.pos o.ctx o.frame 1).modOp o.id fun o => { o with receipt := 0 }).settle)

/-! ## Engines and the worklist -/

/-- R278, R281, R289, R295, R297 to R300: the Copy Engine acts. The eligible instance with the lowest issue number takes the lowest free running slot, and one
without pieces completes with none; a running instance performs its next piece, or faults at it; and a CPYA appends its next tile to the A FIFO, which counts in
its frame's TCNT, and gives up its slot when the FIFO is full. What an error poisoned is recorded, so a piece waits for room for its record (R495, R502).
The words and the operands of events are the model's own (DESIGN CHOICE, log 2), and so are the ascending order of an instance's pieces (log 95) and a tile address that is no multiple of 128 (log 94). -/
def Obligations.CopyEngineActs : Prop :=
  ∀ (s : State) (e : Ev), At s e →
    let c := e.pos
    let cp := s.copy c
    (∀ r j, (cp.jobs.findSome? fun j => (s.region j.region).bind fun r =>
        if s.eligible c r j && s.engineGoes c r && (j.c.pieces == 0 || (cp.freeSlot.isSome && !s.stalled r.part)) then some (r, j) else none) =
          some (r, j) →
      exec .evCpInstanceStart s = .next (if j.c.pieces = 0 then s.cpComplete c r j
        else s.modJob c j.id fun j => { j with running := true, slot := cp.freeSlot.getD 0 })) ∧
    ∀ j r, (cp.jobs.find? fun j => j.id == e.i.toNat && j.running) = some j → j.due = none → s.region j.region = some r → s.engineGoes c r = true →
      (let fails := if j.c.opc = 0xb3 then j.mcastFails r else []
       ∀ o, j.c.opc ≠ 0xb6 → j.c.opc ≠ 0xb7 → (j.lastMcast = true → fails ≠ [] → s.canPost r.part = true) → s.pieceOf c r j = .inr o →
        s.hurtWaits r o.bad = false →
        exec .evCpPiece s = .next (o.s.pieceDone c r { j with failed := fails.foldl (fun m f => m + 2 ^ f.1) 0, failCode := (fails.headD (0, 0)).2 }
          o.flags o.bad)) ∧
      (let mn := clusterNode (clusterOf c) 3
       let buf := b2n (bit j.c.opt 0)
       ∀ t x bad, j.c.opc = 0xb7 → ((s.matrices.get {} mn).bufs.getD buf {}).st = 0 → s.tileIn r j = .inr (t, x, bad) →
        s.hurtWaits r bad = false →
        let m := t.matrices.get {} mn
        let b := m.bufs.getD buf {}
        exec .evCpPiece s = .next (({ t with matrices := t.matrices.set mn { m with
          bufs := setNth m.bufs buf { b with cols := b.cols.set (bits j.c.xarg 48 7 + j.piece) x, chk := 0 } } } : State).pieceDone c r j 0 bad)) ∧
      (∀ t x bad, j.c.opc = 0xb6 → cp.fifo.length < fifoMax → (∀ i ∈ cp.jobs, i.id < j.id → i.c.opc ≠ 0xb6) →
        s.tileIn r j = .inr (t, x, bad) → s.hurtWaits r bad = false →
        exec .evAFifoAppend s = .next ((((t.modCopy c fun y =>
          { y with fifo := y.fifo ++ [{ region := r.id, frame := j.frame, tile := x }], apos := (y.apos + 1) % 2 ^ 32 }).tcntAdd
            r.id j.frame 1).pieceDone c r j 0 bad).fifoYield c j.id)) ∧
      (∀ x, j.c.opc ≠ 0xb3 → j.c.opc ≠ 0xb6 → j.c.opc ≠ 0xb7 → s.pieceOf c r j = .inl x →
        exec .evCpPiece s = .next (s.pieceFault c r j x))

/-- R308 to R310, R313, R314, R316 to R318, R334: the Matrix Node acts. The first run whose next row qualifies admits it: the row joins the window with its tile, its scales
and the units that its columns take, and the run goes on to the next row; a cycle draws 128 units a column and retires the rows that have none left, in
order; a row that retires adds to each configured column of its accumulator row, for I8 the sum of the products of its tile's and the column's elements, clamped to I32, and for
a pair of float types what R316 gives of its blocks' sums, and leaves every other row; a hold's check passes or parks its frame; and a released buffer becomes free.
The words and the operands of events are the model's own (DESIGN CHOICE, log 2). -/
def Obligations.MatrixNodeActs : Prop :=
  ∀ (s : State) (e : Ev), At s e →
    let c := e.pos
    let m := s.matrix c
    (∀ o out dit i0 n k prog t sc psn, m.ops.find? (s.rowReady c) = some o →
      (o.work = .run none out dit i0 n k prog → s.aRow c o none = some (t, sc, psn) → tileFault o.cfg.tya t = none →
        ∀ p, s.fifoPlace c o = some p →
        let q := o.cfg
        let row : MnRow := { op := o.id, j := k, slot := q.row (i0 + k), tile := t, scales := sc, psn := psn,
                             left := (List.range q.nc).map fun i => if dit then 128 else unitsOf q.tya * pairsOf t ((m.buf q.bsel).col i) }
        exec .evRowFiringAdmit s = .next ((((s.fifoTake c o p).modMn c o.id fun o =>
          { o with work := .run none out dit i0 n (k + 1) prog, asZero := false }).modMatrix c fun m => { m with window := m.window ++ [row] }).mnPump c)) ∧
      (o.work = .run none out dit i0 n k prog → s.aRow c o none = some (t, sc, psn) → ∀ reason, tileFault o.cfg.tya t = some reason →
        exec .evRowFiringAdmit s = .next ((s.modMn c o.id fun o => { o with bad := some (reason, t.getD 3 0) }).mnPump c)) ∧
      ∀ p, o.work = .run (some p) out dit i0 n k prog → s.aRow c o (some p) = some (t, sc, psn) →
        let q := o.cfg
        let row : MnRow := { op := o.id, j := k, slot := q.row (i0 + k), tile := t, scales := sc, psn := psn,
                             left := (List.range q.nc).map fun i => if dit then 128 else unitsOf q.tya * pairsOf t ((m.buf q.bsel).col i) }
        exec .evRowFiringAdmit s = .next (((s.modMn c o.id fun o =>
          { o with work := .run (some p) out dit i0 n (k + 1) prog, asZero := false }).modMatrix c fun m => { m with window := m.window ++ [row] }).mnPump c)) ∧
    (let t := s.modMatrix c fun m => { m with window := drawAll m.window }
     exec .evRowFiringRetire s = .next ((t.retireAll c (t.matrix c).window).mnPump c)) ∧
    (∀ (w : MnRow) (ws : List MnRow), s.retireAll c (w :: ws) = if ∀ x ∈ w.left, x = 0 then (s.retireRow c w).retireAll c ws else s) ∧
    (∀ (w : MnRow) (o : MnOp) (port : Option PortIn) (dit : Bool) (i0 n k prog : Nat), m.op w.op = some o →
      o.work = .run port false dit i0 n k prog → prog + 1 ≠ n → (m.accRow w.slot).length = 128 → w.slot < 128 → o.cfg.nc ≤ 128 →
      let q := o.cfg
      let b := m.buf q.bsel
      let old (i : Nat) : Nat := ((m.accRow w.slot).getD i 0).toNat
      let t := s.retireRow c w
      let sa (x : Nat) : Nat := if q.scfix then q.sca else w.scales.getD x 127
      let sb (i x : Nat) : Nat := if q.scfix then q.scb else tileScale (b.col i) x
      (∀ r, r ≠ w.slot → (t.matrix c).accRow r = m.accRow r) ∧ t.mem = s.mem ∧
      (∀ i, i < 128 → q.nc ≤ i → ((t.matrix c).accRow w.slot).getD i 0 = (m.accRow w.slot).getD i 0) ∧
      (q.tya = .i8 → ∀ i, i < q.nc →
        let sum : Int := sx (old i) 32 + ((List.range 64).map fun j => sx (tileElem .i8 w.tile j) 8 * sx (tileElem .i8 (b.col i) j) 8).sum
        ((t.matrix c).accRow w.slot).getD i 0 = BitVec.ofNat 32 (wrap (max (-2 ^ 31) (min (2 ^ 31 - 1) sum)) 32)) ∧
      (q.tya ≠ .i8 → ∀ i, i < q.nc → ((t.matrix c).accRow w.slot).getD i 0 = BitVec.ofNat 32 (accFloat
        ((List.range (tileBlocks q.tya)).map fun x => blockSum q.tya q.tyb w.tile (b.col i) (sa x) (sb i x) x) (old i)).1)) ∧
    (∀ (w : MnRow) (ws : List MnRow) (col cap : Nat), drawColumn col cap (w :: ws) =
      { w with left := setNth w.left col (w.left.getD col 0 - min cap (w.left.getD col 0)) } ::
        drawColumn col (cap - min cap (w.left.getD col 0)) ws) ∧
    (let buf := e.i.toNat % 2
     exec .evBBufferFree s = .next ((s.freeBuf c buf).mnPump c) ∧
     ∀ o sl fr, m.holder buf = some o → o.work = .hold sl fr → ((m.buf buf).st = 1 ∨ (m.buf buf).st = 2) →
      let q := o.cfg
      let b := m.buf buf
      let lo := if b.tyb = Ty.code q.tyb then b.chk else 0
      ((∀ i, i < q.nc → lo ≤ i → tileFault q.tyb (b.col i) = none) →
        exec .evHoldComplete s = .next (((s.modBuf c buf fun b => { b with st := 2, chk := q.nc, tyb := Ty.code q.tyb }).mnDone c o 0).mnPump c)) ∧
      ∀ i reason r, lo ≤ i → i < q.nc → tileFault q.tyb (b.col i) = some reason → (∀ k, lo ≤ k → k < i → tileFault q.tyb (b.col k) = none) →
        s.region o.region = some r → (∀ w ∈ m.window, ∀ x, m.op w.op = some x → x.cfg.bsel ≠ buf) → s.canPost r.part = true →
        exec .evHoldComplete s = .next (((((s.postFor r (.matrix c o.id) { s.mnInfo c o Cause.bitmap (i + 128 + 256 * reason) with
          auxv := ((b.col i).getD 3 0).toNat }).modBuf c buf fun b => { b with st := 0, zfCols := [] }).modMn c o.id fun o =>
            { o with parked := true }).parkFrame r o.frame).mnPump c))

/-- R374, R375, R377 to R379, R387, R388, R391, R392: the worklist acts. A due wave samples its Tills and, when it holds them all, is delivered: a die's to LDIE, the
package's to LPKG with Clearing's sums and its test, which closes the worklist on the second pass; a task that arrives joins its Till and counts in RECV; its
acknowledgement leaves the sender's PMIN at what is still under way; a Till whose ring may hold an eligible task when it holds none, or that is low, reads its ring;
and a Till without an eligible task asks another one, for a bucket that its pop sources may take, which hands tasks over.
The words and the operands of events are the model's own (DESIGN CHOICE, log 2), and so is the reason of a refill that is served first where both hold (log 78). -/
def Obligations.WorklistActs : Prop :=
  ∀ (s : State) (e : Ev), At s e →
    let p := e.pos
    let d := p.die.toNat
    (∀ r, s.waves p = some r → kindOf p = .till →
      let c := s.clearing r.id
      let sample := (p, (s.till p).sample)
      (c.die.find d = none → waveDue c (c.dieStart.find d) 256 s.cyc = true →
        exec .evDieWave s = .next (s.modClearing r.id fun c => { c with
          die := c.die.set d { samples := [sample] }, dieStart := c.dieStart.set d s.cyc })) ∧
      (∀ w, c.die.find d = some w → (∀ x ∈ w.samples, x.1 ≠ p) →
        exec .evDieWave s = .next (s.modClearing r.id fun c => { c with die := c.die.set d { w with samples := w.samples ++ [sample] } })) ∧
      (let tills := r.tills.filter fun c => c.die.toNat == d
       ∀ w, c.die.find d = some w → tills.length ≤ w.samples.length →
        exec .evDieWaveDeliver s = .next (tills.foldl (fun s x => s.modTill x fun t =>
          Till.rise { t with ldie := leastPri (w.samples.map (·.2)), seenDie := w.samples })
          (s.modClearing r.id fun c => { c with die := Table.erase c.die d }))) ∧
      (let acks (u : State) : State := { u with transfers := u.transfers.map fun x =>
         if x.carry = .taken ∧ x.dst = p then { x with carry := .acked } else x }
       let add (w : Wave) : Wave := { w with samples := w.samples ++ [sample], sums := (w.sums.zip (s.till p).sums).map fun x => x.1 + x.2 }
       (∀ w, c.pkg = some w → (∀ x ∈ w.samples, x.1 ≠ p) →
        exec .evPackageWave s = .next (acks (s.modClearing r.id fun c => { c with pkg := some (add w) }))) ∧
       (c.pkg = none → waveDue c c.pkgStart 1024 s.cyc = true →
        exec .evPackageWave s = .next (acks ((r.tills.foldl (fun s c => s.modTill c fun t => { t with lowered := false }) s).modClearing r.id
          fun c => { c with pkg := some (add {}), pkgStart := some s.cyc })))) ∧
      ∀ w, c.pkg = some w → r.tills.length ≤ w.samples.length →
        let t := r.tills.foldl (fun s x => s.modTill x fun t =>
          Till.rise { t with lpkg := leastPri (w.samples.map (·.2)), seenPkg := w.samples, locLow := if t.lowered then t.locLow else noPri }) s
        let pass := c.passAfter (t.till r.seqCoord).hold w.sums
        let u := t.modClearing r.id fun c => { c with
          pkg := none, waves := (c.waves + 1) % 2 ^ 32, pass := pass, lastSent := w.sums.getD 0 0, lastPops := w.sums.getD 2 0, lastHeld := w.sums.getD 4 0 }
        (pass = 2 → (u.till r.seqCoord).term = false → exec .evPackageWaveDeliver s = .next (u.terminate r)) ∧
        (pass ≠ 2 → exec .evPackageWaveDeliver s = .next u)) ∧
    (∀ (c : Clearing) (hold : Bool) (x0 x1 x2 x3 x4 : Nat), c.passAfter hold [x0, x1, x2, x3, x4] =
      if x0 = x1 ∧ x2 = x3 ∧ x4 = 0 ∧ hold = false then if 0 < c.pass ∧ x0 = c.lastSent ∧ x2 = c.lastPops then 2 else 1 else 0) ∧
    (∀ x, (s.transfers.find? fun x => x.id == e.i.toNat) = some x →
      (∀ r, s.region x.region = some r → x.carry = .sent → (∀ y ∈ s.transfers, y.id < x.id → y.src = x.src → y.dst = x.dst → y.carry ≠ .sent) →
        r.frozen = false → (s.tillAccept r x.dst x.task).2 = true →
        let t := (s.tillAccept r x.dst x.task).1.received x.dst x.steal
        exec .evTransferAccept s = .next ((({ t with transfers := t.transfers.map fun y => if y.id == x.id then { y with carry := .taken } else y } :
          State).modWlOp x.src x.op fun o => { o with left := o.left - 1 }).wlReceipt x.src x.op)) ∧
      (x.carry = .acked →
        let rest := s.transfers.filter fun y => y.id != x.id
        exec .evTransferAck s = .next (({ s with transfers := rest } : State).modTill x.src fun t => { t with
          pmin := leastPri ((rest.filter fun y => decide (y.src = x.src)).map fun y => y.task.pri) }))) ∧
    ∀ r, s.regionAt p = some r →
      let t := s.till p
      (t.ringStop = false → s.stalled r.part = false → r.frozen = false → (s.node p).cut = false → t.openNow = true →
        (∀ x, t.refill = some x → exec .evRingRefill s = .next (s.refillRun r p 33)) ∧
        (t.refill = none → ¬ (t.eligible t.spmin = true ∧ ∀ x ∈ t.tasks, t.eligible x.2.pri = false) → t.tasks.length < t.lowm →
          0 < t.ringCount → exec .evRingRefill s = .next (s.refillRun r p (min 32 t.ringCount))) ∧
        (t.refill = none → 0 < t.ringCount → t.eligible t.spmin = true → (∀ x ∈ t.tasks, t.eligible x.2.pri = false) →
          exec .evRingRefill s = .next ((s.modTill p fun t => { t with refill := some (t.ringCount, noPri) }).refillRun r p 33))) ∧
      (∀ c b, kindOf p = .till → t.openNow = true → t.asking = none → s.stalled r.part = false → r.stopped = false → (s.node p).cut = false →
        s.mayTake p r b = true → (∀ x ∈ t.tasks, t.eligible x.2.pri = false) →
        (stealFrom t r p t.seenDie = some (c, b) ∨ (stealFrom t r p t.seenDie = none ∧ stealFrom t r p t.seenPkg = some (c, b))) →
        exec .evStealRequest s = .next (s.modTill p fun t => { t with asking := some c })) ∧
      ∀ v, t.asking = some v → r.stopped = false → (s.node v).cut = false → (∀ g ∈ (s.till v).giving, g.1 ≠ p) →
        ((s.till v).tasks = [] → exec .evStealHandover s = .next (s.modTill p fun t => { t with asking := none })) ∧
        ∀ x rest, (s.till v).tasks = x :: rest →
          let b := (s.till v).bkt x.2.pri
          let k := min 32 (ceilDiv ((s.till v).tasks.filter fun y => (s.till v).bkt y.2.pri == b).length 2)
          let w := s.handOver r v p b k
          ((s.till v).eligible x.2.pri = true → w.2 = 0 →
            exec .evStealHandover s = .next ((w.1.modTill v fun t => { t with giving := (s.till v).giving }).modTill p fun t =>
              { t with asking := none })) ∧
          ((s.till v).eligible x.2.pri = false → exec .evStealHandover s = .next (s.modTill p fun t => { t with asking := none }))

/-! ## The link layer's events -/

namespace Sys2Proof.Claims

/-- The order in which re-requests to a device are sent (R422). -/
def rreqKey (x : Rreq) : List Nat := [x.eligible, x.hdr.sport.toNat, x.hdr.chan.toNat, x.hdr.msn.toNat, x.hdr.pidx.toNat]

end Sys2Proof.Claims

/-- R409, R412, R414 to R416, R422, R427, R436, R440, R505: the link layer acts. A flit whose CRC holds and whose number is due is taken in, and any other
is discarded until its number comes again, but for link control where a header would stand; a port asks for a replay, or returns credits; a port comes up or goes down; a crossing router trims a packet to its header; the next
ordered arrival enters its window's queue, and a window's oldest arrival leaves as a token; an eligible re-request is sent; and a message that has lived too
long ends.
The words and the operands of events are the model's own (DESIGN CHOICE, log 2), and so are the place where link control is taken for what it is, where a header would stand
(log 80), and the flits that may stand before a crossing packet (log 15). -/
def Obligations.LinkLayerActs : Prop :=
  ∀ (s : State) (e : Ev), At s e →
    let p := e.i.toNat
    let l := s.link p
    (l.up = true → e.data.length = 72 → p < 36 →
      let flit := e.data.take 64
      let hi := ofBytes (e.data.drop 68)
      let good := crc32 (flit ++ e.data.drop 68) = ofBytes ((e.data.drop 64).take 4)
      (¬ good → exec .evFlitReceive s = .next (s.modLink p fun l => { l with awaiting := true })) ∧
      (good → flit.take 8 ≠ List.replicate 8 255 ∨ l.rxPart.get [] (bits hi 18 2) ≠ [] → bits hi 20 12 ≠ l.rxSeq →
        exec .evFlitReceive s = .next (s.modLink p fun l => { l with awaiting := true })) ∧
      (good → flit.take 8 ≠ List.replicate 8 255 ∨ l.rxPart.get [] (bits hi 18 2) ≠ [] → bits hi 20 12 = l.rxSeq →
        exec .evFlitReceive s = .next ((((s.modLink p fun l => { l with
          credits := setNth l.credits (bits hi 8 2) (l.credits.getD (bits hi 8 2) 0 + bits hi 10 8) }).modLink p fun l =>
            { l with rxSeq := (l.rxSeq + 1) % 4096, awaiting := false }).takeFlit p (bits hi 18 2) flit).drivePort p))) ∧
    (l.up = true → l.awaiting = true ∨ l.credit.1 ≠ 0 →
      exec .evLinkReplayRequest s = .next (({ s with sentFlits := s.sentFlits ++ [(p, wireFlit (s.free 4097 % 4096) 3 l.credit.1 l.credit.2
        (controlFlit (if l.awaiting then some l.rxSeq else none)))] } : State).modLink p fun l' => l'.returned l.credit.1 l.credit.2)) ∧
    (p < 36 → exec .evPortUpChange s = .next ((s.modLink p fun l => { l with up := e.j == 1 }).drivePort p)) ∧
    (∀ x, s.packets[e.i.toNat]? = some x → x.crossing = true → x.pkt.hdr.trim = false → 32 < x.pkt.hdr.len.toNat →
      (x.pkt.hdr.kind.toNat = 0 ∨ x.pkt.hdr.kind.toNat = 1 ∨ x.pkt.hdr.kind.toNat = 3) → s.dev.tq < s.crossingFlits e.i.toNat →
      e.j.toNat < 16 → e.v.toNat < 10 →
      let key := (e.v.toNat, e.j.toNat)
      let site := pack [(14, 0), (4, e.j.toNat), (4, e.v.toNat), (2, 1)]
      exec .evPacketTrim s = .next { s with
        packets := dropNth s.packets e.i.toNat ++
          [{ x with pkt := { hdr := { x.pkt.hdr with trim := true, tc := 3, tsite := BitVec.ofNat 24 site }, data := [] } }],
        dev := { s.dev with xtrim := s.dev.xtrim.set key (satAdd 64 (s.dev.xtrim.get 0 key) 1) } }) ∧
    (∀ r m w a, l.recs[e.j.toNat]? = some r → (r.msgs.find? fun m => m.arrival.isSome && !m.done && m.dsn == r.next) = some m →
      m.arrival = some (w, a) → (s.win w).arrivals.length < arrivalMax →
      exec .evPutnArrivalEnter s = .next (s.enterArrival p m.hdr w a)) ∧
    (let x := s.win e.i.toNat
     ∀ a rest, x.arrivals = a :: rest → x.bound = true → s.cutAt (linkNode x.port) x.bctx = false → s.canRun x.bregion = true →
      let wide := Ty.isWide (Ty.ofCode a.ty)
      s.canReserve (linkNode x.port) x.bctx x.bport (tokensOf wide a.run) = true →
      let slot (i : Nat) : Nat := a.slots.getD i 0
      let t : Token := { kind := .value, dst := mkCoord 0 0 0, ctx := 0, port := 0, frame := x.bframe, iter := 0, len := a.run, aux := 0,
                         mask := a.mask % 2 ^ a.run, poison := 0, wide := wide,
                         lanes := (List.range a.run).map fun l => BitVec.ofNat 64 (if wide then slot (2 * l) + 2 ^ 32 * slot (2 * l + 1) else slot l) }
      exec .evArrivalEmit s = .next (((s.modWin e.i.toNat fun x => { x with arrivals := rest }).enqueueRun (linkNode x.port) x.bctx x.bport true
        false t).progress x.bregion)) ∧
    (∀ q, l.rreqs[e.j.toNat]? = some q → q.sent = false → q.eligible ≤ s.cyc →
      let all := (s.links.flatMap fun l => l.2.rreqs).filter fun x => x.hdr.sdev = q.hdr.sdev
      (∀ x ∈ all, x.sent = false → x.eligible ≤ s.cyc → ¬ (rreqKey x < rreqKey q)) →
      (q.hdr.kind.toNat = 3 ∨ ∀ m, (l.recOf q.hdr).bind (fun r => r.msg q.hdr.msn.toNat) = some m → m.done = false) →
      (all.filter (·.sent)).length ≤ s.dev.wm1 →
      let h := { answer q.hdr 8 with trims := BitVec.ofNat 3 q.t, tsite := q.hdr.tsite, len := q.hdr.len }
      exec .evRreqSend s = .next ((s.modLink p fun l => { l with
        rreqs := setNth l.rreqs e.j.toNat { q with sent := true }, rrSent := satAdd 32 l.rrSent 1 }).sendPkt p none { hdr := h, data := [] })) ∧
    ∀ m t, (l.msgs.find? fun m => m.id == e.j.toNat) = some m → 2 ^ (s.dev.cape + 3) ≤ (s.cyc + 2 ^ 64 - m.last) % 2 ^ 64 →
      s.msgFail p m true (s.msgInfo p m Cause.trimLimit (m.lane + 0x8000)) = .inr t → exec .evMessageLifetimeExpiry s = .next t

/-! ## The events of the Sequencer, Escrow and the cut -/

/-- R109, R114, R117 to R119: the Sequencer's events. A drained node of an armed block says so; the scheduler loads the candidate that R109 picks when it fits;
a patch's node writes it in every context of the block and acknowledges; and the next configuration line comes into the cache.
The words and the operands of events are the model's own (DESIGN CHOICE, log 2). -/
def Obligations.SequencerActs : Prop :=
  ∀ (s : State) (e : Ev), At s e →
    let c := e.pos
    (∀ o r, (s.ctx c e.i.toNat).owner = some o → s.region o.region = some r → (s.ctx c e.i.toNat).cw ≠ 0 →
      (s.ctx c e.i.toNat).drained = false → s.cutAt c e.i.toNat = false → s.armed r o.blk = true → s.drainedHere r o.blk c = true →
      let drained (x : Ctx) : Ctx := if x.ofBlock r.id o.blk then { x with drained := true } else x
      exec .evNodeDrained s = .next ((s.modNode c fun n => { n with ctxs := n.ctxs.map drained }).sendStrobe (.node c) (.anchor r.id) r.id 4 [(42, 0), (6, o.blk)])) ∧
    (∀ r x r' t, s.region e.i.toNat = some r → (r.stat = 2 ∨ r.stat = 3 ∨ r.stat = 4) → r.stopped = false → s.schedStuck r = false →
      s.freeBase r ≠ none → (∀ y ∈ s.candidatesOf r, s.overcommits r y = none) →
      r.pick ((s.candidatesOf r).map fun y => (y, s.waitingFor r y)) = some x → s.canPost r.part = true →
      let u := s.modRegion r.id fun q => q.passes (s.candidatesOf r) x
      u.region r.id = some r' → u.loadBlock r' x = .loaded t → exec .evSchedDecision s = .next t) ∧
    (∀ o, (s.ctx c e.i.toNat).owner = some o →
      let put (x : Ctx) : Ctx :=
        if x.ofBlock o.region o.blk then { x with consts := x.patch.foldl (fun c p => setNth c p.1 p.2) x.consts, patch := [] } else x
      exec .evSlotPatch s = .next ((s.modNode c fun n => { n with ctxs := n.ctxs.map put }).modBlk
          o.region o.blk fun x => { x with patching := x.patching.filter (· != c) })) ∧
    ∀ r spa, s.region e.i.toNat = some r → r.stopped = false → s.stalled r.part = false →
      let off := max r.prefetched r.demanded / 128 * 128
      off < r.seglim → off < r.demanded + 16384 → s.reach r.part (r.obj + off) false = .inr (spa, false) →
      let t := if s.cacheable (spa / 128) false && !s.cached (spa / 128) then s.fill (some r.part) (spa / 128) else s
      exec .evConfigPrefetch s = .next (t.modRegion r.id fun r => { r with prefetched := off + 128 })

/-- R125, R443, R444, R445, R453, R458 to R463, R473, R480, R492, R495, R497: the events of Escrow, of cuts and of queues. A withdrawn token moves to where there is room, and a firing's
image to the lowest free cell, its firing's tokens given up, and Escrow begins its write there; such an access, where no event waits for its line, changes no byte outside its bytes, and none at all if it reads; a beat counter that has run out is reported; a region without progress is frozen by a cut; a waiting snapshot goes on; a complete cut freezes or saves its region; a record
is written to the fault ring, and one of a tap to its buffer, or it is lost where the buffer is full; a request takes the first rectangle that fits; a done command publishes its completion; and
budgets stall and release their partition.
The words and the operands of events are the model's own (DESIGN CHOICE, log 2), and so are Escrow's accesses, begun in one step and performed in the next, and the bytes that
they leave, which are free (log 18), the partition that a tap's record is metered to (log 84), the loss of a record whose buffer has filled meanwhile (log 85), and
the freeze of a region whose watchdog expires in a SNAPSHOT's cut (log 105). -/
def Obligations.EscrowActs : Prop :=
  ∀ (s : State) (e : Ev), At s e →
    let i := e.i.toNat
    let j := e.j.toNat
    (∀ w b, (s.cluster i).withdrawn[j]? = some w → w.piece.buf.inPool = true → s.withdrawnPlace w.region i = some b →
      exec .evWithdrawnTokenMove s = .next (((s.modCluster i fun c => { c with
        withdrawn := setNth c.withdrawn j { w with piece := { w.piece with buf := b } },
        toSmap := satAdd 32 c.toSmap (b2n b.cell?.isSome) }).leaveBuf w.piece.tok.dst w.piece.tok.ctx
          w.piece.tok.port w.piece.arr w.piece.buf).tokenAccess w.region true b)) ∧
    (∀ im r k, s.images[i]? = some im → s.region im.region = some r → im.cell = none → im.ready = false → s.freeEscrowCell r.part = some k →
      (∀ y ∈ s.images.take i, y.cell ≠ none ∨ y.ready = true ∨ (s.region y.region).map (·.part) ≠ some r.part) →
      let out (x : Option Firing) : Option Firing := match x with
        | some f => if f.held ∧ f.region = im.region ∧ f.ctx = im.firing.ctx ∧ f.frame = im.firing.frame ∧
            f.iter = im.firing.iter ∧ f.ix = im.firing.ix then none else x
        | none => none
      let t := match s.slotOf im with | some x => s.gather im.pos x | none => s
      exec .evFiringImageWrite s = .next ((({ t with images := setNth t.images i { im with
        cell := some k, firing := { im.firing with gathered := true } } } : State).modNode im.pos fun n =>
          let n := n.remember r.part im.firing
          { n with slots := n.slots.map out }).cellAccess r.part true (4096 * k) 4096)) ∧
    (∀ p w off k, NoFills s → Memory.wf s.mem = true →
      let a := bits (s.partOf p).escArea.toNat 0 48 + off
      (w = false → (s.performCell p (w, off, k)).mem = s.mem) ∧
      ∀ x, x < a ∨ a + k ≤ x → Memory.read (s.performCell p (w, off, k)).mem x = Memory.read s.mem x) ∧
    (∀ o r, (s.ctx e.pos i).owner = some o → s.region o.region = some r → (s.ctx e.pos i).beat.arm = true →
      (s.ctx e.pos i).beat.left = 0 → s.canPost r.part = true →
      let b := (s.ctx e.pos i).beat
      exec .evBeatExpiry s = .next ((s.postFor r .nothing
        { cause := Cause.beat, detail := b.k, pos := e.pos, nk := nkOf e.pos, ctx := i, frame := b.frame, iter := b.iter, len := b.len, akind := 3,
          addr := s.edgeIn r e.pos i b.port, auxv := 2 ^ b.k, flags := if kindOf e.pos = .me then 0 else (s.ctx e.pos i).sf,
          parked := false }).modCtx e.pos i fun x => { x with beat := { x.beat with arm := false } })) ∧
    (∀ r, s.region i = some r →
      ((s.partOf r.part).wdEn = true → r.stopped = false → r.waiting = false → s.stalled r.part = false → r.stat ≠ 4 → s.liveWork r = true →
        s.hangAt r.part ≤ r.wdog → exec .evWatchdogExpiry s = .next (s.startCut r (.freeze false))) ∧
      (∀ q n, (s.partOf r.part).wdEn = true → r.frozen = false → r.aborting = false → r.waiting = false → s.stalled r.part = false →
        r.stat ≠ 4 → s.liveWork r = true → s.hangAt r.part ≤ r.wdog → r.cut = some (.snapshot q n) →
        exec .evWatchdogExpiry s = .next (s.modRegion r.id fun r => { r with cut := some (.freeze false) })) ∧
      (∀ ecc, r.cut = some (.freeze ecc) → s.cutDone r = true → exec .evCutComplete s = .next (s.freeze r ecc)) ∧
      (∀ q n sn, r.cut = some (.snapshot q n) → s.cutDone r = true → (s.snaps.find? fun x => decide (x.queue = q ∧ x.entry = n)) = some sn →
        exec .evCutComplete s = .next (s.save r sn)) ∧
      (∀ gx gy n c, r.waiting = true → s.partRuns r.part = true → (s.nextRequest r.part).map (·.id) = some r.id →
        s.findRect r.part r.wanted.1 r.wanted.2 = some (gx, gy) → s.headCmd r.queue = some (n, c) → r.fromSave = none →
        let q := { r with gx := gx, gy := gy, w := r.wanted.1, h := r.wanted.2 }
        exec .evRegionGrant s = .next (s.grantLaunch ((s.modRegion r.id fun _ => q).setSlice q) q c))) ∧
    (∀ sn, s.snaps[i]? = some sn → exec .evSliceElapsed s = .next (s.advanceSnap sn)) ∧
    (let p := s.partOf i
     ∀ rec rest, p.held = rec :: rest → p.ringRoom = true → s.dev.backed p.ringAt = true →
      exec .evFaultRingWrite s = .next (((s.writeLines none false false (cellsAt p.ringAt (rec.words.flatMap wordBytes))).1.tailOn i).roomFreed i)) ∧
    (let l := s.collectors.get [] i
     ∀ t, l[j]? = some t → (∀ x ∈ l.take j, x.slot ≠ t.slot) →
      let b := s.taps.get {} (i, t.slot)
      let a := b.base + 32 * (b.wp % (2 ^ b.lgsz * 128))
      s.dev.backed a = true →
      (b.full = true → exec .evTapRecordWrite s = .next { s with
        collectors := s.collectors.set i (dropNth l j), taps := s.taps.set (i, t.slot) { b with lost := satAdd 64 b.lost 1 } }) ∧
      (b.full = false → exec .evTapRecordWrite s = .next { (s.writeLines (some b.part) false false (cellsAt a (t.words.flatMap wordBytes))).1 with
        collectors := s.collectors.set i (dropNth l j),
        taps := s.taps.set (i, t.slot) { b with wp := (b.wp + 1) % 2 ^ 64 } })) ∧
    exec .evCompletionWrite s = .next ((s.finishAborts.settleAnswers).publishHead i) ∧
    (∀ (t : State) (q : Nat) (c : Started) (rest : List Started), (t.queue q).started = c :: rest →
      (c.done = false → t.publishHead q = t) ∧
      (c.done = true → c.cen = true → c.silent = false → t.ownsNfy (t.queue q).owner c.cnfy = true →
        t.publishHead q = (t.modQueue q fun x => { x with started := rest }).nfyMax c.cnfy c.cval)) ∧
    (i < 16 → (s.partOf i).exhausted = true → exec .evBudgetExhausted s = .next (s.modPart i fun x => { x with stalled := true })) ∧
    (i < 16 → (s.partOf i).budEn = true → s.usec / (s.partOf i).budPer = (s.partOf i).period + 1 →
      exec .evBudgetPeriod s = .next (s.modPart i fun x => { x.carry with stalled := false, period := (s.partOf i).period + 1 }))

/-! ## Host accesses and the platform -/

/-- R121, R126, R127, R342, R478, R487, R488, R494, R496: host writes. A full-size write to an enabled queue with room becomes its last entry, and every other one, one to a disabled queue among them, is dropped and counted; arming a notify register
writes ARMED alone; HS_SPLIT takes a share of at most 8 while every partition is in reset, and refuses any other; EN lets a partition in reset run; PART_INV drops translations; the tap registers
take the writes that R478 accepts; and a register access of another size or alignment writes nothing.
The words and the operands of events are the model's own (DESIGN CHOICE, log 2), and so are the read that stands beside REGISTER_WRITE (log 20), the flags of a write to a disabled
queue that is also malformed or finds it full (log 75), an invalidation that acts at once (log 53) and a tap buffer's base as it is written (log 49). -/
def Obligations.HostWrites : Prop :=
  ∀ (s : State) (e : Ev), At s e → s.ready = true →
    (let q := e.i.toNat % 64
     ∃ t, exec .evQueueWindowWrite s = .next t ∧ t.mem = s.mem ∧ (∀ k, k ≠ q → t.queue k = s.queue k) ∧
      (e.data.length = 64 → e.j.toNat % 64 = 0 → (s.queue q).fifo.length < 64 → (s.queue q).en = true →
        t.queue q = { s.queue q with fifo := (s.queue q).fifo ++ [wordsOfBytes 8 e.data] }) ∧
      (e.data.length ≠ 64 ∨ e.j.toNat % 64 ≠ 0 →
        t.queue q = { s.queue q with drops := satAdd 32 (s.queue q).drops 1, badwr := true }) ∧
      (e.data.length = 64 → e.j.toNat % 64 = 0 → 64 ≤ (s.queue q).fifo.length →
        t.queue q = { s.queue q with drops := satAdd 32 (s.queue q).drops 1, ovf := true }) ∧
      (e.data.length = 64 → e.j.toNat % 64 = 0 → (s.queue q).fifo.length < 64 → (s.queue q).en = false →
        t.queue q = { s.queue q with drops := satAdd 32 (s.queue q).drops 1 })) ∧
    (let k := e.i.toNat % 256
     ∃ t, exec .evNfyArm s = .next t ∧ t.nfy k = { s.nfy k with armed := bit e.v.toNat 62 } ∧ (∀ n, n ≠ k → t.nfy n = s.nfy n) ∧
      t.mem = s.mem ∧ t.queues = s.queues ∧ t.parts = s.parts) ∧
    (let ws := bits e.v.toNat 60 4
     ∃ t, exec .evHsSplitWrite s = .next t ∧
      (8 < ws ∨ s.allReset = false → t.dev = { s.dev with wsErr := true } ∧ t.mem = s.mem ∧ t.slices = s.slices) ∧
      (ws ≤ 8 → s.allReset = true → t.dev.ws = ws ∧
        (∀ a, s.dev.hb ≤ a → a < s.dev.hb + 24 * 2 ^ 20 * max ws s.dev.ws → Memory.read t.mem a = 0) ∧
        (∀ a, a < s.dev.hb ∨ s.dev.hb + 24 * 2 ^ 20 * max ws s.dev.ws ≤ a → Memory.read t.mem a = Memory.read s.mem a) ∧
        ∀ x ∈ t.slices, x.2.sets = [])) ∧
    (let p := e.i.toNat % 16
     (∃ t, exec .evPartitionEnable s = .next t ∧
      t.partOf p = { s.partOf p with en := true, state := if (s.partOf p).state = 0 then 1 else (s.partOf p).state } ∧
      (∀ k, k ≠ p → t.partOf k = s.partOf k) ∧ t.mem = s.mem) ∧
     let all := bit e.v.toNat 62
     let va := bits e.v.toNat 12 36
     let t := s.modPart p fun x => { x with invAll := all, invVa := va }
     exec .evPartInv s = .next (if bit e.v.toNat 63 then t.invalidatePart p (if all then none else some (va * 4096)) else t)) ∧
    (let d := (e.i.toNat % 8, e.j.toNat % 16)
     let x := s.taps.get {} d
     (x.en = true → exec .evEtBufWrite s = .next s) ∧
     (x.en = false → exec .evEtBufWrite s = .next { s with taps := s.taps.set d { x with
       lgsz := bits e.v.toNat 60 4, base := bits e.v.toNat 0 48, wp := 0, rp := 0, lost := 0 } }) ∧
     exec .evEtGrantWrite s = .next { s with taps := s.taps.set d { x with
       en := bit e.v.toNat 63, part := bits e.v.toNat 59 4, v := x.v && bit e.v.toNat 63 } }) ∧
    (let off := e.v.toNat
     (e.data = [] → exec .evRegisterWrite s = .next { s with hostRead := wordBytes (s.readBar off e.j.toNat) }) ∧
     (e.data ≠ [] → off < 0x800000 → e.data.length = 8 → off % 8 = 0 →
       exec .evRegisterWrite s = .next (s.writeAt off (BitVec.ofNat 64 (ofBytes e.data)))) ∧
     (e.data ≠ [] → off < 0x800000 → e.data.length ≠ 8 ∨ off % 8 ≠ 0 → exec .evRegisterWrite s = .next s))

/-- R484, R486: a host access to memory. In a device that is READY, where no event waits for its line at a home slice, a write within HBM or the H aperture leaves its bytes in memory and no other byte changes; a read changes no byte, and
where no line is bad the host holds memory's bytes; an access to an address that the device does not back is a fault.
The words and the operands of events are the model's own (DESIGN CHOICE, log 2), and so is the fault of an address that the device does not back, for which R486 names no effect (log 64). -/
def Obligations.HostMemory : Prop :=
  ∀ (s : State) (e : Ev), At s e →
    let a := e.v.toNat
    (s.ready = true → NoFills s → e.i ≠ 0 → (∀ k, k < e.data.length → inHbm (a + k) = true ∨ s.dev.inH (a + k) = true) → Memory.wf s.mem = true →
      ∃ t, exec .evHostMemAccess s = .next t ∧
        (∀ k, k < e.data.length → Memory.read t.mem (a + k) = e.data.getD k 0) ∧
        ∀ x, x < a ∨ a + e.data.length ≤ x → Memory.read t.mem x = Memory.read s.mem x) ∧
    (s.ready = true → NoFills s → e.i = 0 → (∀ k, k < e.j.toNat → inHbm (a + k) = true ∨ s.dev.inH (a + k) = true) →
      ∃ t, exec .evHostMemAccess s = .next t ∧ t.mem = s.mem ∧
        (s.badLines = [] → t.hostRead = Memory.reads s.mem a e.j.toNat)) ∧
    (∀ k, k < (if e.i = 0 then e.j.toNat else e.data.length) → s.hostSees (a + k) = false →
      exec .evHostMemAccess s = .fault .hostUnbacked)

/-- R496 to R503: the device's own events. A reset verifies the firmware slot, and enters INIT or RECOVERY with its state lost; INIT ends in READY with the trained ports up; a thermal trip
halts the device; power loss and FW_LOAD reset it, and FW_RAISE raises MINSVN; FW_ATTEST writes its report at ADDR + 4,096 and uses a leaf; throttling changes the temperature and the step alone; a partition reset
stops the partition and, with nothing under way, ends it; and the scrub counts what it finds.
The words and the operands of events are the model's own (DESIGN CHOICE, log 2), and so are what stands after a loss of state (log 17), the result of a firmware operation at an address that is none (log 48),
the boot ROM's verification in the step of the reset (log 52) and the places where the scrub strikes, a scratchpad's words among them (log 56). -/
def Obligations.DeviceEvents : Prop :=
  ∀ (s : State) (e : Ev), At s e →
    (exec .evPowerOnReset s = .next (s.lose 0).boot ∧
      ((s.lose 0).boot).dev.state = (if fwVerify s.dev.fwSlot s.dev.minSvn = 0 then 2 else 1) ∧
      ((s.lose 0).boot).regions = [] ∧ ((s.lose 0).boot).cyc = 0 ∧ ((s.lose 0).boot).dev.fwSlot = s.dev.fwSlot) ∧
    (s.dev.state = 2 → ∃ t, exec .evInitComplete s = .next t ∧ t.dev.state = 3 ∧ t.mem = s.mem ∧
      (∀ p, p < 36 → bit e.v.toNat p = true → (t.link p).up = true) ∧ (∀ p, p < 36 → bit e.v.toNat p = false → t.link p = s.link p)) ∧
    (exec .evThrottleStep s = .next { s with dev := { s.dev with
      temp := e.j.toNat % 256, thr := if s.dev.cap < e.i.toNat ∨ 95 < e.j.toNat then min (s.dev.thr + 1) 6 else s.dev.thr - 1 } }) ∧
    (110 ≤ e.i.toNat → ∃ t, exec .evThermalTrip s = .next t ∧ t.dev.state = 4 ∧ t.regions = [] ∧ t.dev.temp = e.i.toNat % 256) ∧
    (let torn := s.dev.fwBusy && s.dev.fwOp == 1 && e.i == 1 && s.loadResult == 0
     exec .evPowerLoss s = .next (({ s with dev := { s.dev with fwSlot := if torn then [] else s.dev.fwSlot } } : State).lose 0)) ∧
    (s.dev.fwBusy = true →
      (s.dev.fwOp = 1 →
        exec .evFwLoad s = .next (if s.loadResult = 0 then (({ s with dev := { s.dev with fwSlot := s.imageAt } } : State).lose 0).boot
          else { s with dev := { s.dev with fwBusy := false, fwResult := s.loadResult } })) ∧
      (s.dev.fwOp = 2 → exec .evFwRaise s = .next { s with dev := { s.dev with
        minSvn := max s.dev.minSvn s.dev.svn, fwBusy := false, fwResult := 0 } }) ∧
      (s.dev.fwOp = 3 → 0 < s.dev.leaves → s.dev.fwAddrOk = true →
        let head := s.reportHead (Memory.reads s.mem s.dev.fwAddr 32)
        let all := head ++ identitySignature (2 ^ 20 - s.dev.leaves) head ++ vendorEndorsement
        let t := (s.writeLines none false false (cellsAt (s.dev.fwAddr + 4096) all)).1
        exec .evFwAttest s = .next { t with dev := { t.dev with leaves := t.dev.leaves - 1, fwBusy := false, fwResult := 0 } }) ∧
      (s.dev.fwOp = 3 → s.dev.leaves = 0 → exec .evFwAttest s = .next { s with dev := { s.dev with fwBusy := false, fwResult := 5 } })) ∧
    (let p := e.i.toNat % 16
     s.ready = true → (s.partOf p).rst = false → exec .evPartitionReset s = .next ((s.startReset p).advanceReset p)) ∧
    ((e.i = 1 → exec .evPatrolScrub s = .next { s with dev := { s.dev with corr := satAdd 32 s.dev.corr 1 } }) ∧
     (e.i = 2 → ∃ t, exec .evPatrolScrub s = .next t ∧ t.dev.uncorr = satAdd 32 s.dev.uncorr 1 ∧ e.v.toNat ∈ t.badLines ∧ t.mem = s.mem) ∧
     (e.i = 7 → ∃ t, exec .evPatrolScrub s = .next t ∧ t.dev.uncorr = satAdd 32 s.dev.uncorr 1 ∧ e.j.toNat ∈ (t.me e.pos).bad ∧ t.mem = s.mem))

/-! ## The whole machine -/

namespace Sys2Proof.Claims

/-- The instructions that a firing executes and that write no byte of memory at once: those of the Compute Element, the Token Engine, the Memory
Element, the Home Slices, the Copy Engine, the Numeric Unit and Escrow. -/
def firingInsns (n : Niw) : List Instr :=
  (arithRows n).map (·.i) ++ (logicRows n).map (·.i) ++ (moveRows n).map (·.i) ++ fieldInsns n ++ crossInsns n ++ floatInsns n ++ numericInsns n ++
  copyInsns n ++
  [.addc n, .subb n, .nop n, .lpack n, .qnt n, .alloc n, .free n, .emit n, .emitt n, .iter n, .split n, .steer n, .eos n, .depth n,
   .ld n, .ldg n, .ldl n, .lda n, .ldb n, .lds n, .ldsg n, .st n, .stg n, .stm n, .str n, .sts n, .stss n, .stz n, .sopen n, .sseek n, .sclose n,
   .sbar n, .sflush n, .fence n, .probe n, .pfetch n, .scnt n, .xwb n, .xinv n, .smap n, .hadd n, .hfadd n, .hmin n, .hmax n, .hfmin n, .hfmax n,
   .hand n, .hor n, .hxor n, .hxchg n, .hcas n, .hinc n, .hred n, .hseq n, .trap n, .trapif n, .flags n, .flagc n, .poison n, .pchkMask n,
   .pchkTrap n, .pchkCnt n, .beat n, .beatOff n, .tapmOn n, .tapmOff n]

/-- A node without its Chits in use, which a load takes at the node that its reply goes to (R221). -/
def withoutChits (n : Node) : Node := { n with ctxs := n.ctxs.map fun x => { x with used := [] } }

/-- The firing that a turn of a node fetches for: in its slot, not held, its region not frozen (R173, R446, R459). -/
def Fetches (s : State) (c : Coord) (slot : Nat) (f : Firing) : Prop :=
  (s.node c).slot slot = some f ∧ f.held = false ∧ s.canRun f.region = true

end Sys2Proof.Claims

/-- What one step does. With no turn left the machine stays as it is; otherwise the next turn is taken off, Escrow's accesses to its cells that are under way are performed (R443), its time passes, and where the unit's words decode to a well-formed
instruction, the step is that instruction's meaning, on what the turn acts on. A firing's turn fetches the word at its place in its sequence (R79, R82); a queue's, its oldest
entry (R121); a control stream's, the word at CC (R104). Nothing to fetch: only the time passes. A slot before which another of its node goes issues nothing in its turn (R173, R222), and with no other firing at its node none goes before it; a zero-mask
firing of a Compute Element or Numeric Unit runs its further words behind the first, until one waits or faults (R173). That the machine does nothing without a turn, the schedule itself, and
its order where the manual leaves it open are the model's (log 2, log 28), and so is the step in which Escrow's accesses are performed (log 18). -/
def Obligations.StepRunsTheDecoded : Prop :=
  (∀ s : State, s.turns = [] → step s = .next s) ∧
  ∀ (s : State) (t : Turn) (rest : List Turn), s.turns = t :: rest →
    let a : State := { s with turns := rest, freeCtr := s.freeCtr + 1 }
    let b := a.performCells.tick t.cycles t.usec
    ((∀ p ∈ s.parts, p.2.cellOps = []) → b = a.tick t.cycles t.usec) ∧
    (b.fetch t.act = none → step s = .next b) ∧
    (∀ r c i, b.fetch t.act = some (r, c) → decode r = .ok i → i.wf = true → b.yields t.act = false →
      step s = zeroAfter (b.zeroRun t.act) (exec i.instr { b with cur := { c with arg := i.arg } }) ∧
      (b.zeroRun t.act = none → step s = exec i.instr { b with cur := { c with arg := i.arg } })) ∧
    (∀ r c, b.fetch t.act = some (r, c) → b.yields t.act = true → step s = .next b) ∧
    ((∀ c slot, t.act ≠ .fire c slot) → b.yields t.act = false ∧ b.zeroRun t.act = none) ∧
    (∀ c slot f, t.act = .fire c slot → (b.node c).slot slot = some f →
      ((∀ k g, k ≠ slot → (b.node c).slot k ≠ some g) → b.yields t.act = false) ∧
      b.zeroRun t.act = if f.tmask = 0 ∧ (kindOf c = .ce ∨ kindOf c = .nu) then some (c, slot, f.entry, f.ix + 1) else none) ∧
    (∀ (fuel : Nat) (u : State) (c : Coord) (slot : Nat) (f : Firing) (r : Raw) (x : Cur) (i : Fetched), (u.node c).slot slot = some f →
      u.fetch (.fire c slot) = some (r, x) → decode r = .ok i → i.wf = true →
      u.zeroRest (fuel + 1) (c, slot, f.entry, f.ix) = match exec i.instr { u with cur := { x with arg := i.arg } } with
        | .next v => v.zeroRest fuel (c, slot, f.entry, f.ix + 1)
        | o => o) ∧
    (∀ c slot f, t.act = .fire c slot → b.ready = true → Fetches b c slot f →
      b.fetch t.act = some ({ src := .node, words := [f.words.getD f.ix 0] }, { pos := c, slot := slot, region := f.region })) ∧
    (∀ q ws more, t.act = .command q → b.ready = true → (b.queue q).fifo = ws :: more →
      b.fetch t.act = some ({ src := .queue, words := ws }, { pos := mkCoord 0 0 0, queue := q })) ∧
    ∀ k r w, t.act = .control k → b.ready = true → b.region k = some r → (r.stat = 2 ∨ r.stat = 3 ∨ r.stat = 5) → r.cut = none → r.frozen = false →
      r.aborting = false → r.ccws[r.cc]? = some w →
      b.fetch t.act = some ({ src := .control, words := [w] }, { pos := r.seqCoord, region := k })

namespace Sys2Proof.Claims

/-- The fields of an instruction that reads no others: no predicate, RNE, no option, no immediate (R57). -/
def bareNiw (ty : Ty) (d : Dst) (a b c : Sel) : Niw :=
  { ty := ty, d := d, a := a, b := b, c := c, pred := .token, rm := .rne, sat := false, fz := false, opt := 0, imm := 0 }

/-- A node's word reads as an instruction. -/
def reads (w : Word) (i : Instr) : Prop := decode { src := .node, words := [w] } = .ok { instr := i }

/-- A control command's word reads as an instruction. -/
def readsCcw (w : Word) (i : Instr) : Prop := decode { src := .control, words := [w] } = .ok { instr := i }

end Sys2Proof.Claims

/-- R34, R56, R72, R122: the manual's worked encodings, one or more of every family, and a strobe and a queue entry written out from their layouts, decode to the instructions that they stand for. -/
def Obligations.WordsDecode : Prop :=
  reads 0x43A0212203000000 (.ffma { bareNiw .f32 (.t 0) (.p 0) (.p 1) (.t 2) with rm := .rtz, sat := true }) ∧
  reads 0x012423BF4000FFFD (.add { bareNiw .i32 (.o 0) (.p 0) .imm .none with pred := .mask 1 false, imm := 0xFFFD }) ∧
  reads 0x15618FBF70000004 (.shl { bareNiw .n32 (.t 3) (.t 3) .imm .none with pred := .mask 2 true, imm := 4 }) ∧
  reads 0x272AA1FF00020000 (.cmpm { bareNiw .i32 (.m 1) (.p 0) (.k 3) .none with opt := 2 }) ∧
  reads 0x8060FFFF00000003 (.alloc { bareNiw .n32 (.t 1) .none .none .none with imm := 3 }) ∧
  reads 0x82A4A3FF00000001 (.emit { bareNiw .f32 (.o 1) (.p 0) .none .none with imm := 1 }) ∧
  reads 0x902FB93F0045FFF8 (.ld { bareNiw .i32 .none (.k 2) (.p 1) .none with opt := 0x45, imm := 0xFFF8 }) ∧
  reads 0x9DAFA51F00040000 (.stss { bareNiw .f32 .none (.p 1) (.p 0) .none with opt := 4 }) ∧
  reads 0x7B2123BF01000007 (.idiv { bareNiw .i32 (.t 2) (.p 0) .imm .none with sat := true, imm := 7 }) ∧
  reads 0xB60FA31F00000071 (.cpya { bareNiw .n8 .none (.p 0) .zero .none with ty := Ty.ofCode 0, imm := 0x71 }) ∧
  reads 0xC20FE3E900030002 (.mnrunP { bareNiw (Ty.ofCode 0) .none .zero .none (.p 1) with opt := 3, imm := 2 }) ∧
  reads 0xDA64B909005D0000 (.hcas { bareNiw .n32 (.o 1) (.k 2) (.p 0) (.p 1) with opt := 0x5D }) ∧
  reads 0xE16FA12A00140000 (.wlpush { bareNiw .n32 .none (.p 0) (.p 1) (.p 2) with opt := 0x14 }) ∧
  reads 0xE80FB908006403F8 (.lput { bareNiw (Ty.ofCode 0) .none (.k 2) (.p 0) (.p 0) with opt := 0x64, imm := 0x3F8 }) ∧
  reads 0xF9AFA11F00070007 (.trapif { bareNiw .f32 .none (.p 0) (.p 0) .none with opt := 7, imm := 7 }) ∧
  readsCcw 0xF60000403FC00000 (.seqSlot 0 2 0x3FC00000) ∧ readsCcw 0xF100000000000400 (.seqRun 0 0 1024) ∧
  readsCcw 0xF5000C0000000001 (.seqNotify 12 1) ∧ readsCcw 0xF301000000030002 (.seqLoop 1 3 2) ∧ readsCcw 0xF700000000000000 .seqHalt ∧
  decode { src := .queue, words := [0x01800C0000000021, 44, 0x01007F0000400000, 0x0202000000000000, 0x3FA00000, 0, 0, 0] } =
    .ok { instr := .cmdLaunch { cen := true, cnfy := 12, lid := 0x21, cval := 44, w2 := 0x01007F0000400000, w3 := 0x0202000000000000,
                                w4 := 0x3FA00000, w5 := 0, w6 := 0, w7 := 0 } } ∧
  decode { src := .strobe, words := [0x0009014000000000] } = .ok { instr := .skPark, arg := .strobe 0x014000000000 }

/-- R53 to R65, R72, R73, R34, R122, R123, R410: the decoder reads every well-formed instruction back from its own encoding, with every field, and with what it carries. -/
def Obligations.DecodeReadsEncode : Prop := ∀ f : Fetched, f.wf = true → decode (encode f) = .ok f

/-- Memory's canonical form survives every step: addresses strictly rise, and no entry equals what an unlisted address reads as, so that equal memories are equal data. -/
def Obligations.StepKeepsMemory : Prop := ∀ s t : State, s.Good → step s = .next t → t.Good

/-- R126, R342, R487, R490, R496, R497, R499: what reset leaves. The device is in BOOT with its clocks at 0, HBASE at 0x200 GiB, no window share, the cap at 2,800 W, the scrub at 24 hours; every partition is in
reset with its budgets off and their period 1,000; no cluster is owned; every queue is off and empty; every notify value is 0 and unarmed; no region, token, strobe or packet exists; and memory is in its
canonical form. -/
def Obligations.ResetState : Prop :=
  let s := State.reset
  s.Good ∧ s.dev.state = 0 ∧ s.dev.thr = 0 ∧ s.cyc = 0 ∧ s.usec = 0 ∧ s.dev.hb = 0x8000000000 ∧ s.dev.ws = 0 ∧ s.dev.wsErr = false ∧ s.dev.cap = 2800 ∧
  s.dev.hours = 24 ∧ s.dev.corr = 0 ∧ s.dev.uncorr = 0 ∧ s.dev.fwCtl = 0 ∧ s.dev.fwBusy = false ∧ s.dev.fwResult = 0 ∧
  (∀ p, (s.partOf p).state = 0 ∧ (s.partOf p).en = false ∧ (s.partOf p).rst = false ∧ (s.partOf p).budEn = false ∧ (s.partOf p).budPer = 1000 ∧
    (s.partOf p).head = 0 ∧ (s.partOf p).tail = 0 ∧ (s.partOf p).ptrV = false) ∧
  (∀ g, s.dev.owner.get (false, 0) g = (false, 0)) ∧ (∀ i, (s.dev.cxm.get (false, 0, 0) i).1 = false) ∧
  (∀ q, (s.queue q).en = false ∧ (s.queue q).fifo = [] ∧ (s.queue q).drops = 0 ∧ (s.queue q).badwr = false ∧ (s.queue q).ovf = false) ∧
  (∀ k, (s.nfy k).value = 0 ∧ (s.nfy k).armed = false ∧ (s.nfy k).msien = false) ∧
  s.regions = [] ∧ s.wire = [] ∧ s.strobes = [] ∧ s.packets = []

/-- Every instruction executes: in every state it answers a next state, but for a host access to an address that the device does not back, whose fault is the model's choice (log 64); and
so does every step. Nothing is refused. -/
def Obligations.EveryInstructionRuns : Prop :=
  (∀ (i : Instr) (s : State), i ≠ .evHostMemAccess → ∃ t, exec i s = .next t) ∧
  (∀ s : State, (∃ t, exec .evHostMemAccess s = .next t) ∨ exec .evHostMemAccess s = .fault .hostUnbacked) ∧
  ∀ s : State, s.goesOn ∨ step s = .fault .hostUnbacked

/-- The frame of a firing's instructions: a Compute Element's, Token Engine's (but for the party operations), Memory Element's, Home Slices', Copy Engine's, Numeric Unit's or Escrow instruction changes no byte of memory
when it is executed, whatever it does and whether or not it faults: stores stand in the write buffer until they drain, and atomics and copies are performed by later events. Nor does it change a queue, a notify register, a
matching store, but for the scale tokens whose values the firing gathers in its own node's, a Matrix Node, a Till (but for the frames that the Mint grants, before
an ALLOC, to the requests that came before it), a link, what is under way on the networks, or any other node, but for the Chits there that a load
takes for its reply. -/
def Sys2Proof.Claims.FiringFrameAll : Prop :=
  ∀ (n : Niw) (i : Instr) (s t : State), i ∈ firingInsns n → exec i s = .next t →
    t.mem = s.mem ∧ t.queues = s.queues ∧ t.notify = s.notify ∧ (∀ c, { t.store c with scales := [] } = { s.store c with scales := [] }) ∧
    (∀ c, c ≠ storeOf s.cur.pos → t.store c = s.store c) ∧ t.matrices = s.matrices ∧ (i ≠ .alloc n → t.tills = s.tills) ∧ t.links = s.links ∧
    t.windows = s.windows ∧ t.wire = s.wire ∧ t.packets = s.packets ∧ t.dev = s.dev ∧ t.turns = s.turns ∧ t.cyc = s.cyc ∧
    ∀ c, c ≠ s.cur.pos → withoutChits (t.node c) = withoutChits (s.node c)

/-- The frames of a firing's instructions: for all of them, and, wider, for those of the Compute Element and the Numeric Unit. -/
def Obligations.FiringFrame : Prop :=
  Claims.FiringFrameAll ∧ Claims.ArithmeticFrame

/-- R5, and the canonical form of memory: a byte written is read back and no other byte changes; the form is kept; and memories in the form that read alike are equal. -/
def Obligations.MemoryReadsBack : Prop :=
  (∀ (m : List Host.Cell) (a : Nat) (b : Byte), Memory.wf m = true →
    Memory.wf (Memory.write m a b) = true ∧ Memory.read (Memory.write m a b) a = b ∧
    ∀ x, x ≠ a → Memory.read (Memory.write m a b) x = Memory.read m x) ∧
  (∀ m n : List Host.Cell, Memory.wf m = true → Memory.wf n = true → (∀ a, Memory.read m a = Memory.read n a) → m = n) ∧
  ∀ (m : List Host.Cell) (a : Nat) (bs : List Byte), Memory.wf m = true →
    Memory.value (Memory.writes m a bs) a bs.length = ofBytes bs
end

