-- ==== Sys2Proof/Laws/State.lean ====
section
/-! SUPPORT. Lemmas on the state: tables answer what was put into them, and each update of the state leaves every other
field as it is. -/

namespace Sys2Proof.Machine

/-! ## Tables -/

@[simp] theorem Table.get_set_self {κ α : Type} [DecidableEq κ] (t : Table κ α) (d : α) (k : κ) (v : α) :
    (Table.set t k v).get d k = v := by
  induction t with
  | nil => simp [Table.set, Table.get]
  | cons x rest ih =>
    obtain ⟨k', v'⟩ := x
    by_cases h : k' = k <;> simp [Table.set, Table.get, h, ih]

@[simp] theorem Table.get_set_ne {κ α : Type} [DecidableEq κ] (t : Table κ α) (d : α) (k j : κ) (v : α) (h : j ≠ k) :
    (Table.set t k v).get d j = Table.get t d j := by
  induction t with
  | nil => simp [Table.set, Table.get, Ne.symm h]
  | cons x rest ih =>
    obtain ⟨k', v'⟩ := x
    by_cases hk : k' = k
    · subst hk; simp [Table.set, Table.get, Ne.symm h]
    · by_cases hj : k' = j
      · subst hj; simp [Table.set, Table.get, h]
      · simp [Table.set, Table.get, hk, hj, ih]

/-! ## What a changed part reads as -/

@[simp] theorem State.node_modNode (s : State) (c : Coord) (f : Node → Node) : (s.modNode c f).node c = f (s.node c) := by
  simp [State.node, State.modNode, State.setNode]
@[simp] theorem State.node_modNode_ne (s : State) (c d : Coord) (f : Node → Node) (h : d ≠ c) : (s.modNode c f).node d = s.node d := by
  simp [State.node, State.modNode, State.setNode, h]
@[simp] theorem State.node_modCtx_ne (s : State) (c d : Coord) (k : Nat) (f : Ctx → Ctx) (h : d ≠ c) : (s.modCtx c k f).node d = s.node d := by
  simp [State.modCtx, h]
@[simp] theorem State.node_modSlot_ne (s : State) (c d : Coord) (k : Nat) (f : Firing → Firing) (h : d ≠ c) : (s.modSlot c k f).node d = s.node d := by
  simp [State.modSlot, h]
@[simp] theorem State.store_modStore (s : State) (c : Coord) (f : Store → Store) : (s.modStore c f).store c = f (s.store c) := by
  simp [State.store, State.modStore]
@[simp] theorem State.cluster_modCluster (s : State) (g : Nat) (f : Cluster → Cluster) : (s.modCluster g f).cluster g = f (s.cluster g) := by
  simp [State.cluster, State.modCluster]
@[simp] theorem State.me_modMe (s : State) (c : Coord) (f : Me → Me) : (s.modMe c f).me c = f (s.me c) := by
  simp [State.me, State.modMe]
@[simp] theorem State.me_modMe_ne (s : State) (c d : Coord) (f : Me → Me) (h : d ≠ c) : (s.modMe c f).me d = s.me d := by
  simp [State.me, State.modMe, h]
@[simp] theorem State.partOf_modPart (s : State) (p : Nat) (f : Partition → Partition) : (s.modPart p f).partOf p = f (s.partOf p) := by
  simp [State.partOf, State.modPart]
@[simp] theorem State.partOf_modPart_ne (s : State) (p q : Nat) (f : Partition → Partition) (h : q ≠ p) :
    (s.modPart p f).partOf q = s.partOf q := by
  simp [State.partOf, State.modPart, h]
@[simp] theorem State.queue_modQueue (s : State) (q : Nat) (f : Queue → Queue) : (s.modQueue q f).queue q = f (s.queue q) := by
  simp [State.queue, State.modQueue]
@[simp] theorem State.nfy_modNfy (s : State) (k : Nat) (f : Notify → Notify) : (s.modNfy k f).nfy k = f (s.nfy k) := by
  simp [State.nfy, State.modNfy]
@[simp] theorem State.copy_modCopy (s : State) (c : Coord) (f : Copy → Copy) : (s.modCopy c f).copy c = f (s.copy c) := by
  simp [State.copy, State.modCopy]
@[simp] theorem State.matrix_modMatrix (s : State) (c : Coord) (f : Matrix → Matrix) : (s.modMatrix c f).matrix c = f (s.matrix c) := by
  simp [State.matrix, State.modMatrix]
@[simp] theorem State.till_modTill (s : State) (c : Coord) (f : Till → Till) : (s.modTill c f).till c = f (s.till c) := by
  simp [State.till, State.modTill]
@[simp] theorem State.slice_modSlice (s : State) (h : Nat) (f : Slice → Slice) : (s.modSlice h f).slice h = f (s.slice h) := by
  simp [State.slice, State.modSlice]
@[simp] theorem State.link_modLink (s : State) (p : Nat) (f : LinkNode → LinkNode) : (s.modLink p f).link p = f (s.link p) := by
  simp [State.link, State.modLink]
@[simp] theorem State.win_modWin (s : State) (w : Nat) (f : RxWin → RxWin) : (s.modWin w f).win w = f (s.win w) := by
  simp [State.win, State.modWin]

/-! ## What an update leaves as it is -/

section
variable (s : State) (c : Coord) (n : Node)
@[simp] theorem State.setNode_freeCtr : (s.setNode c n).freeCtr = s.freeCtr := rfl
@[simp] theorem State.setNode_turns : (s.setNode c n).turns = s.turns := rfl
@[simp] theorem State.setNode_cur : (s.setNode c n).cur = s.cur := rfl
@[simp] theorem State.setNode_cyc : (s.setNode c n).cyc = s.cyc := rfl
@[simp] theorem State.setNode_usec : (s.setNode c n).usec = s.usec := rfl
@[simp] theorem State.setNode_mem : (s.setNode c n).mem = s.mem := rfl
@[simp] theorem State.setNode_stores : (s.setNode c n).stores = s.stores := rfl
@[simp] theorem State.setNode_clusters : (s.setNode c n).clusters = s.clusters := rfl
@[simp] theorem State.setNode_mes : (s.setNode c n).mes = s.mes := rfl
@[simp] theorem State.setNode_regions : (s.setNode c n).regions = s.regions := rfl
@[simp] theorem State.setNode_nextRegion : (s.setNode c n).nextRegion = s.nextRegion := rfl
@[simp] theorem State.setNode_parts : (s.setNode c n).parts = s.parts := rfl
@[simp] theorem State.setNode_queues : (s.setNode c n).queues = s.queues := rfl
@[simp] theorem State.setNode_snaps : (s.setNode c n).snaps = s.snaps := rfl
@[simp] theorem State.setNode_heldAnswers : (s.setNode c n).heldAnswers = s.heldAnswers := rfl
@[simp] theorem State.setNode_notify : (s.setNode c n).notify = s.notify := rfl
@[simp] theorem State.setNode_msix : (s.setNode c n).msix = s.msix := rfl
@[simp] theorem State.setNode_wire : (s.setNode c n).wire = s.wire := rfl
@[simp] theorem State.setNode_strobes : (s.setNode c n).strobes = s.strobes := rfl
@[simp] theorem State.setNode_ops : (s.setNode c n).ops = s.ops := rfl
@[simp] theorem State.setNode_nextOp : (s.setNode c n).nextOp = s.nextOp := rfl
@[simp] theorem State.setNode_walks : (s.setNode c n).walks = s.walks := rfl
@[simp] theorem State.setNode_images : (s.setNode c n).images = s.images := rfl
@[simp] theorem State.setNode_taps : (s.setNode c n).taps = s.taps := rfl
@[simp] theorem State.setNode_collectors : (s.setNode c n).collectors = s.collectors := rfl
@[simp] theorem State.setNode_copies : (s.setNode c n).copies = s.copies := rfl
@[simp] theorem State.setNode_matrices : (s.setNode c n).matrices = s.matrices := rfl
@[simp] theorem State.setNode_slices : (s.setNode c n).slices = s.slices := rfl
@[simp] theorem State.setNode_badLines : (s.setNode c n).badLines = s.badLines := rfl
@[simp] theorem State.setNode_tills : (s.setNode c n).tills = s.tills := rfl
@[simp] theorem State.setNode_clearings : (s.setNode c n).clearings = s.clearings := rfl
@[simp] theorem State.setNode_transfers : (s.setNode c n).transfers = s.transfers := rfl
@[simp] theorem State.setNode_nextTransfer : (s.setNode c n).nextTransfer = s.nextTransfer := rfl
@[simp] theorem State.setNode_links : (s.setNode c n).links = s.links := rfl
@[simp] theorem State.setNode_windows : (s.setNode c n).windows = s.windows := rfl
@[simp] theorem State.setNode_packets : (s.setNode c n).packets = s.packets := rfl
@[simp] theorem State.setNode_sentPackets : (s.setNode c n).sentPackets = s.sentPackets := rfl
@[simp] theorem State.setNode_sentFlits : (s.setNode c n).sentFlits = s.sentFlits := rfl
@[simp] theorem State.setNode_saved : (s.setNode c n).saved = s.saved := rfl
@[simp] theorem State.setNode_nextSave : (s.setNode c n).nextSave = s.nextSave := rfl
@[simp] theorem State.setNode_hostRead : (s.setNode c n).hostRead = s.hostRead := rfl
@[simp] theorem State.setNode_dev : (s.setNode c n).dev = s.dev := rfl
end

section
variable (s : State) (c : Coord) (f : Node → Node)
@[simp] theorem State.modNode_freeCtr : (s.modNode c f).freeCtr = s.freeCtr := rfl
@[simp] theorem State.modNode_turns : (s.modNode c f).turns = s.turns := rfl
@[simp] theorem State.modNode_cur : (s.modNode c f).cur = s.cur := rfl
@[simp] theorem State.modNode_cyc : (s.modNode c f).cyc = s.cyc := rfl
@[simp] theorem State.modNode_usec : (s.modNode c f).usec = s.usec := rfl
@[simp] theorem State.modNode_mem : (s.modNode c f).mem = s.mem := rfl
@[simp] theorem State.modNode_stores : (s.modNode c f).stores = s.stores := rfl
@[simp] theorem State.modNode_clusters : (s.modNode c f).clusters = s.clusters := rfl
@[simp] theorem State.modNode_mes : (s.modNode c f).mes = s.mes := rfl
@[simp] theorem State.modNode_regions : (s.modNode c f).regions = s.regions := rfl
@[simp] theorem State.modNode_nextRegion : (s.modNode c f).nextRegion = s.nextRegion := rfl
@[simp] theorem State.modNode_parts : (s.modNode c f).parts = s.parts := rfl
@[simp] theorem State.modNode_queues : (s.modNode c f).queues = s.queues := rfl
@[simp] theorem State.modNode_snaps : (s.modNode c f).snaps = s.snaps := rfl
@[simp] theorem State.modNode_heldAnswers : (s.modNode c f).heldAnswers = s.heldAnswers := rfl
@[simp] theorem State.modNode_notify : (s.modNode c f).notify = s.notify := rfl
@[simp] theorem State.modNode_msix : (s.modNode c f).msix = s.msix := rfl
@[simp] theorem State.modNode_wire : (s.modNode c f).wire = s.wire := rfl
@[simp] theorem State.modNode_strobes : (s.modNode c f).strobes = s.strobes := rfl
@[simp] theorem State.modNode_ops : (s.modNode c f).ops = s.ops := rfl
@[simp] theorem State.modNode_nextOp : (s.modNode c f).nextOp = s.nextOp := rfl
@[simp] theorem State.modNode_walks : (s.modNode c f).walks = s.walks := rfl
@[simp] theorem State.modNode_images : (s.modNode c f).images = s.images := rfl
@[simp] theorem State.modNode_taps : (s.modNode c f).taps = s.taps := rfl
@[simp] theorem State.modNode_collectors : (s.modNode c f).collectors = s.collectors := rfl
@[simp] theorem State.modNode_copies : (s.modNode c f).copies = s.copies := rfl
@[simp] theorem State.modNode_matrices : (s.modNode c f).matrices = s.matrices := rfl
@[simp] theorem State.modNode_slices : (s.modNode c f).slices = s.slices := rfl
@[simp] theorem State.modNode_badLines : (s.modNode c f).badLines = s.badLines := rfl
@[simp] theorem State.modNode_tills : (s.modNode c f).tills = s.tills := rfl
@[simp] theorem State.modNode_clearings : (s.modNode c f).clearings = s.clearings := rfl
@[simp] theorem State.modNode_transfers : (s.modNode c f).transfers = s.transfers := rfl
@[simp] theorem State.modNode_nextTransfer : (s.modNode c f).nextTransfer = s.nextTransfer := rfl
@[simp] theorem State.modNode_links : (s.modNode c f).links = s.links := rfl
@[simp] theorem State.modNode_windows : (s.modNode c f).windows = s.windows := rfl
@[simp] theorem State.modNode_packets : (s.modNode c f).packets = s.packets := rfl
@[simp] theorem State.modNode_sentPackets : (s.modNode c f).sentPackets = s.sentPackets := rfl
@[simp] theorem State.modNode_sentFlits : (s.modNode c f).sentFlits = s.sentFlits := rfl
@[simp] theorem State.modNode_saved : (s.modNode c f).saved = s.saved := rfl
@[simp] theorem State.modNode_nextSave : (s.modNode c f).nextSave = s.nextSave := rfl
@[simp] theorem State.modNode_hostRead : (s.modNode c f).hostRead = s.hostRead := rfl
@[simp] theorem State.modNode_dev : (s.modNode c f).dev = s.dev := rfl
end

section
variable (s : State) (c : Coord) (k : Nat) (f : Ctx → Ctx)
@[simp] theorem State.modCtx_freeCtr : (s.modCtx c k f).freeCtr = s.freeCtr := rfl
@[simp] theorem State.modCtx_turns : (s.modCtx c k f).turns = s.turns := rfl
@[simp] theorem State.modCtx_cur : (s.modCtx c k f).cur = s.cur := rfl
@[simp] theorem State.modCtx_cyc : (s.modCtx c k f).cyc = s.cyc := rfl
@[simp] theorem State.modCtx_usec : (s.modCtx c k f).usec = s.usec := rfl
@[simp] theorem State.modCtx_mem : (s.modCtx c k f).mem = s.mem := rfl
@[simp] theorem State.modCtx_stores : (s.modCtx c k f).stores = s.stores := rfl
@[simp] theorem State.modCtx_clusters : (s.modCtx c k f).clusters = s.clusters := rfl
@[simp] theorem State.modCtx_mes : (s.modCtx c k f).mes = s.mes := rfl
@[simp] theorem State.modCtx_regions : (s.modCtx c k f).regions = s.regions := rfl
@[simp] theorem State.modCtx_nextRegion : (s.modCtx c k f).nextRegion = s.nextRegion := rfl
@[simp] theorem State.modCtx_parts : (s.modCtx c k f).parts = s.parts := rfl
@[simp] theorem State.modCtx_queues : (s.modCtx c k f).queues = s.queues := rfl
@[simp] theorem State.modCtx_snaps : (s.modCtx c k f).snaps = s.snaps := rfl
@[simp] theorem State.modCtx_heldAnswers : (s.modCtx c k f).heldAnswers = s.heldAnswers := rfl
@[simp] theorem State.modCtx_notify : (s.modCtx c k f).notify = s.notify := rfl
@[simp] theorem State.modCtx_msix : (s.modCtx c k f).msix = s.msix := rfl
@[simp] theorem State.modCtx_wire : (s.modCtx c k f).wire = s.wire := rfl
@[simp] theorem State.modCtx_strobes : (s.modCtx c k f).strobes = s.strobes := rfl
@[simp] theorem State.modCtx_ops : (s.modCtx c k f).ops = s.ops := rfl
@[simp] theorem State.modCtx_nextOp : (s.modCtx c k f).nextOp = s.nextOp := rfl
@[simp] theorem State.modCtx_walks : (s.modCtx c k f).walks = s.walks := rfl
@[simp] theorem State.modCtx_images : (s.modCtx c k f).images = s.images := rfl
@[simp] theorem State.modCtx_taps : (s.modCtx c k f).taps = s.taps := rfl
@[simp] theorem State.modCtx_collectors : (s.modCtx c k f).collectors = s.collectors := rfl
@[simp] theorem State.modCtx_copies : (s.modCtx c k f).copies = s.copies := rfl
@[simp] theorem State.modCtx_matrices : (s.modCtx c k f).matrices = s.matrices := rfl
@[simp] theorem State.modCtx_slices : (s.modCtx c k f).slices = s.slices := rfl
@[simp] theorem State.modCtx_badLines : (s.modCtx c k f).badLines = s.badLines := rfl
@[simp] theorem State.modCtx_tills : (s.modCtx c k f).tills = s.tills := rfl
@[simp] theorem State.modCtx_clearings : (s.modCtx c k f).clearings = s.clearings := rfl
@[simp] theorem State.modCtx_transfers : (s.modCtx c k f).transfers = s.transfers := rfl
@[simp] theorem State.modCtx_nextTransfer : (s.modCtx c k f).nextTransfer = s.nextTransfer := rfl
@[simp] theorem State.modCtx_links : (s.modCtx c k f).links = s.links := rfl
@[simp] theorem State.modCtx_windows : (s.modCtx c k f).windows = s.windows := rfl
@[simp] theorem State.modCtx_packets : (s.modCtx c k f).packets = s.packets := rfl
@[simp] theorem State.modCtx_sentPackets : (s.modCtx c k f).sentPackets = s.sentPackets := rfl
@[simp] theorem State.modCtx_sentFlits : (s.modCtx c k f).sentFlits = s.sentFlits := rfl
@[simp] theorem State.modCtx_saved : (s.modCtx c k f).saved = s.saved := rfl
@[simp] theorem State.modCtx_nextSave : (s.modCtx c k f).nextSave = s.nextSave := rfl
@[simp] theorem State.modCtx_hostRead : (s.modCtx c k f).hostRead = s.hostRead := rfl
@[simp] theorem State.modCtx_dev : (s.modCtx c k f).dev = s.dev := rfl
end

section
variable (s : State) (c : Coord) (i : Nat) (f : Firing → Firing)
@[simp] theorem State.modSlot_freeCtr : (s.modSlot c i f).freeCtr = s.freeCtr := rfl
@[simp] theorem State.modSlot_turns : (s.modSlot c i f).turns = s.turns := rfl
@[simp] theorem State.modSlot_cur : (s.modSlot c i f).cur = s.cur := rfl
@[simp] theorem State.modSlot_cyc : (s.modSlot c i f).cyc = s.cyc := rfl
@[simp] theorem State.modSlot_usec : (s.modSlot c i f).usec = s.usec := rfl
@[simp] theorem State.modSlot_mem : (s.modSlot c i f).mem = s.mem := rfl
@[simp] theorem State.modSlot_stores : (s.modSlot c i f).stores = s.stores := rfl
@[simp] theorem State.modSlot_clusters : (s.modSlot c i f).clusters = s.clusters := rfl
@[simp] theorem State.modSlot_mes : (s.modSlot c i f).mes = s.mes := rfl
@[simp] theorem State.modSlot_regions : (s.modSlot c i f).regions = s.regions := rfl
@[simp] theorem State.modSlot_nextRegion : (s.modSlot c i f).nextRegion = s.nextRegion := rfl
@[simp] theorem State.modSlot_parts : (s.modSlot c i f).parts = s.parts := rfl
@[simp] theorem State.modSlot_queues : (s.modSlot c i f).queues = s.queues := rfl
@[simp] theorem State.modSlot_snaps : (s.modSlot c i f).snaps = s.snaps := rfl
@[simp] theorem State.modSlot_heldAnswers : (s.modSlot c i f).heldAnswers = s.heldAnswers := rfl
@[simp] theorem State.modSlot_notify : (s.modSlot c i f).notify = s.notify := rfl
@[simp] theorem State.modSlot_msix : (s.modSlot c i f).msix = s.msix := rfl
@[simp] theorem State.modSlot_wire : (s.modSlot c i f).wire = s.wire := rfl
@[simp] theorem State.modSlot_strobes : (s.modSlot c i f).strobes = s.strobes := rfl
@[simp] theorem State.modSlot_ops : (s.modSlot c i f).ops = s.ops := rfl
@[simp] theorem State.modSlot_nextOp : (s.modSlot c i f).nextOp = s.nextOp := rfl
@[simp] theorem State.modSlot_walks : (s.modSlot c i f).walks = s.walks := rfl
@[simp] theorem State.modSlot_images : (s.modSlot c i f).images = s.images := rfl
@[simp] theorem State.modSlot_taps : (s.modSlot c i f).taps = s.taps := rfl
@[simp] theorem State.modSlot_collectors : (s.modSlot c i f).collectors = s.collectors := rfl
@[simp] theorem State.modSlot_copies : (s.modSlot c i f).copies = s.copies := rfl
@[simp] theorem State.modSlot_matrices : (s.modSlot c i f).matrices = s.matrices := rfl
@[simp] theorem State.modSlot_slices : (s.modSlot c i f).slices = s.slices := rfl
@[simp] theorem State.modSlot_badLines : (s.modSlot c i f).badLines = s.badLines := rfl
@[simp] theorem State.modSlot_tills : (s.modSlot c i f).tills = s.tills := rfl
@[simp] theorem State.modSlot_clearings : (s.modSlot c i f).clearings = s.clearings := rfl
@[simp] theorem State.modSlot_transfers : (s.modSlot c i f).transfers = s.transfers := rfl
@[simp] theorem State.modSlot_nextTransfer : (s.modSlot c i f).nextTransfer = s.nextTransfer := rfl
@[simp] theorem State.modSlot_links : (s.modSlot c i f).links = s.links := rfl
@[simp] theorem State.modSlot_windows : (s.modSlot c i f).windows = s.windows := rfl
@[simp] theorem State.modSlot_packets : (s.modSlot c i f).packets = s.packets := rfl
@[simp] theorem State.modSlot_sentPackets : (s.modSlot c i f).sentPackets = s.sentPackets := rfl
@[simp] theorem State.modSlot_sentFlits : (s.modSlot c i f).sentFlits = s.sentFlits := rfl
@[simp] theorem State.modSlot_saved : (s.modSlot c i f).saved = s.saved := rfl
@[simp] theorem State.modSlot_nextSave : (s.modSlot c i f).nextSave = s.nextSave := rfl
@[simp] theorem State.modSlot_hostRead : (s.modSlot c i f).hostRead = s.hostRead := rfl
@[simp] theorem State.modSlot_dev : (s.modSlot c i f).dev = s.dev := rfl
end

section
variable (s : State) (c : Coord) (f : Store → Store)
@[simp] theorem State.modStore_freeCtr : (s.modStore c f).freeCtr = s.freeCtr := rfl
@[simp] theorem State.modStore_turns : (s.modStore c f).turns = s.turns := rfl
@[simp] theorem State.modStore_cur : (s.modStore c f).cur = s.cur := rfl
@[simp] theorem State.modStore_cyc : (s.modStore c f).cyc = s.cyc := rfl
@[simp] theorem State.modStore_usec : (s.modStore c f).usec = s.usec := rfl
@[simp] theorem State.modStore_mem : (s.modStore c f).mem = s.mem := rfl
@[simp] theorem State.modStore_nodes : (s.modStore c f).nodes = s.nodes := rfl
@[simp] theorem State.modStore_clusters : (s.modStore c f).clusters = s.clusters := rfl
@[simp] theorem State.modStore_mes : (s.modStore c f).mes = s.mes := rfl
@[simp] theorem State.modStore_regions : (s.modStore c f).regions = s.regions := rfl
@[simp] theorem State.modStore_nextRegion : (s.modStore c f).nextRegion = s.nextRegion := rfl
@[simp] theorem State.modStore_parts : (s.modStore c f).parts = s.parts := rfl
@[simp] theorem State.modStore_queues : (s.modStore c f).queues = s.queues := rfl
@[simp] theorem State.modStore_snaps : (s.modStore c f).snaps = s.snaps := rfl
@[simp] theorem State.modStore_heldAnswers : (s.modStore c f).heldAnswers = s.heldAnswers := rfl
@[simp] theorem State.modStore_notify : (s.modStore c f).notify = s.notify := rfl
@[simp] theorem State.modStore_msix : (s.modStore c f).msix = s.msix := rfl
@[simp] theorem State.modStore_wire : (s.modStore c f).wire = s.wire := rfl
@[simp] theorem State.modStore_strobes : (s.modStore c f).strobes = s.strobes := rfl
@[simp] theorem State.modStore_ops : (s.modStore c f).ops = s.ops := rfl
@[simp] theorem State.modStore_nextOp : (s.modStore c f).nextOp = s.nextOp := rfl
@[simp] theorem State.modStore_walks : (s.modStore c f).walks = s.walks := rfl
@[simp] theorem State.modStore_images : (s.modStore c f).images = s.images := rfl
@[simp] theorem State.modStore_taps : (s.modStore c f).taps = s.taps := rfl
@[simp] theorem State.modStore_collectors : (s.modStore c f).collectors = s.collectors := rfl
@[simp] theorem State.modStore_copies : (s.modStore c f).copies = s.copies := rfl
@[simp] theorem State.modStore_matrices : (s.modStore c f).matrices = s.matrices := rfl
@[simp] theorem State.modStore_slices : (s.modStore c f).slices = s.slices := rfl
@[simp] theorem State.modStore_badLines : (s.modStore c f).badLines = s.badLines := rfl
@[simp] theorem State.modStore_tills : (s.modStore c f).tills = s.tills := rfl
@[simp] theorem State.modStore_clearings : (s.modStore c f).clearings = s.clearings := rfl
@[simp] theorem State.modStore_transfers : (s.modStore c f).transfers = s.transfers := rfl
@[simp] theorem State.modStore_nextTransfer : (s.modStore c f).nextTransfer = s.nextTransfer := rfl
@[simp] theorem State.modStore_links : (s.modStore c f).links = s.links := rfl
@[simp] theorem State.modStore_windows : (s.modStore c f).windows = s.windows := rfl
@[simp] theorem State.modStore_packets : (s.modStore c f).packets = s.packets := rfl
@[simp] theorem State.modStore_sentPackets : (s.modStore c f).sentPackets = s.sentPackets := rfl
@[simp] theorem State.modStore_sentFlits : (s.modStore c f).sentFlits = s.sentFlits := rfl
@[simp] theorem State.modStore_saved : (s.modStore c f).saved = s.saved := rfl
@[simp] theorem State.modStore_nextSave : (s.modStore c f).nextSave = s.nextSave := rfl
@[simp] theorem State.modStore_hostRead : (s.modStore c f).hostRead = s.hostRead := rfl
@[simp] theorem State.modStore_dev : (s.modStore c f).dev = s.dev := rfl
end

section
variable (s : State) (g : Nat) (f : Cluster → Cluster)
@[simp] theorem State.modCluster_freeCtr : (s.modCluster g f).freeCtr = s.freeCtr := rfl
@[simp] theorem State.modCluster_turns : (s.modCluster g f).turns = s.turns := rfl
@[simp] theorem State.modCluster_cur : (s.modCluster g f).cur = s.cur := rfl
@[simp] theorem State.modCluster_cyc : (s.modCluster g f).cyc = s.cyc := rfl
@[simp] theorem State.modCluster_usec : (s.modCluster g f).usec = s.usec := rfl
@[simp] theorem State.modCluster_mem : (s.modCluster g f).mem = s.mem := rfl
@[simp] theorem State.modCluster_nodes : (s.modCluster g f).nodes = s.nodes := rfl
@[simp] theorem State.modCluster_stores : (s.modCluster g f).stores = s.stores := rfl
@[simp] theorem State.modCluster_mes : (s.modCluster g f).mes = s.mes := rfl
@[simp] theorem State.modCluster_regions : (s.modCluster g f).regions = s.regions := rfl
@[simp] theorem State.modCluster_nextRegion : (s.modCluster g f).nextRegion = s.nextRegion := rfl
@[simp] theorem State.modCluster_parts : (s.modCluster g f).parts = s.parts := rfl
@[simp] theorem State.modCluster_queues : (s.modCluster g f).queues = s.queues := rfl
@[simp] theorem State.modCluster_snaps : (s.modCluster g f).snaps = s.snaps := rfl
@[simp] theorem State.modCluster_heldAnswers : (s.modCluster g f).heldAnswers = s.heldAnswers := rfl
@[simp] theorem State.modCluster_notify : (s.modCluster g f).notify = s.notify := rfl
@[simp] theorem State.modCluster_msix : (s.modCluster g f).msix = s.msix := rfl
@[simp] theorem State.modCluster_wire : (s.modCluster g f).wire = s.wire := rfl
@[simp] theorem State.modCluster_strobes : (s.modCluster g f).strobes = s.strobes := rfl
@[simp] theorem State.modCluster_ops : (s.modCluster g f).ops = s.ops := rfl
@[simp] theorem State.modCluster_nextOp : (s.modCluster g f).nextOp = s.nextOp := rfl
@[simp] theorem State.modCluster_walks : (s.modCluster g f).walks = s.walks := rfl
@[simp] theorem State.modCluster_images : (s.modCluster g f).images = s.images := rfl
@[simp] theorem State.modCluster_taps : (s.modCluster g f).taps = s.taps := rfl
@[simp] theorem State.modCluster_collectors : (s.modCluster g f).collectors = s.collectors := rfl
@[simp] theorem State.modCluster_copies : (s.modCluster g f).copies = s.copies := rfl
@[simp] theorem State.modCluster_matrices : (s.modCluster g f).matrices = s.matrices := rfl
@[simp] theorem State.modCluster_slices : (s.modCluster g f).slices = s.slices := rfl
@[simp] theorem State.modCluster_badLines : (s.modCluster g f).badLines = s.badLines := rfl
@[simp] theorem State.modCluster_tills : (s.modCluster g f).tills = s.tills := rfl
@[simp] theorem State.modCluster_clearings : (s.modCluster g f).clearings = s.clearings := rfl
@[simp] theorem State.modCluster_transfers : (s.modCluster g f).transfers = s.transfers := rfl
@[simp] theorem State.modCluster_nextTransfer : (s.modCluster g f).nextTransfer = s.nextTransfer := rfl
@[simp] theorem State.modCluster_links : (s.modCluster g f).links = s.links := rfl
@[simp] theorem State.modCluster_windows : (s.modCluster g f).windows = s.windows := rfl
@[simp] theorem State.modCluster_packets : (s.modCluster g f).packets = s.packets := rfl
@[simp] theorem State.modCluster_sentPackets : (s.modCluster g f).sentPackets = s.sentPackets := rfl
@[simp] theorem State.modCluster_sentFlits : (s.modCluster g f).sentFlits = s.sentFlits := rfl
@[simp] theorem State.modCluster_saved : (s.modCluster g f).saved = s.saved := rfl
@[simp] theorem State.modCluster_nextSave : (s.modCluster g f).nextSave = s.nextSave := rfl
@[simp] theorem State.modCluster_hostRead : (s.modCluster g f).hostRead = s.hostRead := rfl
@[simp] theorem State.modCluster_dev : (s.modCluster g f).dev = s.dev := rfl
end

section
variable (s : State) (c : Coord) (f : Me → Me)
@[simp] theorem State.modMe_freeCtr : (s.modMe c f).freeCtr = s.freeCtr := rfl
@[simp] theorem State.modMe_turns : (s.modMe c f).turns = s.turns := rfl
@[simp] theorem State.modMe_cur : (s.modMe c f).cur = s.cur := rfl
@[simp] theorem State.modMe_cyc : (s.modMe c f).cyc = s.cyc := rfl
@[simp] theorem State.modMe_usec : (s.modMe c f).usec = s.usec := rfl
@[simp] theorem State.modMe_mem : (s.modMe c f).mem = s.mem := rfl
@[simp] theorem State.modMe_nodes : (s.modMe c f).nodes = s.nodes := rfl
@[simp] theorem State.modMe_stores : (s.modMe c f).stores = s.stores := rfl
@[simp] theorem State.modMe_clusters : (s.modMe c f).clusters = s.clusters := rfl
@[simp] theorem State.modMe_regions : (s.modMe c f).regions = s.regions := rfl
@[simp] theorem State.modMe_nextRegion : (s.modMe c f).nextRegion = s.nextRegion := rfl
@[simp] theorem State.modMe_parts : (s.modMe c f).parts = s.parts := rfl
@[simp] theorem State.modMe_queues : (s.modMe c f).queues = s.queues := rfl
@[simp] theorem State.modMe_snaps : (s.modMe c f).snaps = s.snaps := rfl
@[simp] theorem State.modMe_heldAnswers : (s.modMe c f).heldAnswers = s.heldAnswers := rfl
@[simp] theorem State.modMe_notify : (s.modMe c f).notify = s.notify := rfl
@[simp] theorem State.modMe_msix : (s.modMe c f).msix = s.msix := rfl
@[simp] theorem State.modMe_wire : (s.modMe c f).wire = s.wire := rfl
@[simp] theorem State.modMe_strobes : (s.modMe c f).strobes = s.strobes := rfl
@[simp] theorem State.modMe_ops : (s.modMe c f).ops = s.ops := rfl
@[simp] theorem State.modMe_nextOp : (s.modMe c f).nextOp = s.nextOp := rfl
@[simp] theorem State.modMe_walks : (s.modMe c f).walks = s.walks := rfl
@[simp] theorem State.modMe_images : (s.modMe c f).images = s.images := rfl
@[simp] theorem State.modMe_taps : (s.modMe c f).taps = s.taps := rfl
@[simp] theorem State.modMe_collectors : (s.modMe c f).collectors = s.collectors := rfl
@[simp] theorem State.modMe_copies : (s.modMe c f).copies = s.copies := rfl
@[simp] theorem State.modMe_matrices : (s.modMe c f).matrices = s.matrices := rfl
@[simp] theorem State.modMe_slices : (s.modMe c f).slices = s.slices := rfl
@[simp] theorem State.modMe_badLines : (s.modMe c f).badLines = s.badLines := rfl
@[simp] theorem State.modMe_tills : (s.modMe c f).tills = s.tills := rfl
@[simp] theorem State.modMe_clearings : (s.modMe c f).clearings = s.clearings := rfl
@[simp] theorem State.modMe_transfers : (s.modMe c f).transfers = s.transfers := rfl
@[simp] theorem State.modMe_nextTransfer : (s.modMe c f).nextTransfer = s.nextTransfer := rfl
@[simp] theorem State.modMe_links : (s.modMe c f).links = s.links := rfl
@[simp] theorem State.modMe_windows : (s.modMe c f).windows = s.windows := rfl
@[simp] theorem State.modMe_packets : (s.modMe c f).packets = s.packets := rfl
@[simp] theorem State.modMe_sentPackets : (s.modMe c f).sentPackets = s.sentPackets := rfl
@[simp] theorem State.modMe_sentFlits : (s.modMe c f).sentFlits = s.sentFlits := rfl
@[simp] theorem State.modMe_saved : (s.modMe c f).saved = s.saved := rfl
@[simp] theorem State.modMe_nextSave : (s.modMe c f).nextSave = s.nextSave := rfl
@[simp] theorem State.modMe_hostRead : (s.modMe c f).hostRead = s.hostRead := rfl
@[simp] theorem State.modMe_dev : (s.modMe c f).dev = s.dev := rfl
end

section
variable (s : State) (p : Nat) (f : Partition → Partition)
@[simp] theorem State.modPart_freeCtr : (s.modPart p f).freeCtr = s.freeCtr := rfl
@[simp] theorem State.modPart_turns : (s.modPart p f).turns = s.turns := rfl
@[simp] theorem State.modPart_cur : (s.modPart p f).cur = s.cur := rfl
@[simp] theorem State.modPart_cyc : (s.modPart p f).cyc = s.cyc := rfl
@[simp] theorem State.modPart_usec : (s.modPart p f).usec = s.usec := rfl
@[simp] theorem State.modPart_mem : (s.modPart p f).mem = s.mem := rfl
@[simp] theorem State.modPart_nodes : (s.modPart p f).nodes = s.nodes := rfl
@[simp] theorem State.modPart_stores : (s.modPart p f).stores = s.stores := rfl
@[simp] theorem State.modPart_clusters : (s.modPart p f).clusters = s.clusters := rfl
@[simp] theorem State.modPart_mes : (s.modPart p f).mes = s.mes := rfl
@[simp] theorem State.modPart_regions : (s.modPart p f).regions = s.regions := rfl
@[simp] theorem State.modPart_nextRegion : (s.modPart p f).nextRegion = s.nextRegion := rfl
@[simp] theorem State.modPart_queues : (s.modPart p f).queues = s.queues := rfl
@[simp] theorem State.modPart_snaps : (s.modPart p f).snaps = s.snaps := rfl
@[simp] theorem State.modPart_heldAnswers : (s.modPart p f).heldAnswers = s.heldAnswers := rfl
@[simp] theorem State.modPart_notify : (s.modPart p f).notify = s.notify := rfl
@[simp] theorem State.modPart_msix : (s.modPart p f).msix = s.msix := rfl
@[simp] theorem State.modPart_wire : (s.modPart p f).wire = s.wire := rfl
@[simp] theorem State.modPart_strobes : (s.modPart p f).strobes = s.strobes := rfl
@[simp] theorem State.modPart_ops : (s.modPart p f).ops = s.ops := rfl
@[simp] theorem State.modPart_nextOp : (s.modPart p f).nextOp = s.nextOp := rfl
@[simp] theorem State.modPart_walks : (s.modPart p f).walks = s.walks := rfl
@[simp] theorem State.modPart_images : (s.modPart p f).images = s.images := rfl
@[simp] theorem State.modPart_taps : (s.modPart p f).taps = s.taps := rfl
@[simp] theorem State.modPart_collectors : (s.modPart p f).collectors = s.collectors := rfl
@[simp] theorem State.modPart_copies : (s.modPart p f).copies = s.copies := rfl
@[simp] theorem State.modPart_matrices : (s.modPart p f).matrices = s.matrices := rfl
@[simp] theorem State.modPart_slices : (s.modPart p f).slices = s.slices := rfl
@[simp] theorem State.modPart_badLines : (s.modPart p f).badLines = s.badLines := rfl
@[simp] theorem State.modPart_tills : (s.modPart p f).tills = s.tills := rfl
@[simp] theorem State.modPart_clearings : (s.modPart p f).clearings = s.clearings := rfl
@[simp] theorem State.modPart_transfers : (s.modPart p f).transfers = s.transfers := rfl
@[simp] theorem State.modPart_nextTransfer : (s.modPart p f).nextTransfer = s.nextTransfer := rfl
@[simp] theorem State.modPart_links : (s.modPart p f).links = s.links := rfl
@[simp] theorem State.modPart_windows : (s.modPart p f).windows = s.windows := rfl
@[simp] theorem State.modPart_packets : (s.modPart p f).packets = s.packets := rfl
@[simp] theorem State.modPart_sentPackets : (s.modPart p f).sentPackets = s.sentPackets := rfl
@[simp] theorem State.modPart_sentFlits : (s.modPart p f).sentFlits = s.sentFlits := rfl
@[simp] theorem State.modPart_saved : (s.modPart p f).saved = s.saved := rfl
@[simp] theorem State.modPart_nextSave : (s.modPart p f).nextSave = s.nextSave := rfl
@[simp] theorem State.modPart_hostRead : (s.modPart p f).hostRead = s.hostRead := rfl
@[simp] theorem State.modPart_dev : (s.modPart p f).dev = s.dev := rfl
end

section
variable (s : State) (q : Nat) (f : Queue → Queue)
@[simp] theorem State.modQueue_freeCtr : (s.modQueue q f).freeCtr = s.freeCtr := rfl
@[simp] theorem State.modQueue_turns : (s.modQueue q f).turns = s.turns := rfl
@[simp] theorem State.modQueue_cur : (s.modQueue q f).cur = s.cur := rfl
@[simp] theorem State.modQueue_cyc : (s.modQueue q f).cyc = s.cyc := rfl
@[simp] theorem State.modQueue_usec : (s.modQueue q f).usec = s.usec := rfl
@[simp] theorem State.modQueue_mem : (s.modQueue q f).mem = s.mem := rfl
@[simp] theorem State.modQueue_nodes : (s.modQueue q f).nodes = s.nodes := rfl
@[simp] theorem State.modQueue_stores : (s.modQueue q f).stores = s.stores := rfl
@[simp] theorem State.modQueue_clusters : (s.modQueue q f).clusters = s.clusters := rfl
@[simp] theorem State.modQueue_mes : (s.modQueue q f).mes = s.mes := rfl
@[simp] theorem State.modQueue_regions : (s.modQueue q f).regions = s.regions := rfl
@[simp] theorem State.modQueue_nextRegion : (s.modQueue q f).nextRegion = s.nextRegion := rfl
@[simp] theorem State.modQueue_parts : (s.modQueue q f).parts = s.parts := rfl
@[simp] theorem State.modQueue_snaps : (s.modQueue q f).snaps = s.snaps := rfl
@[simp] theorem State.modQueue_heldAnswers : (s.modQueue q f).heldAnswers = s.heldAnswers := rfl
@[simp] theorem State.modQueue_notify : (s.modQueue q f).notify = s.notify := rfl
@[simp] theorem State.modQueue_msix : (s.modQueue q f).msix = s.msix := rfl
@[simp] theorem State.modQueue_wire : (s.modQueue q f).wire = s.wire := rfl
@[simp] theorem State.modQueue_strobes : (s.modQueue q f).strobes = s.strobes := rfl
@[simp] theorem State.modQueue_ops : (s.modQueue q f).ops = s.ops := rfl
@[simp] theorem State.modQueue_nextOp : (s.modQueue q f).nextOp = s.nextOp := rfl
@[simp] theorem State.modQueue_walks : (s.modQueue q f).walks = s.walks := rfl
@[simp] theorem State.modQueue_images : (s.modQueue q f).images = s.images := rfl
@[simp] theorem State.modQueue_taps : (s.modQueue q f).taps = s.taps := rfl
@[simp] theorem State.modQueue_collectors : (s.modQueue q f).collectors = s.collectors := rfl
@[simp] theorem State.modQueue_copies : (s.modQueue q f).copies = s.copies := rfl
@[simp] theorem State.modQueue_matrices : (s.modQueue q f).matrices = s.matrices := rfl
@[simp] theorem State.modQueue_slices : (s.modQueue q f).slices = s.slices := rfl
@[simp] theorem State.modQueue_badLines : (s.modQueue q f).badLines = s.badLines := rfl
@[simp] theorem State.modQueue_tills : (s.modQueue q f).tills = s.tills := rfl
@[simp] theorem State.modQueue_clearings : (s.modQueue q f).clearings = s.clearings := rfl
@[simp] theorem State.modQueue_transfers : (s.modQueue q f).transfers = s.transfers := rfl
@[simp] theorem State.modQueue_nextTransfer : (s.modQueue q f).nextTransfer = s.nextTransfer := rfl
@[simp] theorem State.modQueue_links : (s.modQueue q f).links = s.links := rfl
@[simp] theorem State.modQueue_windows : (s.modQueue q f).windows = s.windows := rfl
@[simp] theorem State.modQueue_packets : (s.modQueue q f).packets = s.packets := rfl
@[simp] theorem State.modQueue_sentPackets : (s.modQueue q f).sentPackets = s.sentPackets := rfl
@[simp] theorem State.modQueue_sentFlits : (s.modQueue q f).sentFlits = s.sentFlits := rfl
@[simp] theorem State.modQueue_saved : (s.modQueue q f).saved = s.saved := rfl
@[simp] theorem State.modQueue_nextSave : (s.modQueue q f).nextSave = s.nextSave := rfl
@[simp] theorem State.modQueue_hostRead : (s.modQueue q f).hostRead = s.hostRead := rfl
@[simp] theorem State.modQueue_dev : (s.modQueue q f).dev = s.dev := rfl
end

section
variable (s : State) (k : Nat) (f : Notify → Notify)
@[simp] theorem State.modNfy_freeCtr : (s.modNfy k f).freeCtr = s.freeCtr := rfl
@[simp] theorem State.modNfy_turns : (s.modNfy k f).turns = s.turns := rfl
@[simp] theorem State.modNfy_cur : (s.modNfy k f).cur = s.cur := rfl
@[simp] theorem State.modNfy_cyc : (s.modNfy k f).cyc = s.cyc := rfl
@[simp] theorem State.modNfy_usec : (s.modNfy k f).usec = s.usec := rfl
@[simp] theorem State.modNfy_mem : (s.modNfy k f).mem = s.mem := rfl
@[simp] theorem State.modNfy_nodes : (s.modNfy k f).nodes = s.nodes := rfl
@[simp] theorem State.modNfy_stores : (s.modNfy k f).stores = s.stores := rfl
@[simp] theorem State.modNfy_clusters : (s.modNfy k f).clusters = s.clusters := rfl
@[simp] theorem State.modNfy_mes : (s.modNfy k f).mes = s.mes := rfl
@[simp] theorem State.modNfy_regions : (s.modNfy k f).regions = s.regions := rfl
@[simp] theorem State.modNfy_nextRegion : (s.modNfy k f).nextRegion = s.nextRegion := rfl
@[simp] theorem State.modNfy_parts : (s.modNfy k f).parts = s.parts := rfl
@[simp] theorem State.modNfy_queues : (s.modNfy k f).queues = s.queues := rfl
@[simp] theorem State.modNfy_snaps : (s.modNfy k f).snaps = s.snaps := rfl
@[simp] theorem State.modNfy_heldAnswers : (s.modNfy k f).heldAnswers = s.heldAnswers := rfl
@[simp] theorem State.modNfy_msix : (s.modNfy k f).msix = s.msix := rfl
@[simp] theorem State.modNfy_wire : (s.modNfy k f).wire = s.wire := rfl
@[simp] theorem State.modNfy_strobes : (s.modNfy k f).strobes = s.strobes := rfl
@[simp] theorem State.modNfy_ops : (s.modNfy k f).ops = s.ops := rfl
@[simp] theorem State.modNfy_nextOp : (s.modNfy k f).nextOp = s.nextOp := rfl
@[simp] theorem State.modNfy_walks : (s.modNfy k f).walks = s.walks := rfl
@[simp] theorem State.modNfy_images : (s.modNfy k f).images = s.images := rfl
@[simp] theorem State.modNfy_taps : (s.modNfy k f).taps = s.taps := rfl
@[simp] theorem State.modNfy_collectors : (s.modNfy k f).collectors = s.collectors := rfl
@[simp] theorem State.modNfy_copies : (s.modNfy k f).copies = s.copies := rfl
@[simp] theorem State.modNfy_matrices : (s.modNfy k f).matrices = s.matrices := rfl
@[simp] theorem State.modNfy_slices : (s.modNfy k f).slices = s.slices := rfl
@[simp] theorem State.modNfy_badLines : (s.modNfy k f).badLines = s.badLines := rfl
@[simp] theorem State.modNfy_tills : (s.modNfy k f).tills = s.tills := rfl
@[simp] theorem State.modNfy_clearings : (s.modNfy k f).clearings = s.clearings := rfl
@[simp] theorem State.modNfy_transfers : (s.modNfy k f).transfers = s.transfers := rfl
@[simp] theorem State.modNfy_nextTransfer : (s.modNfy k f).nextTransfer = s.nextTransfer := rfl
@[simp] theorem State.modNfy_links : (s.modNfy k f).links = s.links := rfl
@[simp] theorem State.modNfy_windows : (s.modNfy k f).windows = s.windows := rfl
@[simp] theorem State.modNfy_packets : (s.modNfy k f).packets = s.packets := rfl
@[simp] theorem State.modNfy_sentPackets : (s.modNfy k f).sentPackets = s.sentPackets := rfl
@[simp] theorem State.modNfy_sentFlits : (s.modNfy k f).sentFlits = s.sentFlits := rfl
@[simp] theorem State.modNfy_saved : (s.modNfy k f).saved = s.saved := rfl
@[simp] theorem State.modNfy_nextSave : (s.modNfy k f).nextSave = s.nextSave := rfl
@[simp] theorem State.modNfy_hostRead : (s.modNfy k f).hostRead = s.hostRead := rfl
@[simp] theorem State.modNfy_dev : (s.modNfy k f).dev = s.dev := rfl
end

section
variable (s : State) (r : Nat) (f : Region → Region)
@[simp] theorem State.modRegion_freeCtr : (s.modRegion r f).freeCtr = s.freeCtr := rfl
@[simp] theorem State.modRegion_turns : (s.modRegion r f).turns = s.turns := rfl
@[simp] theorem State.modRegion_cur : (s.modRegion r f).cur = s.cur := rfl
@[simp] theorem State.modRegion_cyc : (s.modRegion r f).cyc = s.cyc := rfl
@[simp] theorem State.modRegion_usec : (s.modRegion r f).usec = s.usec := rfl
@[simp] theorem State.modRegion_mem : (s.modRegion r f).mem = s.mem := rfl
@[simp] theorem State.modRegion_nodes : (s.modRegion r f).nodes = s.nodes := rfl
@[simp] theorem State.modRegion_stores : (s.modRegion r f).stores = s.stores := rfl
@[simp] theorem State.modRegion_clusters : (s.modRegion r f).clusters = s.clusters := rfl
@[simp] theorem State.modRegion_mes : (s.modRegion r f).mes = s.mes := rfl
@[simp] theorem State.modRegion_nextRegion : (s.modRegion r f).nextRegion = s.nextRegion := rfl
@[simp] theorem State.modRegion_parts : (s.modRegion r f).parts = s.parts := rfl
@[simp] theorem State.modRegion_queues : (s.modRegion r f).queues = s.queues := rfl
@[simp] theorem State.modRegion_snaps : (s.modRegion r f).snaps = s.snaps := rfl
@[simp] theorem State.modRegion_heldAnswers : (s.modRegion r f).heldAnswers = s.heldAnswers := rfl
@[simp] theorem State.modRegion_notify : (s.modRegion r f).notify = s.notify := rfl
@[simp] theorem State.modRegion_msix : (s.modRegion r f).msix = s.msix := rfl
@[simp] theorem State.modRegion_wire : (s.modRegion r f).wire = s.wire := rfl
@[simp] theorem State.modRegion_strobes : (s.modRegion r f).strobes = s.strobes := rfl
@[simp] theorem State.modRegion_ops : (s.modRegion r f).ops = s.ops := rfl
@[simp] theorem State.modRegion_nextOp : (s.modRegion r f).nextOp = s.nextOp := rfl
@[simp] theorem State.modRegion_walks : (s.modRegion r f).walks = s.walks := rfl
@[simp] theorem State.modRegion_images : (s.modRegion r f).images = s.images := rfl
@[simp] theorem State.modRegion_taps : (s.modRegion r f).taps = s.taps := rfl
@[simp] theorem State.modRegion_collectors : (s.modRegion r f).collectors = s.collectors := rfl
@[simp] theorem State.modRegion_copies : (s.modRegion r f).copies = s.copies := rfl
@[simp] theorem State.modRegion_matrices : (s.modRegion r f).matrices = s.matrices := rfl
@[simp] theorem State.modRegion_slices : (s.modRegion r f).slices = s.slices := rfl
@[simp] theorem State.modRegion_badLines : (s.modRegion r f).badLines = s.badLines := rfl
@[simp] theorem State.modRegion_tills : (s.modRegion r f).tills = s.tills := rfl
@[simp] theorem State.modRegion_clearings : (s.modRegion r f).clearings = s.clearings := rfl
@[simp] theorem State.modRegion_transfers : (s.modRegion r f).transfers = s.transfers := rfl
@[simp] theorem State.modRegion_nextTransfer : (s.modRegion r f).nextTransfer = s.nextTransfer := rfl
@[simp] theorem State.modRegion_links : (s.modRegion r f).links = s.links := rfl
@[simp] theorem State.modRegion_windows : (s.modRegion r f).windows = s.windows := rfl
@[simp] theorem State.modRegion_packets : (s.modRegion r f).packets = s.packets := rfl
@[simp] theorem State.modRegion_sentPackets : (s.modRegion r f).sentPackets = s.sentPackets := rfl
@[simp] theorem State.modRegion_sentFlits : (s.modRegion r f).sentFlits = s.sentFlits := rfl
@[simp] theorem State.modRegion_saved : (s.modRegion r f).saved = s.saved := rfl
@[simp] theorem State.modRegion_nextSave : (s.modRegion r f).nextSave = s.nextSave := rfl
@[simp] theorem State.modRegion_hostRead : (s.modRegion r f).hostRead = s.hostRead := rfl
@[simp] theorem State.modRegion_dev : (s.modRegion r f).dev = s.dev := rfl
end

section
variable (s : State) (r b : Nat) (f : Blk → Blk)
@[simp] theorem State.modBlk_freeCtr : (s.modBlk r b f).freeCtr = s.freeCtr := rfl
@[simp] theorem State.modBlk_turns : (s.modBlk r b f).turns = s.turns := rfl
@[simp] theorem State.modBlk_cur : (s.modBlk r b f).cur = s.cur := rfl
@[simp] theorem State.modBlk_cyc : (s.modBlk r b f).cyc = s.cyc := rfl
@[simp] theorem State.modBlk_usec : (s.modBlk r b f).usec = s.usec := rfl
@[simp] theorem State.modBlk_mem : (s.modBlk r b f).mem = s.mem := rfl
@[simp] theorem State.modBlk_nodes : (s.modBlk r b f).nodes = s.nodes := rfl
@[simp] theorem State.modBlk_stores : (s.modBlk r b f).stores = s.stores := rfl
@[simp] theorem State.modBlk_clusters : (s.modBlk r b f).clusters = s.clusters := rfl
@[simp] theorem State.modBlk_mes : (s.modBlk r b f).mes = s.mes := rfl
@[simp] theorem State.modBlk_nextRegion : (s.modBlk r b f).nextRegion = s.nextRegion := rfl
@[simp] theorem State.modBlk_parts : (s.modBlk r b f).parts = s.parts := rfl
@[simp] theorem State.modBlk_queues : (s.modBlk r b f).queues = s.queues := rfl
@[simp] theorem State.modBlk_snaps : (s.modBlk r b f).snaps = s.snaps := rfl
@[simp] theorem State.modBlk_heldAnswers : (s.modBlk r b f).heldAnswers = s.heldAnswers := rfl
@[simp] theorem State.modBlk_notify : (s.modBlk r b f).notify = s.notify := rfl
@[simp] theorem State.modBlk_msix : (s.modBlk r b f).msix = s.msix := rfl
@[simp] theorem State.modBlk_wire : (s.modBlk r b f).wire = s.wire := rfl
@[simp] theorem State.modBlk_strobes : (s.modBlk r b f).strobes = s.strobes := rfl
@[simp] theorem State.modBlk_ops : (s.modBlk r b f).ops = s.ops := rfl
@[simp] theorem State.modBlk_nextOp : (s.modBlk r b f).nextOp = s.nextOp := rfl
@[simp] theorem State.modBlk_walks : (s.modBlk r b f).walks = s.walks := rfl
@[simp] theorem State.modBlk_images : (s.modBlk r b f).images = s.images := rfl
@[simp] theorem State.modBlk_taps : (s.modBlk r b f).taps = s.taps := rfl
@[simp] theorem State.modBlk_collectors : (s.modBlk r b f).collectors = s.collectors := rfl
@[simp] theorem State.modBlk_copies : (s.modBlk r b f).copies = s.copies := rfl
@[simp] theorem State.modBlk_matrices : (s.modBlk r b f).matrices = s.matrices := rfl
@[simp] theorem State.modBlk_slices : (s.modBlk r b f).slices = s.slices := rfl
@[simp] theorem State.modBlk_badLines : (s.modBlk r b f).badLines = s.badLines := rfl
@[simp] theorem State.modBlk_tills : (s.modBlk r b f).tills = s.tills := rfl
@[simp] theorem State.modBlk_clearings : (s.modBlk r b f).clearings = s.clearings := rfl
@[simp] theorem State.modBlk_transfers : (s.modBlk r b f).transfers = s.transfers := rfl
@[simp] theorem State.modBlk_nextTransfer : (s.modBlk r b f).nextTransfer = s.nextTransfer := rfl
@[simp] theorem State.modBlk_links : (s.modBlk r b f).links = s.links := rfl
@[simp] theorem State.modBlk_windows : (s.modBlk r b f).windows = s.windows := rfl
@[simp] theorem State.modBlk_packets : (s.modBlk r b f).packets = s.packets := rfl
@[simp] theorem State.modBlk_sentPackets : (s.modBlk r b f).sentPackets = s.sentPackets := rfl
@[simp] theorem State.modBlk_sentFlits : (s.modBlk r b f).sentFlits = s.sentFlits := rfl
@[simp] theorem State.modBlk_saved : (s.modBlk r b f).saved = s.saved := rfl
@[simp] theorem State.modBlk_nextSave : (s.modBlk r b f).nextSave = s.nextSave := rfl
@[simp] theorem State.modBlk_hostRead : (s.modBlk r b f).hostRead = s.hostRead := rfl
@[simp] theorem State.modBlk_dev : (s.modBlk r b f).dev = s.dev := rfl
end

section
variable (s : State) (r f : Nat) (g : Frame → Frame)
@[simp] theorem State.modFrame_freeCtr : (s.modFrame r f g).freeCtr = s.freeCtr := rfl
@[simp] theorem State.modFrame_turns : (s.modFrame r f g).turns = s.turns := rfl
@[simp] theorem State.modFrame_cur : (s.modFrame r f g).cur = s.cur := rfl
@[simp] theorem State.modFrame_cyc : (s.modFrame r f g).cyc = s.cyc := rfl
@[simp] theorem State.modFrame_usec : (s.modFrame r f g).usec = s.usec := rfl
@[simp] theorem State.modFrame_mem : (s.modFrame r f g).mem = s.mem := rfl
@[simp] theorem State.modFrame_nodes : (s.modFrame r f g).nodes = s.nodes := rfl
@[simp] theorem State.modFrame_stores : (s.modFrame r f g).stores = s.stores := rfl
@[simp] theorem State.modFrame_clusters : (s.modFrame r f g).clusters = s.clusters := rfl
@[simp] theorem State.modFrame_mes : (s.modFrame r f g).mes = s.mes := rfl
@[simp] theorem State.modFrame_nextRegion : (s.modFrame r f g).nextRegion = s.nextRegion := rfl
@[simp] theorem State.modFrame_parts : (s.modFrame r f g).parts = s.parts := rfl
@[simp] theorem State.modFrame_queues : (s.modFrame r f g).queues = s.queues := rfl
@[simp] theorem State.modFrame_snaps : (s.modFrame r f g).snaps = s.snaps := rfl
@[simp] theorem State.modFrame_heldAnswers : (s.modFrame r f g).heldAnswers = s.heldAnswers := rfl
@[simp] theorem State.modFrame_notify : (s.modFrame r f g).notify = s.notify := rfl
@[simp] theorem State.modFrame_msix : (s.modFrame r f g).msix = s.msix := rfl
@[simp] theorem State.modFrame_wire : (s.modFrame r f g).wire = s.wire := rfl
@[simp] theorem State.modFrame_strobes : (s.modFrame r f g).strobes = s.strobes := rfl
@[simp] theorem State.modFrame_ops : (s.modFrame r f g).ops = s.ops := rfl
@[simp] theorem State.modFrame_nextOp : (s.modFrame r f g).nextOp = s.nextOp := rfl
@[simp] theorem State.modFrame_walks : (s.modFrame r f g).walks = s.walks := rfl
@[simp] theorem State.modFrame_images : (s.modFrame r f g).images = s.images := rfl
@[simp] theorem State.modFrame_taps : (s.modFrame r f g).taps = s.taps := rfl
@[simp] theorem State.modFrame_collectors : (s.modFrame r f g).collectors = s.collectors := rfl
@[simp] theorem State.modFrame_copies : (s.modFrame r f g).copies = s.copies := rfl
@[simp] theorem State.modFrame_matrices : (s.modFrame r f g).matrices = s.matrices := rfl
@[simp] theorem State.modFrame_slices : (s.modFrame r f g).slices = s.slices := rfl
@[simp] theorem State.modFrame_badLines : (s.modFrame r f g).badLines = s.badLines := rfl
@[simp] theorem State.modFrame_tills : (s.modFrame r f g).tills = s.tills := rfl
@[simp] theorem State.modFrame_clearings : (s.modFrame r f g).clearings = s.clearings := rfl
@[simp] theorem State.modFrame_transfers : (s.modFrame r f g).transfers = s.transfers := rfl
@[simp] theorem State.modFrame_nextTransfer : (s.modFrame r f g).nextTransfer = s.nextTransfer := rfl
@[simp] theorem State.modFrame_links : (s.modFrame r f g).links = s.links := rfl
@[simp] theorem State.modFrame_windows : (s.modFrame r f g).windows = s.windows := rfl
@[simp] theorem State.modFrame_packets : (s.modFrame r f g).packets = s.packets := rfl
@[simp] theorem State.modFrame_sentPackets : (s.modFrame r f g).sentPackets = s.sentPackets := rfl
@[simp] theorem State.modFrame_sentFlits : (s.modFrame r f g).sentFlits = s.sentFlits := rfl
@[simp] theorem State.modFrame_saved : (s.modFrame r f g).saved = s.saved := rfl
@[simp] theorem State.modFrame_nextSave : (s.modFrame r f g).nextSave = s.nextSave := rfl
@[simp] theorem State.modFrame_hostRead : (s.modFrame r f g).hostRead = s.hostRead := rfl
@[simp] theorem State.modFrame_dev : (s.modFrame r f g).dev = s.dev := rfl
end

section
variable (s : State) (r k : Nat) (f : PartySet → PartySet)
@[simp] theorem State.modPset_freeCtr : (s.modPset r k f).freeCtr = s.freeCtr := rfl
@[simp] theorem State.modPset_turns : (s.modPset r k f).turns = s.turns := rfl
@[simp] theorem State.modPset_cur : (s.modPset r k f).cur = s.cur := rfl
@[simp] theorem State.modPset_cyc : (s.modPset r k f).cyc = s.cyc := rfl
@[simp] theorem State.modPset_usec : (s.modPset r k f).usec = s.usec := rfl
@[simp] theorem State.modPset_mem : (s.modPset r k f).mem = s.mem := rfl
@[simp] theorem State.modPset_nodes : (s.modPset r k f).nodes = s.nodes := rfl
@[simp] theorem State.modPset_stores : (s.modPset r k f).stores = s.stores := rfl
@[simp] theorem State.modPset_clusters : (s.modPset r k f).clusters = s.clusters := rfl
@[simp] theorem State.modPset_mes : (s.modPset r k f).mes = s.mes := rfl
@[simp] theorem State.modPset_nextRegion : (s.modPset r k f).nextRegion = s.nextRegion := rfl
@[simp] theorem State.modPset_parts : (s.modPset r k f).parts = s.parts := rfl
@[simp] theorem State.modPset_queues : (s.modPset r k f).queues = s.queues := rfl
@[simp] theorem State.modPset_snaps : (s.modPset r k f).snaps = s.snaps := rfl
@[simp] theorem State.modPset_heldAnswers : (s.modPset r k f).heldAnswers = s.heldAnswers := rfl
@[simp] theorem State.modPset_notify : (s.modPset r k f).notify = s.notify := rfl
@[simp] theorem State.modPset_msix : (s.modPset r k f).msix = s.msix := rfl
@[simp] theorem State.modPset_wire : (s.modPset r k f).wire = s.wire := rfl
@[simp] theorem State.modPset_strobes : (s.modPset r k f).strobes = s.strobes := rfl
@[simp] theorem State.modPset_ops : (s.modPset r k f).ops = s.ops := rfl
@[simp] theorem State.modPset_nextOp : (s.modPset r k f).nextOp = s.nextOp := rfl
@[simp] theorem State.modPset_walks : (s.modPset r k f).walks = s.walks := rfl
@[simp] theorem State.modPset_images : (s.modPset r k f).images = s.images := rfl
@[simp] theorem State.modPset_taps : (s.modPset r k f).taps = s.taps := rfl
@[simp] theorem State.modPset_collectors : (s.modPset r k f).collectors = s.collectors := rfl
@[simp] theorem State.modPset_copies : (s.modPset r k f).copies = s.copies := rfl
@[simp] theorem State.modPset_matrices : (s.modPset r k f).matrices = s.matrices := rfl
@[simp] theorem State.modPset_slices : (s.modPset r k f).slices = s.slices := rfl
@[simp] theorem State.modPset_badLines : (s.modPset r k f).badLines = s.badLines := rfl
@[simp] theorem State.modPset_tills : (s.modPset r k f).tills = s.tills := rfl
@[simp] theorem State.modPset_clearings : (s.modPset r k f).clearings = s.clearings := rfl
@[simp] theorem State.modPset_transfers : (s.modPset r k f).transfers = s.transfers := rfl
@[simp] theorem State.modPset_nextTransfer : (s.modPset r k f).nextTransfer = s.nextTransfer := rfl
@[simp] theorem State.modPset_links : (s.modPset r k f).links = s.links := rfl
@[simp] theorem State.modPset_windows : (s.modPset r k f).windows = s.windows := rfl
@[simp] theorem State.modPset_packets : (s.modPset r k f).packets = s.packets := rfl
@[simp] theorem State.modPset_sentPackets : (s.modPset r k f).sentPackets = s.sentPackets := rfl
@[simp] theorem State.modPset_sentFlits : (s.modPset r k f).sentFlits = s.sentFlits := rfl
@[simp] theorem State.modPset_saved : (s.modPset r k f).saved = s.saved := rfl
@[simp] theorem State.modPset_nextSave : (s.modPset r k f).nextSave = s.nextSave := rfl
@[simp] theorem State.modPset_hostRead : (s.modPset r k f).hostRead = s.hostRead := rfl
@[simp] theorem State.modPset_dev : (s.modPset r k f).dev = s.dev := rfl
end

section
variable (s : State) (c : Coord) (f : Copy → Copy)
@[simp] theorem State.modCopy_freeCtr : (s.modCopy c f).freeCtr = s.freeCtr := rfl
@[simp] theorem State.modCopy_turns : (s.modCopy c f).turns = s.turns := rfl
@[simp] theorem State.modCopy_cur : (s.modCopy c f).cur = s.cur := rfl
@[simp] theorem State.modCopy_cyc : (s.modCopy c f).cyc = s.cyc := rfl
@[simp] theorem State.modCopy_usec : (s.modCopy c f).usec = s.usec := rfl
@[simp] theorem State.modCopy_mem : (s.modCopy c f).mem = s.mem := rfl
@[simp] theorem State.modCopy_nodes : (s.modCopy c f).nodes = s.nodes := rfl
@[simp] theorem State.modCopy_stores : (s.modCopy c f).stores = s.stores := rfl
@[simp] theorem State.modCopy_clusters : (s.modCopy c f).clusters = s.clusters := rfl
@[simp] theorem State.modCopy_mes : (s.modCopy c f).mes = s.mes := rfl
@[simp] theorem State.modCopy_regions : (s.modCopy c f).regions = s.regions := rfl
@[simp] theorem State.modCopy_nextRegion : (s.modCopy c f).nextRegion = s.nextRegion := rfl
@[simp] theorem State.modCopy_parts : (s.modCopy c f).parts = s.parts := rfl
@[simp] theorem State.modCopy_queues : (s.modCopy c f).queues = s.queues := rfl
@[simp] theorem State.modCopy_snaps : (s.modCopy c f).snaps = s.snaps := rfl
@[simp] theorem State.modCopy_heldAnswers : (s.modCopy c f).heldAnswers = s.heldAnswers := rfl
@[simp] theorem State.modCopy_notify : (s.modCopy c f).notify = s.notify := rfl
@[simp] theorem State.modCopy_msix : (s.modCopy c f).msix = s.msix := rfl
@[simp] theorem State.modCopy_wire : (s.modCopy c f).wire = s.wire := rfl
@[simp] theorem State.modCopy_strobes : (s.modCopy c f).strobes = s.strobes := rfl
@[simp] theorem State.modCopy_ops : (s.modCopy c f).ops = s.ops := rfl
@[simp] theorem State.modCopy_nextOp : (s.modCopy c f).nextOp = s.nextOp := rfl
@[simp] theorem State.modCopy_walks : (s.modCopy c f).walks = s.walks := rfl
@[simp] theorem State.modCopy_images : (s.modCopy c f).images = s.images := rfl
@[simp] theorem State.modCopy_taps : (s.modCopy c f).taps = s.taps := rfl
@[simp] theorem State.modCopy_collectors : (s.modCopy c f).collectors = s.collectors := rfl
@[simp] theorem State.modCopy_matrices : (s.modCopy c f).matrices = s.matrices := rfl
@[simp] theorem State.modCopy_slices : (s.modCopy c f).slices = s.slices := rfl
@[simp] theorem State.modCopy_badLines : (s.modCopy c f).badLines = s.badLines := rfl
@[simp] theorem State.modCopy_tills : (s.modCopy c f).tills = s.tills := rfl
@[simp] theorem State.modCopy_clearings : (s.modCopy c f).clearings = s.clearings := rfl
@[simp] theorem State.modCopy_transfers : (s.modCopy c f).transfers = s.transfers := rfl
@[simp] theorem State.modCopy_nextTransfer : (s.modCopy c f).nextTransfer = s.nextTransfer := rfl
@[simp] theorem State.modCopy_links : (s.modCopy c f).links = s.links := rfl
@[simp] theorem State.modCopy_windows : (s.modCopy c f).windows = s.windows := rfl
@[simp] theorem State.modCopy_packets : (s.modCopy c f).packets = s.packets := rfl
@[simp] theorem State.modCopy_sentPackets : (s.modCopy c f).sentPackets = s.sentPackets := rfl
@[simp] theorem State.modCopy_sentFlits : (s.modCopy c f).sentFlits = s.sentFlits := rfl
@[simp] theorem State.modCopy_saved : (s.modCopy c f).saved = s.saved := rfl
@[simp] theorem State.modCopy_nextSave : (s.modCopy c f).nextSave = s.nextSave := rfl
@[simp] theorem State.modCopy_hostRead : (s.modCopy c f).hostRead = s.hostRead := rfl
@[simp] theorem State.modCopy_dev : (s.modCopy c f).dev = s.dev := rfl
end

section
variable (s : State) (c : Coord) (id : Nat) (f : Job → Job)
@[simp] theorem State.modJob_freeCtr : (s.modJob c id f).freeCtr = s.freeCtr := rfl
@[simp] theorem State.modJob_turns : (s.modJob c id f).turns = s.turns := rfl
@[simp] theorem State.modJob_cur : (s.modJob c id f).cur = s.cur := rfl
@[simp] theorem State.modJob_cyc : (s.modJob c id f).cyc = s.cyc := rfl
@[simp] theorem State.modJob_usec : (s.modJob c id f).usec = s.usec := rfl
@[simp] theorem State.modJob_mem : (s.modJob c id f).mem = s.mem := rfl
@[simp] theorem State.modJob_nodes : (s.modJob c id f).nodes = s.nodes := rfl
@[simp] theorem State.modJob_stores : (s.modJob c id f).stores = s.stores := rfl
@[simp] theorem State.modJob_clusters : (s.modJob c id f).clusters = s.clusters := rfl
@[simp] theorem State.modJob_mes : (s.modJob c id f).mes = s.mes := rfl
@[simp] theorem State.modJob_regions : (s.modJob c id f).regions = s.regions := rfl
@[simp] theorem State.modJob_nextRegion : (s.modJob c id f).nextRegion = s.nextRegion := rfl
@[simp] theorem State.modJob_parts : (s.modJob c id f).parts = s.parts := rfl
@[simp] theorem State.modJob_queues : (s.modJob c id f).queues = s.queues := rfl
@[simp] theorem State.modJob_snaps : (s.modJob c id f).snaps = s.snaps := rfl
@[simp] theorem State.modJob_heldAnswers : (s.modJob c id f).heldAnswers = s.heldAnswers := rfl
@[simp] theorem State.modJob_notify : (s.modJob c id f).notify = s.notify := rfl
@[simp] theorem State.modJob_msix : (s.modJob c id f).msix = s.msix := rfl
@[simp] theorem State.modJob_wire : (s.modJob c id f).wire = s.wire := rfl
@[simp] theorem State.modJob_strobes : (s.modJob c id f).strobes = s.strobes := rfl
@[simp] theorem State.modJob_ops : (s.modJob c id f).ops = s.ops := rfl
@[simp] theorem State.modJob_nextOp : (s.modJob c id f).nextOp = s.nextOp := rfl
@[simp] theorem State.modJob_walks : (s.modJob c id f).walks = s.walks := rfl
@[simp] theorem State.modJob_images : (s.modJob c id f).images = s.images := rfl
@[simp] theorem State.modJob_taps : (s.modJob c id f).taps = s.taps := rfl
@[simp] theorem State.modJob_collectors : (s.modJob c id f).collectors = s.collectors := rfl
@[simp] theorem State.modJob_matrices : (s.modJob c id f).matrices = s.matrices := rfl
@[simp] theorem State.modJob_slices : (s.modJob c id f).slices = s.slices := rfl
@[simp] theorem State.modJob_badLines : (s.modJob c id f).badLines = s.badLines := rfl
@[simp] theorem State.modJob_tills : (s.modJob c id f).tills = s.tills := rfl
@[simp] theorem State.modJob_clearings : (s.modJob c id f).clearings = s.clearings := rfl
@[simp] theorem State.modJob_transfers : (s.modJob c id f).transfers = s.transfers := rfl
@[simp] theorem State.modJob_nextTransfer : (s.modJob c id f).nextTransfer = s.nextTransfer := rfl
@[simp] theorem State.modJob_links : (s.modJob c id f).links = s.links := rfl
@[simp] theorem State.modJob_windows : (s.modJob c id f).windows = s.windows := rfl
@[simp] theorem State.modJob_packets : (s.modJob c id f).packets = s.packets := rfl
@[simp] theorem State.modJob_sentPackets : (s.modJob c id f).sentPackets = s.sentPackets := rfl
@[simp] theorem State.modJob_sentFlits : (s.modJob c id f).sentFlits = s.sentFlits := rfl
@[simp] theorem State.modJob_saved : (s.modJob c id f).saved = s.saved := rfl
@[simp] theorem State.modJob_nextSave : (s.modJob c id f).nextSave = s.nextSave := rfl
@[simp] theorem State.modJob_hostRead : (s.modJob c id f).hostRead = s.hostRead := rfl
@[simp] theorem State.modJob_dev : (s.modJob c id f).dev = s.dev := rfl
end

section
variable (s : State) (c : Coord) (id : Nat) (f : CpOp → CpOp)
@[simp] theorem State.modCpOp_freeCtr : (s.modCpOp c id f).freeCtr = s.freeCtr := rfl
@[simp] theorem State.modCpOp_turns : (s.modCpOp c id f).turns = s.turns := rfl
@[simp] theorem State.modCpOp_cur : (s.modCpOp c id f).cur = s.cur := rfl
@[simp] theorem State.modCpOp_cyc : (s.modCpOp c id f).cyc = s.cyc := rfl
@[simp] theorem State.modCpOp_usec : (s.modCpOp c id f).usec = s.usec := rfl
@[simp] theorem State.modCpOp_mem : (s.modCpOp c id f).mem = s.mem := rfl
@[simp] theorem State.modCpOp_nodes : (s.modCpOp c id f).nodes = s.nodes := rfl
@[simp] theorem State.modCpOp_stores : (s.modCpOp c id f).stores = s.stores := rfl
@[simp] theorem State.modCpOp_clusters : (s.modCpOp c id f).clusters = s.clusters := rfl
@[simp] theorem State.modCpOp_mes : (s.modCpOp c id f).mes = s.mes := rfl
@[simp] theorem State.modCpOp_regions : (s.modCpOp c id f).regions = s.regions := rfl
@[simp] theorem State.modCpOp_nextRegion : (s.modCpOp c id f).nextRegion = s.nextRegion := rfl
@[simp] theorem State.modCpOp_parts : (s.modCpOp c id f).parts = s.parts := rfl
@[simp] theorem State.modCpOp_queues : (s.modCpOp c id f).queues = s.queues := rfl
@[simp] theorem State.modCpOp_snaps : (s.modCpOp c id f).snaps = s.snaps := rfl
@[simp] theorem State.modCpOp_heldAnswers : (s.modCpOp c id f).heldAnswers = s.heldAnswers := rfl
@[simp] theorem State.modCpOp_notify : (s.modCpOp c id f).notify = s.notify := rfl
@[simp] theorem State.modCpOp_msix : (s.modCpOp c id f).msix = s.msix := rfl
@[simp] theorem State.modCpOp_wire : (s.modCpOp c id f).wire = s.wire := rfl
@[simp] theorem State.modCpOp_strobes : (s.modCpOp c id f).strobes = s.strobes := rfl
@[simp] theorem State.modCpOp_ops : (s.modCpOp c id f).ops = s.ops := rfl
@[simp] theorem State.modCpOp_nextOp : (s.modCpOp c id f).nextOp = s.nextOp := rfl
@[simp] theorem State.modCpOp_walks : (s.modCpOp c id f).walks = s.walks := rfl
@[simp] theorem State.modCpOp_images : (s.modCpOp c id f).images = s.images := rfl
@[simp] theorem State.modCpOp_taps : (s.modCpOp c id f).taps = s.taps := rfl
@[simp] theorem State.modCpOp_collectors : (s.modCpOp c id f).collectors = s.collectors := rfl
@[simp] theorem State.modCpOp_matrices : (s.modCpOp c id f).matrices = s.matrices := rfl
@[simp] theorem State.modCpOp_slices : (s.modCpOp c id f).slices = s.slices := rfl
@[simp] theorem State.modCpOp_badLines : (s.modCpOp c id f).badLines = s.badLines := rfl
@[simp] theorem State.modCpOp_tills : (s.modCpOp c id f).tills = s.tills := rfl
@[simp] theorem State.modCpOp_clearings : (s.modCpOp c id f).clearings = s.clearings := rfl
@[simp] theorem State.modCpOp_transfers : (s.modCpOp c id f).transfers = s.transfers := rfl
@[simp] theorem State.modCpOp_nextTransfer : (s.modCpOp c id f).nextTransfer = s.nextTransfer := rfl
@[simp] theorem State.modCpOp_links : (s.modCpOp c id f).links = s.links := rfl
@[simp] theorem State.modCpOp_windows : (s.modCpOp c id f).windows = s.windows := rfl
@[simp] theorem State.modCpOp_packets : (s.modCpOp c id f).packets = s.packets := rfl
@[simp] theorem State.modCpOp_sentPackets : (s.modCpOp c id f).sentPackets = s.sentPackets := rfl
@[simp] theorem State.modCpOp_sentFlits : (s.modCpOp c id f).sentFlits = s.sentFlits := rfl
@[simp] theorem State.modCpOp_saved : (s.modCpOp c id f).saved = s.saved := rfl
@[simp] theorem State.modCpOp_nextSave : (s.modCpOp c id f).nextSave = s.nextSave := rfl
@[simp] theorem State.modCpOp_hostRead : (s.modCpOp c id f).hostRead = s.hostRead := rfl
@[simp] theorem State.modCpOp_dev : (s.modCpOp c id f).dev = s.dev := rfl
end

section
variable (s : State) (c : Coord) (f : Matrix → Matrix)
@[simp] theorem State.modMatrix_freeCtr : (s.modMatrix c f).freeCtr = s.freeCtr := rfl
@[simp] theorem State.modMatrix_turns : (s.modMatrix c f).turns = s.turns := rfl
@[simp] theorem State.modMatrix_cur : (s.modMatrix c f).cur = s.cur := rfl
@[simp] theorem State.modMatrix_cyc : (s.modMatrix c f).cyc = s.cyc := rfl
@[simp] theorem State.modMatrix_usec : (s.modMatrix c f).usec = s.usec := rfl
@[simp] theorem State.modMatrix_mem : (s.modMatrix c f).mem = s.mem := rfl
@[simp] theorem State.modMatrix_nodes : (s.modMatrix c f).nodes = s.nodes := rfl
@[simp] theorem State.modMatrix_stores : (s.modMatrix c f).stores = s.stores := rfl
@[simp] theorem State.modMatrix_clusters : (s.modMatrix c f).clusters = s.clusters := rfl
@[simp] theorem State.modMatrix_mes : (s.modMatrix c f).mes = s.mes := rfl
@[simp] theorem State.modMatrix_regions : (s.modMatrix c f).regions = s.regions := rfl
@[simp] theorem State.modMatrix_nextRegion : (s.modMatrix c f).nextRegion = s.nextRegion := rfl
@[simp] theorem State.modMatrix_parts : (s.modMatrix c f).parts = s.parts := rfl
@[simp] theorem State.modMatrix_queues : (s.modMatrix c f).queues = s.queues := rfl
@[simp] theorem State.modMatrix_snaps : (s.modMatrix c f).snaps = s.snaps := rfl
@[simp] theorem State.modMatrix_heldAnswers : (s.modMatrix c f).heldAnswers = s.heldAnswers := rfl
@[simp] theorem State.modMatrix_notify : (s.modMatrix c f).notify = s.notify := rfl
@[simp] theorem State.modMatrix_msix : (s.modMatrix c f).msix = s.msix := rfl
@[simp] theorem State.modMatrix_wire : (s.modMatrix c f).wire = s.wire := rfl
@[simp] theorem State.modMatrix_strobes : (s.modMatrix c f).strobes = s.strobes := rfl
@[simp] theorem State.modMatrix_ops : (s.modMatrix c f).ops = s.ops := rfl
@[simp] theorem State.modMatrix_nextOp : (s.modMatrix c f).nextOp = s.nextOp := rfl
@[simp] theorem State.modMatrix_walks : (s.modMatrix c f).walks = s.walks := rfl
@[simp] theorem State.modMatrix_images : (s.modMatrix c f).images = s.images := rfl
@[simp] theorem State.modMatrix_taps : (s.modMatrix c f).taps = s.taps := rfl
@[simp] theorem State.modMatrix_collectors : (s.modMatrix c f).collectors = s.collectors := rfl
@[simp] theorem State.modMatrix_copies : (s.modMatrix c f).copies = s.copies := rfl
@[simp] theorem State.modMatrix_slices : (s.modMatrix c f).slices = s.slices := rfl
@[simp] theorem State.modMatrix_badLines : (s.modMatrix c f).badLines = s.badLines := rfl
@[simp] theorem State.modMatrix_tills : (s.modMatrix c f).tills = s.tills := rfl
@[simp] theorem State.modMatrix_clearings : (s.modMatrix c f).clearings = s.clearings := rfl
@[simp] theorem State.modMatrix_transfers : (s.modMatrix c f).transfers = s.transfers := rfl
@[simp] theorem State.modMatrix_nextTransfer : (s.modMatrix c f).nextTransfer = s.nextTransfer := rfl
@[simp] theorem State.modMatrix_links : (s.modMatrix c f).links = s.links := rfl
@[simp] theorem State.modMatrix_windows : (s.modMatrix c f).windows = s.windows := rfl
@[simp] theorem State.modMatrix_packets : (s.modMatrix c f).packets = s.packets := rfl
@[simp] theorem State.modMatrix_sentPackets : (s.modMatrix c f).sentPackets = s.sentPackets := rfl
@[simp] theorem State.modMatrix_sentFlits : (s.modMatrix c f).sentFlits = s.sentFlits := rfl
@[simp] theorem State.modMatrix_saved : (s.modMatrix c f).saved = s.saved := rfl
@[simp] theorem State.modMatrix_nextSave : (s.modMatrix c f).nextSave = s.nextSave := rfl
@[simp] theorem State.modMatrix_hostRead : (s.modMatrix c f).hostRead = s.hostRead := rfl
@[simp] theorem State.modMatrix_dev : (s.modMatrix c f).dev = s.dev := rfl
end

section
variable (s : State) (c : Coord) (id : Nat) (f : MnOp → MnOp)
@[simp] theorem State.modMn_freeCtr : (s.modMn c id f).freeCtr = s.freeCtr := rfl
@[simp] theorem State.modMn_turns : (s.modMn c id f).turns = s.turns := rfl
@[simp] theorem State.modMn_cur : (s.modMn c id f).cur = s.cur := rfl
@[simp] theorem State.modMn_cyc : (s.modMn c id f).cyc = s.cyc := rfl
@[simp] theorem State.modMn_usec : (s.modMn c id f).usec = s.usec := rfl
@[simp] theorem State.modMn_mem : (s.modMn c id f).mem = s.mem := rfl
@[simp] theorem State.modMn_nodes : (s.modMn c id f).nodes = s.nodes := rfl
@[simp] theorem State.modMn_stores : (s.modMn c id f).stores = s.stores := rfl
@[simp] theorem State.modMn_clusters : (s.modMn c id f).clusters = s.clusters := rfl
@[simp] theorem State.modMn_mes : (s.modMn c id f).mes = s.mes := rfl
@[simp] theorem State.modMn_regions : (s.modMn c id f).regions = s.regions := rfl
@[simp] theorem State.modMn_nextRegion : (s.modMn c id f).nextRegion = s.nextRegion := rfl
@[simp] theorem State.modMn_parts : (s.modMn c id f).parts = s.parts := rfl
@[simp] theorem State.modMn_queues : (s.modMn c id f).queues = s.queues := rfl
@[simp] theorem State.modMn_snaps : (s.modMn c id f).snaps = s.snaps := rfl
@[simp] theorem State.modMn_heldAnswers : (s.modMn c id f).heldAnswers = s.heldAnswers := rfl
@[simp] theorem State.modMn_notify : (s.modMn c id f).notify = s.notify := rfl
@[simp] theorem State.modMn_msix : (s.modMn c id f).msix = s.msix := rfl
@[simp] theorem State.modMn_wire : (s.modMn c id f).wire = s.wire := rfl
@[simp] theorem State.modMn_strobes : (s.modMn c id f).strobes = s.strobes := rfl
@[simp] theorem State.modMn_ops : (s.modMn c id f).ops = s.ops := rfl
@[simp] theorem State.modMn_nextOp : (s.modMn c id f).nextOp = s.nextOp := rfl
@[simp] theorem State.modMn_walks : (s.modMn c id f).walks = s.walks := rfl
@[simp] theorem State.modMn_images : (s.modMn c id f).images = s.images := rfl
@[simp] theorem State.modMn_taps : (s.modMn c id f).taps = s.taps := rfl
@[simp] theorem State.modMn_collectors : (s.modMn c id f).collectors = s.collectors := rfl
@[simp] theorem State.modMn_copies : (s.modMn c id f).copies = s.copies := rfl
@[simp] theorem State.modMn_slices : (s.modMn c id f).slices = s.slices := rfl
@[simp] theorem State.modMn_badLines : (s.modMn c id f).badLines = s.badLines := rfl
@[simp] theorem State.modMn_tills : (s.modMn c id f).tills = s.tills := rfl
@[simp] theorem State.modMn_clearings : (s.modMn c id f).clearings = s.clearings := rfl
@[simp] theorem State.modMn_transfers : (s.modMn c id f).transfers = s.transfers := rfl
@[simp] theorem State.modMn_nextTransfer : (s.modMn c id f).nextTransfer = s.nextTransfer := rfl
@[simp] theorem State.modMn_links : (s.modMn c id f).links = s.links := rfl
@[simp] theorem State.modMn_windows : (s.modMn c id f).windows = s.windows := rfl
@[simp] theorem State.modMn_packets : (s.modMn c id f).packets = s.packets := rfl
@[simp] theorem State.modMn_sentPackets : (s.modMn c id f).sentPackets = s.sentPackets := rfl
@[simp] theorem State.modMn_sentFlits : (s.modMn c id f).sentFlits = s.sentFlits := rfl
@[simp] theorem State.modMn_saved : (s.modMn c id f).saved = s.saved := rfl
@[simp] theorem State.modMn_nextSave : (s.modMn c id f).nextSave = s.nextSave := rfl
@[simp] theorem State.modMn_hostRead : (s.modMn c id f).hostRead = s.hostRead := rfl
@[simp] theorem State.modMn_dev : (s.modMn c id f).dev = s.dev := rfl
end

section
variable (s : State) (c : Coord) (b : Nat) (f : MnBuf → MnBuf)
@[simp] theorem State.modBuf_freeCtr : (s.modBuf c b f).freeCtr = s.freeCtr := rfl
@[simp] theorem State.modBuf_turns : (s.modBuf c b f).turns = s.turns := rfl
@[simp] theorem State.modBuf_cur : (s.modBuf c b f).cur = s.cur := rfl
@[simp] theorem State.modBuf_cyc : (s.modBuf c b f).cyc = s.cyc := rfl
@[simp] theorem State.modBuf_usec : (s.modBuf c b f).usec = s.usec := rfl
@[simp] theorem State.modBuf_mem : (s.modBuf c b f).mem = s.mem := rfl
@[simp] theorem State.modBuf_nodes : (s.modBuf c b f).nodes = s.nodes := rfl
@[simp] theorem State.modBuf_stores : (s.modBuf c b f).stores = s.stores := rfl
@[simp] theorem State.modBuf_clusters : (s.modBuf c b f).clusters = s.clusters := rfl
@[simp] theorem State.modBuf_mes : (s.modBuf c b f).mes = s.mes := rfl
@[simp] theorem State.modBuf_regions : (s.modBuf c b f).regions = s.regions := rfl
@[simp] theorem State.modBuf_nextRegion : (s.modBuf c b f).nextRegion = s.nextRegion := rfl
@[simp] theorem State.modBuf_parts : (s.modBuf c b f).parts = s.parts := rfl
@[simp] theorem State.modBuf_queues : (s.modBuf c b f).queues = s.queues := rfl
@[simp] theorem State.modBuf_snaps : (s.modBuf c b f).snaps = s.snaps := rfl
@[simp] theorem State.modBuf_heldAnswers : (s.modBuf c b f).heldAnswers = s.heldAnswers := rfl
@[simp] theorem State.modBuf_notify : (s.modBuf c b f).notify = s.notify := rfl
@[simp] theorem State.modBuf_msix : (s.modBuf c b f).msix = s.msix := rfl
@[simp] theorem State.modBuf_wire : (s.modBuf c b f).wire = s.wire := rfl
@[simp] theorem State.modBuf_strobes : (s.modBuf c b f).strobes = s.strobes := rfl
@[simp] theorem State.modBuf_ops : (s.modBuf c b f).ops = s.ops := rfl
@[simp] theorem State.modBuf_nextOp : (s.modBuf c b f).nextOp = s.nextOp := rfl
@[simp] theorem State.modBuf_walks : (s.modBuf c b f).walks = s.walks := rfl
@[simp] theorem State.modBuf_images : (s.modBuf c b f).images = s.images := rfl
@[simp] theorem State.modBuf_taps : (s.modBuf c b f).taps = s.taps := rfl
@[simp] theorem State.modBuf_collectors : (s.modBuf c b f).collectors = s.collectors := rfl
@[simp] theorem State.modBuf_copies : (s.modBuf c b f).copies = s.copies := rfl
@[simp] theorem State.modBuf_slices : (s.modBuf c b f).slices = s.slices := rfl
@[simp] theorem State.modBuf_badLines : (s.modBuf c b f).badLines = s.badLines := rfl
@[simp] theorem State.modBuf_tills : (s.modBuf c b f).tills = s.tills := rfl
@[simp] theorem State.modBuf_clearings : (s.modBuf c b f).clearings = s.clearings := rfl
@[simp] theorem State.modBuf_transfers : (s.modBuf c b f).transfers = s.transfers := rfl
@[simp] theorem State.modBuf_nextTransfer : (s.modBuf c b f).nextTransfer = s.nextTransfer := rfl
@[simp] theorem State.modBuf_links : (s.modBuf c b f).links = s.links := rfl
@[simp] theorem State.modBuf_windows : (s.modBuf c b f).windows = s.windows := rfl
@[simp] theorem State.modBuf_packets : (s.modBuf c b f).packets = s.packets := rfl
@[simp] theorem State.modBuf_sentPackets : (s.modBuf c b f).sentPackets = s.sentPackets := rfl
@[simp] theorem State.modBuf_sentFlits : (s.modBuf c b f).sentFlits = s.sentFlits := rfl
@[simp] theorem State.modBuf_saved : (s.modBuf c b f).saved = s.saved := rfl
@[simp] theorem State.modBuf_nextSave : (s.modBuf c b f).nextSave = s.nextSave := rfl
@[simp] theorem State.modBuf_hostRead : (s.modBuf c b f).hostRead = s.hostRead := rfl
@[simp] theorem State.modBuf_dev : (s.modBuf c b f).dev = s.dev := rfl
end

section
variable (s : State) (c : Coord) (f : Till → Till)
@[simp] theorem State.modTill_freeCtr : (s.modTill c f).freeCtr = s.freeCtr := rfl
@[simp] theorem State.modTill_turns : (s.modTill c f).turns = s.turns := rfl
@[simp] theorem State.modTill_cur : (s.modTill c f).cur = s.cur := rfl
@[simp] theorem State.modTill_cyc : (s.modTill c f).cyc = s.cyc := rfl
@[simp] theorem State.modTill_usec : (s.modTill c f).usec = s.usec := rfl
@[simp] theorem State.modTill_mem : (s.modTill c f).mem = s.mem := rfl
@[simp] theorem State.modTill_nodes : (s.modTill c f).nodes = s.nodes := rfl
@[simp] theorem State.modTill_stores : (s.modTill c f).stores = s.stores := rfl
@[simp] theorem State.modTill_clusters : (s.modTill c f).clusters = s.clusters := rfl
@[simp] theorem State.modTill_mes : (s.modTill c f).mes = s.mes := rfl
@[simp] theorem State.modTill_regions : (s.modTill c f).regions = s.regions := rfl
@[simp] theorem State.modTill_nextRegion : (s.modTill c f).nextRegion = s.nextRegion := rfl
@[simp] theorem State.modTill_parts : (s.modTill c f).parts = s.parts := rfl
@[simp] theorem State.modTill_queues : (s.modTill c f).queues = s.queues := rfl
@[simp] theorem State.modTill_snaps : (s.modTill c f).snaps = s.snaps := rfl
@[simp] theorem State.modTill_heldAnswers : (s.modTill c f).heldAnswers = s.heldAnswers := rfl
@[simp] theorem State.modTill_notify : (s.modTill c f).notify = s.notify := rfl
@[simp] theorem State.modTill_msix : (s.modTill c f).msix = s.msix := rfl
@[simp] theorem State.modTill_wire : (s.modTill c f).wire = s.wire := rfl
@[simp] theorem State.modTill_strobes : (s.modTill c f).strobes = s.strobes := rfl
@[simp] theorem State.modTill_ops : (s.modTill c f).ops = s.ops := rfl
@[simp] theorem State.modTill_nextOp : (s.modTill c f).nextOp = s.nextOp := rfl
@[simp] theorem State.modTill_walks : (s.modTill c f).walks = s.walks := rfl
@[simp] theorem State.modTill_images : (s.modTill c f).images = s.images := rfl
@[simp] theorem State.modTill_taps : (s.modTill c f).taps = s.taps := rfl
@[simp] theorem State.modTill_collectors : (s.modTill c f).collectors = s.collectors := rfl
@[simp] theorem State.modTill_copies : (s.modTill c f).copies = s.copies := rfl
@[simp] theorem State.modTill_matrices : (s.modTill c f).matrices = s.matrices := rfl
@[simp] theorem State.modTill_slices : (s.modTill c f).slices = s.slices := rfl
@[simp] theorem State.modTill_badLines : (s.modTill c f).badLines = s.badLines := rfl
@[simp] theorem State.modTill_clearings : (s.modTill c f).clearings = s.clearings := rfl
@[simp] theorem State.modTill_transfers : (s.modTill c f).transfers = s.transfers := rfl
@[simp] theorem State.modTill_nextTransfer : (s.modTill c f).nextTransfer = s.nextTransfer := rfl
@[simp] theorem State.modTill_links : (s.modTill c f).links = s.links := rfl
@[simp] theorem State.modTill_windows : (s.modTill c f).windows = s.windows := rfl
@[simp] theorem State.modTill_packets : (s.modTill c f).packets = s.packets := rfl
@[simp] theorem State.modTill_sentPackets : (s.modTill c f).sentPackets = s.sentPackets := rfl
@[simp] theorem State.modTill_sentFlits : (s.modTill c f).sentFlits = s.sentFlits := rfl
@[simp] theorem State.modTill_saved : (s.modTill c f).saved = s.saved := rfl
@[simp] theorem State.modTill_nextSave : (s.modTill c f).nextSave = s.nextSave := rfl
@[simp] theorem State.modTill_hostRead : (s.modTill c f).hostRead = s.hostRead := rfl
@[simp] theorem State.modTill_dev : (s.modTill c f).dev = s.dev := rfl
end

section
variable (s : State) (r : Nat) (f : Clearing → Clearing)
@[simp] theorem State.modClearing_freeCtr : (s.modClearing r f).freeCtr = s.freeCtr := rfl
@[simp] theorem State.modClearing_turns : (s.modClearing r f).turns = s.turns := rfl
@[simp] theorem State.modClearing_cur : (s.modClearing r f).cur = s.cur := rfl
@[simp] theorem State.modClearing_cyc : (s.modClearing r f).cyc = s.cyc := rfl
@[simp] theorem State.modClearing_usec : (s.modClearing r f).usec = s.usec := rfl
@[simp] theorem State.modClearing_mem : (s.modClearing r f).mem = s.mem := rfl
@[simp] theorem State.modClearing_nodes : (s.modClearing r f).nodes = s.nodes := rfl
@[simp] theorem State.modClearing_stores : (s.modClearing r f).stores = s.stores := rfl
@[simp] theorem State.modClearing_clusters : (s.modClearing r f).clusters = s.clusters := rfl
@[simp] theorem State.modClearing_mes : (s.modClearing r f).mes = s.mes := rfl
@[simp] theorem State.modClearing_regions : (s.modClearing r f).regions = s.regions := rfl
@[simp] theorem State.modClearing_nextRegion : (s.modClearing r f).nextRegion = s.nextRegion := rfl
@[simp] theorem State.modClearing_parts : (s.modClearing r f).parts = s.parts := rfl
@[simp] theorem State.modClearing_queues : (s.modClearing r f).queues = s.queues := rfl
@[simp] theorem State.modClearing_snaps : (s.modClearing r f).snaps = s.snaps := rfl
@[simp] theorem State.modClearing_heldAnswers : (s.modClearing r f).heldAnswers = s.heldAnswers := rfl
@[simp] theorem State.modClearing_notify : (s.modClearing r f).notify = s.notify := rfl
@[simp] theorem State.modClearing_msix : (s.modClearing r f).msix = s.msix := rfl
@[simp] theorem State.modClearing_wire : (s.modClearing r f).wire = s.wire := rfl
@[simp] theorem State.modClearing_strobes : (s.modClearing r f).strobes = s.strobes := rfl
@[simp] theorem State.modClearing_ops : (s.modClearing r f).ops = s.ops := rfl
@[simp] theorem State.modClearing_nextOp : (s.modClearing r f).nextOp = s.nextOp := rfl
@[simp] theorem State.modClearing_walks : (s.modClearing r f).walks = s.walks := rfl
@[simp] theorem State.modClearing_images : (s.modClearing r f).images = s.images := rfl
@[simp] theorem State.modClearing_taps : (s.modClearing r f).taps = s.taps := rfl
@[simp] theorem State.modClearing_collectors : (s.modClearing r f).collectors = s.collectors := rfl
@[simp] theorem State.modClearing_copies : (s.modClearing r f).copies = s.copies := rfl
@[simp] theorem State.modClearing_matrices : (s.modClearing r f).matrices = s.matrices := rfl
@[simp] theorem State.modClearing_slices : (s.modClearing r f).slices = s.slices := rfl
@[simp] theorem State.modClearing_badLines : (s.modClearing r f).badLines = s.badLines := rfl
@[simp] theorem State.modClearing_tills : (s.modClearing r f).tills = s.tills := rfl
@[simp] theorem State.modClearing_transfers : (s.modClearing r f).transfers = s.transfers := rfl
@[simp] theorem State.modClearing_nextTransfer : (s.modClearing r f).nextTransfer = s.nextTransfer := rfl
@[simp] theorem State.modClearing_links : (s.modClearing r f).links = s.links := rfl
@[simp] theorem State.modClearing_windows : (s.modClearing r f).windows = s.windows := rfl
@[simp] theorem State.modClearing_packets : (s.modClearing r f).packets = s.packets := rfl
@[simp] theorem State.modClearing_sentPackets : (s.modClearing r f).sentPackets = s.sentPackets := rfl
@[simp] theorem State.modClearing_sentFlits : (s.modClearing r f).sentFlits = s.sentFlits := rfl
@[simp] theorem State.modClearing_saved : (s.modClearing r f).saved = s.saved := rfl
@[simp] theorem State.modClearing_nextSave : (s.modClearing r f).nextSave = s.nextSave := rfl
@[simp] theorem State.modClearing_hostRead : (s.modClearing r f).hostRead = s.hostRead := rfl
@[simp] theorem State.modClearing_dev : (s.modClearing r f).dev = s.dev := rfl
end

section
variable (s : State) (pos : Coord) (id : Nat) (f : WlOp → WlOp)
@[simp] theorem State.modWlOp_freeCtr : (s.modWlOp pos id f).freeCtr = s.freeCtr := rfl
@[simp] theorem State.modWlOp_turns : (s.modWlOp pos id f).turns = s.turns := rfl
@[simp] theorem State.modWlOp_cur : (s.modWlOp pos id f).cur = s.cur := rfl
@[simp] theorem State.modWlOp_cyc : (s.modWlOp pos id f).cyc = s.cyc := rfl
@[simp] theorem State.modWlOp_usec : (s.modWlOp pos id f).usec = s.usec := rfl
@[simp] theorem State.modWlOp_mem : (s.modWlOp pos id f).mem = s.mem := rfl
@[simp] theorem State.modWlOp_nodes : (s.modWlOp pos id f).nodes = s.nodes := rfl
@[simp] theorem State.modWlOp_stores : (s.modWlOp pos id f).stores = s.stores := rfl
@[simp] theorem State.modWlOp_clusters : (s.modWlOp pos id f).clusters = s.clusters := rfl
@[simp] theorem State.modWlOp_mes : (s.modWlOp pos id f).mes = s.mes := rfl
@[simp] theorem State.modWlOp_regions : (s.modWlOp pos id f).regions = s.regions := rfl
@[simp] theorem State.modWlOp_nextRegion : (s.modWlOp pos id f).nextRegion = s.nextRegion := rfl
@[simp] theorem State.modWlOp_parts : (s.modWlOp pos id f).parts = s.parts := rfl
@[simp] theorem State.modWlOp_queues : (s.modWlOp pos id f).queues = s.queues := rfl
@[simp] theorem State.modWlOp_snaps : (s.modWlOp pos id f).snaps = s.snaps := rfl
@[simp] theorem State.modWlOp_heldAnswers : (s.modWlOp pos id f).heldAnswers = s.heldAnswers := rfl
@[simp] theorem State.modWlOp_notify : (s.modWlOp pos id f).notify = s.notify := rfl
@[simp] theorem State.modWlOp_msix : (s.modWlOp pos id f).msix = s.msix := rfl
@[simp] theorem State.modWlOp_wire : (s.modWlOp pos id f).wire = s.wire := rfl
@[simp] theorem State.modWlOp_strobes : (s.modWlOp pos id f).strobes = s.strobes := rfl
@[simp] theorem State.modWlOp_ops : (s.modWlOp pos id f).ops = s.ops := rfl
@[simp] theorem State.modWlOp_nextOp : (s.modWlOp pos id f).nextOp = s.nextOp := rfl
@[simp] theorem State.modWlOp_walks : (s.modWlOp pos id f).walks = s.walks := rfl
@[simp] theorem State.modWlOp_images : (s.modWlOp pos id f).images = s.images := rfl
@[simp] theorem State.modWlOp_taps : (s.modWlOp pos id f).taps = s.taps := rfl
@[simp] theorem State.modWlOp_collectors : (s.modWlOp pos id f).collectors = s.collectors := rfl
@[simp] theorem State.modWlOp_copies : (s.modWlOp pos id f).copies = s.copies := rfl
@[simp] theorem State.modWlOp_matrices : (s.modWlOp pos id f).matrices = s.matrices := rfl
@[simp] theorem State.modWlOp_slices : (s.modWlOp pos id f).slices = s.slices := rfl
@[simp] theorem State.modWlOp_badLines : (s.modWlOp pos id f).badLines = s.badLines := rfl
@[simp] theorem State.modWlOp_clearings : (s.modWlOp pos id f).clearings = s.clearings := rfl
@[simp] theorem State.modWlOp_transfers : (s.modWlOp pos id f).transfers = s.transfers := rfl
@[simp] theorem State.modWlOp_nextTransfer : (s.modWlOp pos id f).nextTransfer = s.nextTransfer := rfl
@[simp] theorem State.modWlOp_links : (s.modWlOp pos id f).links = s.links := rfl
@[simp] theorem State.modWlOp_windows : (s.modWlOp pos id f).windows = s.windows := rfl
@[simp] theorem State.modWlOp_packets : (s.modWlOp pos id f).packets = s.packets := rfl
@[simp] theorem State.modWlOp_sentPackets : (s.modWlOp pos id f).sentPackets = s.sentPackets := rfl
@[simp] theorem State.modWlOp_sentFlits : (s.modWlOp pos id f).sentFlits = s.sentFlits := rfl
@[simp] theorem State.modWlOp_saved : (s.modWlOp pos id f).saved = s.saved := rfl
@[simp] theorem State.modWlOp_nextSave : (s.modWlOp pos id f).nextSave = s.nextSave := rfl
@[simp] theorem State.modWlOp_hostRead : (s.modWlOp pos id f).hostRead = s.hostRead := rfl
@[simp] theorem State.modWlOp_dev : (s.modWlOp pos id f).dev = s.dev := rfl
end

section
variable (s : State) (c : Coord) (k frame : Nat) (f : Batch → Batch)
@[simp] theorem State.modBatch_freeCtr : (s.modBatch c k frame f).freeCtr = s.freeCtr := rfl
@[simp] theorem State.modBatch_turns : (s.modBatch c k frame f).turns = s.turns := rfl
@[simp] theorem State.modBatch_cur : (s.modBatch c k frame f).cur = s.cur := rfl
@[simp] theorem State.modBatch_cyc : (s.modBatch c k frame f).cyc = s.cyc := rfl
@[simp] theorem State.modBatch_usec : (s.modBatch c k frame f).usec = s.usec := rfl
@[simp] theorem State.modBatch_mem : (s.modBatch c k frame f).mem = s.mem := rfl
@[simp] theorem State.modBatch_nodes : (s.modBatch c k frame f).nodes = s.nodes := rfl
@[simp] theorem State.modBatch_stores : (s.modBatch c k frame f).stores = s.stores := rfl
@[simp] theorem State.modBatch_clusters : (s.modBatch c k frame f).clusters = s.clusters := rfl
@[simp] theorem State.modBatch_mes : (s.modBatch c k frame f).mes = s.mes := rfl
@[simp] theorem State.modBatch_regions : (s.modBatch c k frame f).regions = s.regions := rfl
@[simp] theorem State.modBatch_nextRegion : (s.modBatch c k frame f).nextRegion = s.nextRegion := rfl
@[simp] theorem State.modBatch_parts : (s.modBatch c k frame f).parts = s.parts := rfl
@[simp] theorem State.modBatch_queues : (s.modBatch c k frame f).queues = s.queues := rfl
@[simp] theorem State.modBatch_snaps : (s.modBatch c k frame f).snaps = s.snaps := rfl
@[simp] theorem State.modBatch_heldAnswers : (s.modBatch c k frame f).heldAnswers = s.heldAnswers := rfl
@[simp] theorem State.modBatch_notify : (s.modBatch c k frame f).notify = s.notify := rfl
@[simp] theorem State.modBatch_msix : (s.modBatch c k frame f).msix = s.msix := rfl
@[simp] theorem State.modBatch_wire : (s.modBatch c k frame f).wire = s.wire := rfl
@[simp] theorem State.modBatch_strobes : (s.modBatch c k frame f).strobes = s.strobes := rfl
@[simp] theorem State.modBatch_ops : (s.modBatch c k frame f).ops = s.ops := rfl
@[simp] theorem State.modBatch_nextOp : (s.modBatch c k frame f).nextOp = s.nextOp := rfl
@[simp] theorem State.modBatch_walks : (s.modBatch c k frame f).walks = s.walks := rfl
@[simp] theorem State.modBatch_images : (s.modBatch c k frame f).images = s.images := rfl
@[simp] theorem State.modBatch_taps : (s.modBatch c k frame f).taps = s.taps := rfl
@[simp] theorem State.modBatch_collectors : (s.modBatch c k frame f).collectors = s.collectors := rfl
@[simp] theorem State.modBatch_copies : (s.modBatch c k frame f).copies = s.copies := rfl
@[simp] theorem State.modBatch_matrices : (s.modBatch c k frame f).matrices = s.matrices := rfl
@[simp] theorem State.modBatch_slices : (s.modBatch c k frame f).slices = s.slices := rfl
@[simp] theorem State.modBatch_badLines : (s.modBatch c k frame f).badLines = s.badLines := rfl
@[simp] theorem State.modBatch_clearings : (s.modBatch c k frame f).clearings = s.clearings := rfl
@[simp] theorem State.modBatch_transfers : (s.modBatch c k frame f).transfers = s.transfers := rfl
@[simp] theorem State.modBatch_nextTransfer : (s.modBatch c k frame f).nextTransfer = s.nextTransfer := rfl
@[simp] theorem State.modBatch_links : (s.modBatch c k frame f).links = s.links := rfl
@[simp] theorem State.modBatch_windows : (s.modBatch c k frame f).windows = s.windows := rfl
@[simp] theorem State.modBatch_packets : (s.modBatch c k frame f).packets = s.packets := rfl
@[simp] theorem State.modBatch_sentPackets : (s.modBatch c k frame f).sentPackets = s.sentPackets := rfl
@[simp] theorem State.modBatch_sentFlits : (s.modBatch c k frame f).sentFlits = s.sentFlits := rfl
@[simp] theorem State.modBatch_saved : (s.modBatch c k frame f).saved = s.saved := rfl
@[simp] theorem State.modBatch_nextSave : (s.modBatch c k frame f).nextSave = s.nextSave := rfl
@[simp] theorem State.modBatch_hostRead : (s.modBatch c k frame f).hostRead = s.hostRead := rfl
@[simp] theorem State.modBatch_dev : (s.modBatch c k frame f).dev = s.dev := rfl
end

section
variable (s : State) (h : Nat) (f : Slice → Slice)
@[simp] theorem State.modSlice_freeCtr : (s.modSlice h f).freeCtr = s.freeCtr := rfl
@[simp] theorem State.modSlice_turns : (s.modSlice h f).turns = s.turns := rfl
@[simp] theorem State.modSlice_cur : (s.modSlice h f).cur = s.cur := rfl
@[simp] theorem State.modSlice_cyc : (s.modSlice h f).cyc = s.cyc := rfl
@[simp] theorem State.modSlice_usec : (s.modSlice h f).usec = s.usec := rfl
@[simp] theorem State.modSlice_mem : (s.modSlice h f).mem = s.mem := rfl
@[simp] theorem State.modSlice_nodes : (s.modSlice h f).nodes = s.nodes := rfl
@[simp] theorem State.modSlice_stores : (s.modSlice h f).stores = s.stores := rfl
@[simp] theorem State.modSlice_clusters : (s.modSlice h f).clusters = s.clusters := rfl
@[simp] theorem State.modSlice_mes : (s.modSlice h f).mes = s.mes := rfl
@[simp] theorem State.modSlice_regions : (s.modSlice h f).regions = s.regions := rfl
@[simp] theorem State.modSlice_nextRegion : (s.modSlice h f).nextRegion = s.nextRegion := rfl
@[simp] theorem State.modSlice_parts : (s.modSlice h f).parts = s.parts := rfl
@[simp] theorem State.modSlice_queues : (s.modSlice h f).queues = s.queues := rfl
@[simp] theorem State.modSlice_snaps : (s.modSlice h f).snaps = s.snaps := rfl
@[simp] theorem State.modSlice_heldAnswers : (s.modSlice h f).heldAnswers = s.heldAnswers := rfl
@[simp] theorem State.modSlice_notify : (s.modSlice h f).notify = s.notify := rfl
@[simp] theorem State.modSlice_msix : (s.modSlice h f).msix = s.msix := rfl
@[simp] theorem State.modSlice_wire : (s.modSlice h f).wire = s.wire := rfl
@[simp] theorem State.modSlice_strobes : (s.modSlice h f).strobes = s.strobes := rfl
@[simp] theorem State.modSlice_ops : (s.modSlice h f).ops = s.ops := rfl
@[simp] theorem State.modSlice_nextOp : (s.modSlice h f).nextOp = s.nextOp := rfl
@[simp] theorem State.modSlice_walks : (s.modSlice h f).walks = s.walks := rfl
@[simp] theorem State.modSlice_images : (s.modSlice h f).images = s.images := rfl
@[simp] theorem State.modSlice_taps : (s.modSlice h f).taps = s.taps := rfl
@[simp] theorem State.modSlice_collectors : (s.modSlice h f).collectors = s.collectors := rfl
@[simp] theorem State.modSlice_copies : (s.modSlice h f).copies = s.copies := rfl
@[simp] theorem State.modSlice_matrices : (s.modSlice h f).matrices = s.matrices := rfl
@[simp] theorem State.modSlice_badLines : (s.modSlice h f).badLines = s.badLines := rfl
@[simp] theorem State.modSlice_tills : (s.modSlice h f).tills = s.tills := rfl
@[simp] theorem State.modSlice_clearings : (s.modSlice h f).clearings = s.clearings := rfl
@[simp] theorem State.modSlice_transfers : (s.modSlice h f).transfers = s.transfers := rfl
@[simp] theorem State.modSlice_nextTransfer : (s.modSlice h f).nextTransfer = s.nextTransfer := rfl
@[simp] theorem State.modSlice_links : (s.modSlice h f).links = s.links := rfl
@[simp] theorem State.modSlice_windows : (s.modSlice h f).windows = s.windows := rfl
@[simp] theorem State.modSlice_packets : (s.modSlice h f).packets = s.packets := rfl
@[simp] theorem State.modSlice_sentPackets : (s.modSlice h f).sentPackets = s.sentPackets := rfl
@[simp] theorem State.modSlice_sentFlits : (s.modSlice h f).sentFlits = s.sentFlits := rfl
@[simp] theorem State.modSlice_saved : (s.modSlice h f).saved = s.saved := rfl
@[simp] theorem State.modSlice_nextSave : (s.modSlice h f).nextSave = s.nextSave := rfl
@[simp] theorem State.modSlice_hostRead : (s.modSlice h f).hostRead = s.hostRead := rfl
@[simp] theorem State.modSlice_dev : (s.modSlice h f).dev = s.dev := rfl
end

section
variable (s : State) (l : Nat) (ls : List (Nat × Bool))
@[simp] theorem State.setSet_freeCtr : (s.setSet l ls).freeCtr = s.freeCtr := rfl
@[simp] theorem State.setSet_turns : (s.setSet l ls).turns = s.turns := rfl
@[simp] theorem State.setSet_cur : (s.setSet l ls).cur = s.cur := rfl
@[simp] theorem State.setSet_cyc : (s.setSet l ls).cyc = s.cyc := rfl
@[simp] theorem State.setSet_usec : (s.setSet l ls).usec = s.usec := rfl
@[simp] theorem State.setSet_mem : (s.setSet l ls).mem = s.mem := rfl
@[simp] theorem State.setSet_nodes : (s.setSet l ls).nodes = s.nodes := rfl
@[simp] theorem State.setSet_stores : (s.setSet l ls).stores = s.stores := rfl
@[simp] theorem State.setSet_clusters : (s.setSet l ls).clusters = s.clusters := rfl
@[simp] theorem State.setSet_mes : (s.setSet l ls).mes = s.mes := rfl
@[simp] theorem State.setSet_regions : (s.setSet l ls).regions = s.regions := rfl
@[simp] theorem State.setSet_nextRegion : (s.setSet l ls).nextRegion = s.nextRegion := rfl
@[simp] theorem State.setSet_parts : (s.setSet l ls).parts = s.parts := rfl
@[simp] theorem State.setSet_queues : (s.setSet l ls).queues = s.queues := rfl
@[simp] theorem State.setSet_snaps : (s.setSet l ls).snaps = s.snaps := rfl
@[simp] theorem State.setSet_heldAnswers : (s.setSet l ls).heldAnswers = s.heldAnswers := rfl
@[simp] theorem State.setSet_notify : (s.setSet l ls).notify = s.notify := rfl
@[simp] theorem State.setSet_msix : (s.setSet l ls).msix = s.msix := rfl
@[simp] theorem State.setSet_wire : (s.setSet l ls).wire = s.wire := rfl
@[simp] theorem State.setSet_strobes : (s.setSet l ls).strobes = s.strobes := rfl
@[simp] theorem State.setSet_ops : (s.setSet l ls).ops = s.ops := rfl
@[simp] theorem State.setSet_nextOp : (s.setSet l ls).nextOp = s.nextOp := rfl
@[simp] theorem State.setSet_walks : (s.setSet l ls).walks = s.walks := rfl
@[simp] theorem State.setSet_images : (s.setSet l ls).images = s.images := rfl
@[simp] theorem State.setSet_taps : (s.setSet l ls).taps = s.taps := rfl
@[simp] theorem State.setSet_collectors : (s.setSet l ls).collectors = s.collectors := rfl
@[simp] theorem State.setSet_copies : (s.setSet l ls).copies = s.copies := rfl
@[simp] theorem State.setSet_matrices : (s.setSet l ls).matrices = s.matrices := rfl
@[simp] theorem State.setSet_badLines : (s.setSet l ls).badLines = s.badLines := rfl
@[simp] theorem State.setSet_tills : (s.setSet l ls).tills = s.tills := rfl
@[simp] theorem State.setSet_clearings : (s.setSet l ls).clearings = s.clearings := rfl
@[simp] theorem State.setSet_transfers : (s.setSet l ls).transfers = s.transfers := rfl
@[simp] theorem State.setSet_nextTransfer : (s.setSet l ls).nextTransfer = s.nextTransfer := rfl
@[simp] theorem State.setSet_links : (s.setSet l ls).links = s.links := rfl
@[simp] theorem State.setSet_windows : (s.setSet l ls).windows = s.windows := rfl
@[simp] theorem State.setSet_packets : (s.setSet l ls).packets = s.packets := rfl
@[simp] theorem State.setSet_sentPackets : (s.setSet l ls).sentPackets = s.sentPackets := rfl
@[simp] theorem State.setSet_sentFlits : (s.setSet l ls).sentFlits = s.sentFlits := rfl
@[simp] theorem State.setSet_saved : (s.setSet l ls).saved = s.saved := rfl
@[simp] theorem State.setSet_nextSave : (s.setSet l ls).nextSave = s.nextSave := rfl
@[simp] theorem State.setSet_hostRead : (s.setSet l ls).hostRead = s.hostRead := rfl
@[simp] theorem State.setSet_dev : (s.setSet l ls).dev = s.dev := rfl
end

section
variable (s : State) (p : Nat) (f : LinkNode → LinkNode)
@[simp] theorem State.modLink_freeCtr : (s.modLink p f).freeCtr = s.freeCtr := rfl
@[simp] theorem State.modLink_turns : (s.modLink p f).turns = s.turns := rfl
@[simp] theorem State.modLink_cur : (s.modLink p f).cur = s.cur := rfl
@[simp] theorem State.modLink_cyc : (s.modLink p f).cyc = s.cyc := rfl
@[simp] theorem State.modLink_usec : (s.modLink p f).usec = s.usec := rfl
@[simp] theorem State.modLink_mem : (s.modLink p f).mem = s.mem := rfl
@[simp] theorem State.modLink_nodes : (s.modLink p f).nodes = s.nodes := rfl
@[simp] theorem State.modLink_stores : (s.modLink p f).stores = s.stores := rfl
@[simp] theorem State.modLink_clusters : (s.modLink p f).clusters = s.clusters := rfl
@[simp] theorem State.modLink_mes : (s.modLink p f).mes = s.mes := rfl
@[simp] theorem State.modLink_regions : (s.modLink p f).regions = s.regions := rfl
@[simp] theorem State.modLink_nextRegion : (s.modLink p f).nextRegion = s.nextRegion := rfl
@[simp] theorem State.modLink_parts : (s.modLink p f).parts = s.parts := rfl
@[simp] theorem State.modLink_queues : (s.modLink p f).queues = s.queues := rfl
@[simp] theorem State.modLink_snaps : (s.modLink p f).snaps = s.snaps := rfl
@[simp] theorem State.modLink_heldAnswers : (s.modLink p f).heldAnswers = s.heldAnswers := rfl
@[simp] theorem State.modLink_notify : (s.modLink p f).notify = s.notify := rfl
@[simp] theorem State.modLink_msix : (s.modLink p f).msix = s.msix := rfl
@[simp] theorem State.modLink_wire : (s.modLink p f).wire = s.wire := rfl
@[simp] theorem State.modLink_strobes : (s.modLink p f).strobes = s.strobes := rfl
@[simp] theorem State.modLink_ops : (s.modLink p f).ops = s.ops := rfl
@[simp] theorem State.modLink_nextOp : (s.modLink p f).nextOp = s.nextOp := rfl
@[simp] theorem State.modLink_walks : (s.modLink p f).walks = s.walks := rfl
@[simp] theorem State.modLink_images : (s.modLink p f).images = s.images := rfl
@[simp] theorem State.modLink_taps : (s.modLink p f).taps = s.taps := rfl
@[simp] theorem State.modLink_collectors : (s.modLink p f).collectors = s.collectors := rfl
@[simp] theorem State.modLink_copies : (s.modLink p f).copies = s.copies := rfl
@[simp] theorem State.modLink_matrices : (s.modLink p f).matrices = s.matrices := rfl
@[simp] theorem State.modLink_slices : (s.modLink p f).slices = s.slices := rfl
@[simp] theorem State.modLink_badLines : (s.modLink p f).badLines = s.badLines := rfl
@[simp] theorem State.modLink_tills : (s.modLink p f).tills = s.tills := rfl
@[simp] theorem State.modLink_clearings : (s.modLink p f).clearings = s.clearings := rfl
@[simp] theorem State.modLink_transfers : (s.modLink p f).transfers = s.transfers := rfl
@[simp] theorem State.modLink_nextTransfer : (s.modLink p f).nextTransfer = s.nextTransfer := rfl
@[simp] theorem State.modLink_windows : (s.modLink p f).windows = s.windows := rfl
@[simp] theorem State.modLink_packets : (s.modLink p f).packets = s.packets := rfl
@[simp] theorem State.modLink_sentPackets : (s.modLink p f).sentPackets = s.sentPackets := rfl
@[simp] theorem State.modLink_sentFlits : (s.modLink p f).sentFlits = s.sentFlits := rfl
@[simp] theorem State.modLink_saved : (s.modLink p f).saved = s.saved := rfl
@[simp] theorem State.modLink_nextSave : (s.modLink p f).nextSave = s.nextSave := rfl
@[simp] theorem State.modLink_hostRead : (s.modLink p f).hostRead = s.hostRead := rfl
@[simp] theorem State.modLink_dev : (s.modLink p f).dev = s.dev := rfl
end

section
variable (s : State) (w : Nat) (f : RxWin → RxWin)
@[simp] theorem State.modWin_freeCtr : (s.modWin w f).freeCtr = s.freeCtr := rfl
@[simp] theorem State.modWin_turns : (s.modWin w f).turns = s.turns := rfl
@[simp] theorem State.modWin_cur : (s.modWin w f).cur = s.cur := rfl
@[simp] theorem State.modWin_cyc : (s.modWin w f).cyc = s.cyc := rfl
@[simp] theorem State.modWin_usec : (s.modWin w f).usec = s.usec := rfl
@[simp] theorem State.modWin_mem : (s.modWin w f).mem = s.mem := rfl
@[simp] theorem State.modWin_nodes : (s.modWin w f).nodes = s.nodes := rfl
@[simp] theorem State.modWin_stores : (s.modWin w f).stores = s.stores := rfl
@[simp] theorem State.modWin_clusters : (s.modWin w f).clusters = s.clusters := rfl
@[simp] theorem State.modWin_mes : (s.modWin w f).mes = s.mes := rfl
@[simp] theorem State.modWin_regions : (s.modWin w f).regions = s.regions := rfl
@[simp] theorem State.modWin_nextRegion : (s.modWin w f).nextRegion = s.nextRegion := rfl
@[simp] theorem State.modWin_parts : (s.modWin w f).parts = s.parts := rfl
@[simp] theorem State.modWin_queues : (s.modWin w f).queues = s.queues := rfl
@[simp] theorem State.modWin_snaps : (s.modWin w f).snaps = s.snaps := rfl
@[simp] theorem State.modWin_heldAnswers : (s.modWin w f).heldAnswers = s.heldAnswers := rfl
@[simp] theorem State.modWin_notify : (s.modWin w f).notify = s.notify := rfl
@[simp] theorem State.modWin_msix : (s.modWin w f).msix = s.msix := rfl
@[simp] theorem State.modWin_wire : (s.modWin w f).wire = s.wire := rfl
@[simp] theorem State.modWin_strobes : (s.modWin w f).strobes = s.strobes := rfl
@[simp] theorem State.modWin_ops : (s.modWin w f).ops = s.ops := rfl
@[simp] theorem State.modWin_nextOp : (s.modWin w f).nextOp = s.nextOp := rfl
@[simp] theorem State.modWin_walks : (s.modWin w f).walks = s.walks := rfl
@[simp] theorem State.modWin_images : (s.modWin w f).images = s.images := rfl
@[simp] theorem State.modWin_taps : (s.modWin w f).taps = s.taps := rfl
@[simp] theorem State.modWin_collectors : (s.modWin w f).collectors = s.collectors := rfl
@[simp] theorem State.modWin_copies : (s.modWin w f).copies = s.copies := rfl
@[simp] theorem State.modWin_matrices : (s.modWin w f).matrices = s.matrices := rfl
@[simp] theorem State.modWin_slices : (s.modWin w f).slices = s.slices := rfl
@[simp] theorem State.modWin_badLines : (s.modWin w f).badLines = s.badLines := rfl
@[simp] theorem State.modWin_tills : (s.modWin w f).tills = s.tills := rfl
@[simp] theorem State.modWin_clearings : (s.modWin w f).clearings = s.clearings := rfl
@[simp] theorem State.modWin_transfers : (s.modWin w f).transfers = s.transfers := rfl
@[simp] theorem State.modWin_nextTransfer : (s.modWin w f).nextTransfer = s.nextTransfer := rfl
@[simp] theorem State.modWin_links : (s.modWin w f).links = s.links := rfl
@[simp] theorem State.modWin_packets : (s.modWin w f).packets = s.packets := rfl
@[simp] theorem State.modWin_sentPackets : (s.modWin w f).sentPackets = s.sentPackets := rfl
@[simp] theorem State.modWin_sentFlits : (s.modWin w f).sentFlits = s.sentFlits := rfl
@[simp] theorem State.modWin_saved : (s.modWin w f).saved = s.saved := rfl
@[simp] theorem State.modWin_nextSave : (s.modWin w f).nextSave = s.nextSave := rfl
@[simp] theorem State.modWin_hostRead : (s.modWin w f).hostRead = s.hostRead := rfl
@[simp] theorem State.modWin_dev : (s.modWin w f).dev = s.dev := rfl
end

section
variable (s : State) (p j : Nat) (f : Chan → Chan)
@[simp] theorem State.modChan_freeCtr : (s.modChan p j f).freeCtr = s.freeCtr := rfl
@[simp] theorem State.modChan_turns : (s.modChan p j f).turns = s.turns := rfl
@[simp] theorem State.modChan_cur : (s.modChan p j f).cur = s.cur := rfl
@[simp] theorem State.modChan_cyc : (s.modChan p j f).cyc = s.cyc := rfl
@[simp] theorem State.modChan_usec : (s.modChan p j f).usec = s.usec := rfl
@[simp] theorem State.modChan_mem : (s.modChan p j f).mem = s.mem := rfl
@[simp] theorem State.modChan_nodes : (s.modChan p j f).nodes = s.nodes := rfl
@[simp] theorem State.modChan_stores : (s.modChan p j f).stores = s.stores := rfl
@[simp] theorem State.modChan_clusters : (s.modChan p j f).clusters = s.clusters := rfl
@[simp] theorem State.modChan_mes : (s.modChan p j f).mes = s.mes := rfl
@[simp] theorem State.modChan_regions : (s.modChan p j f).regions = s.regions := rfl
@[simp] theorem State.modChan_nextRegion : (s.modChan p j f).nextRegion = s.nextRegion := rfl
@[simp] theorem State.modChan_parts : (s.modChan p j f).parts = s.parts := rfl
@[simp] theorem State.modChan_queues : (s.modChan p j f).queues = s.queues := rfl
@[simp] theorem State.modChan_snaps : (s.modChan p j f).snaps = s.snaps := rfl
@[simp] theorem State.modChan_heldAnswers : (s.modChan p j f).heldAnswers = s.heldAnswers := rfl
@[simp] theorem State.modChan_notify : (s.modChan p j f).notify = s.notify := rfl
@[simp] theorem State.modChan_msix : (s.modChan p j f).msix = s.msix := rfl
@[simp] theorem State.modChan_wire : (s.modChan p j f).wire = s.wire := rfl
@[simp] theorem State.modChan_strobes : (s.modChan p j f).strobes = s.strobes := rfl
@[simp] theorem State.modChan_ops : (s.modChan p j f).ops = s.ops := rfl
@[simp] theorem State.modChan_nextOp : (s.modChan p j f).nextOp = s.nextOp := rfl
@[simp] theorem State.modChan_walks : (s.modChan p j f).walks = s.walks := rfl
@[simp] theorem State.modChan_images : (s.modChan p j f).images = s.images := rfl
@[simp] theorem State.modChan_taps : (s.modChan p j f).taps = s.taps := rfl
@[simp] theorem State.modChan_collectors : (s.modChan p j f).collectors = s.collectors := rfl
@[simp] theorem State.modChan_copies : (s.modChan p j f).copies = s.copies := rfl
@[simp] theorem State.modChan_matrices : (s.modChan p j f).matrices = s.matrices := rfl
@[simp] theorem State.modChan_slices : (s.modChan p j f).slices = s.slices := rfl
@[simp] theorem State.modChan_badLines : (s.modChan p j f).badLines = s.badLines := rfl
@[simp] theorem State.modChan_tills : (s.modChan p j f).tills = s.tills := rfl
@[simp] theorem State.modChan_clearings : (s.modChan p j f).clearings = s.clearings := rfl
@[simp] theorem State.modChan_transfers : (s.modChan p j f).transfers = s.transfers := rfl
@[simp] theorem State.modChan_nextTransfer : (s.modChan p j f).nextTransfer = s.nextTransfer := rfl
@[simp] theorem State.modChan_windows : (s.modChan p j f).windows = s.windows := rfl
@[simp] theorem State.modChan_packets : (s.modChan p j f).packets = s.packets := rfl
@[simp] theorem State.modChan_sentPackets : (s.modChan p j f).sentPackets = s.sentPackets := rfl
@[simp] theorem State.modChan_sentFlits : (s.modChan p j f).sentFlits = s.sentFlits := rfl
@[simp] theorem State.modChan_saved : (s.modChan p j f).saved = s.saved := rfl
@[simp] theorem State.modChan_nextSave : (s.modChan p j f).nextSave = s.nextSave := rfl
@[simp] theorem State.modChan_hostRead : (s.modChan p j f).hostRead = s.hostRead := rfl
@[simp] theorem State.modChan_dev : (s.modChan p j f).dev = s.dev := rfl
end

section
variable (s : State) (p id : Nat) (f : Msg → Msg)
@[simp] theorem State.modMsg_freeCtr : (s.modMsg p id f).freeCtr = s.freeCtr := rfl
@[simp] theorem State.modMsg_turns : (s.modMsg p id f).turns = s.turns := rfl
@[simp] theorem State.modMsg_cur : (s.modMsg p id f).cur = s.cur := rfl
@[simp] theorem State.modMsg_cyc : (s.modMsg p id f).cyc = s.cyc := rfl
@[simp] theorem State.modMsg_usec : (s.modMsg p id f).usec = s.usec := rfl
@[simp] theorem State.modMsg_mem : (s.modMsg p id f).mem = s.mem := rfl
@[simp] theorem State.modMsg_nodes : (s.modMsg p id f).nodes = s.nodes := rfl
@[simp] theorem State.modMsg_stores : (s.modMsg p id f).stores = s.stores := rfl
@[simp] theorem State.modMsg_clusters : (s.modMsg p id f).clusters = s.clusters := rfl
@[simp] theorem State.modMsg_mes : (s.modMsg p id f).mes = s.mes := rfl
@[simp] theorem State.modMsg_regions : (s.modMsg p id f).regions = s.regions := rfl
@[simp] theorem State.modMsg_nextRegion : (s.modMsg p id f).nextRegion = s.nextRegion := rfl
@[simp] theorem State.modMsg_parts : (s.modMsg p id f).parts = s.parts := rfl
@[simp] theorem State.modMsg_queues : (s.modMsg p id f).queues = s.queues := rfl
@[simp] theorem State.modMsg_snaps : (s.modMsg p id f).snaps = s.snaps := rfl
@[simp] theorem State.modMsg_heldAnswers : (s.modMsg p id f).heldAnswers = s.heldAnswers := rfl
@[simp] theorem State.modMsg_notify : (s.modMsg p id f).notify = s.notify := rfl
@[simp] theorem State.modMsg_msix : (s.modMsg p id f).msix = s.msix := rfl
@[simp] theorem State.modMsg_wire : (s.modMsg p id f).wire = s.wire := rfl
@[simp] theorem State.modMsg_strobes : (s.modMsg p id f).strobes = s.strobes := rfl
@[simp] theorem State.modMsg_ops : (s.modMsg p id f).ops = s.ops := rfl
@[simp] theorem State.modMsg_nextOp : (s.modMsg p id f).nextOp = s.nextOp := rfl
@[simp] theorem State.modMsg_walks : (s.modMsg p id f).walks = s.walks := rfl
@[simp] theorem State.modMsg_images : (s.modMsg p id f).images = s.images := rfl
@[simp] theorem State.modMsg_taps : (s.modMsg p id f).taps = s.taps := rfl
@[simp] theorem State.modMsg_collectors : (s.modMsg p id f).collectors = s.collectors := rfl
@[simp] theorem State.modMsg_copies : (s.modMsg p id f).copies = s.copies := rfl
@[simp] theorem State.modMsg_matrices : (s.modMsg p id f).matrices = s.matrices := rfl
@[simp] theorem State.modMsg_slices : (s.modMsg p id f).slices = s.slices := rfl
@[simp] theorem State.modMsg_badLines : (s.modMsg p id f).badLines = s.badLines := rfl
@[simp] theorem State.modMsg_tills : (s.modMsg p id f).tills = s.tills := rfl
@[simp] theorem State.modMsg_clearings : (s.modMsg p id f).clearings = s.clearings := rfl
@[simp] theorem State.modMsg_transfers : (s.modMsg p id f).transfers = s.transfers := rfl
@[simp] theorem State.modMsg_nextTransfer : (s.modMsg p id f).nextTransfer = s.nextTransfer := rfl
@[simp] theorem State.modMsg_windows : (s.modMsg p id f).windows = s.windows := rfl
@[simp] theorem State.modMsg_packets : (s.modMsg p id f).packets = s.packets := rfl
@[simp] theorem State.modMsg_sentPackets : (s.modMsg p id f).sentPackets = s.sentPackets := rfl
@[simp] theorem State.modMsg_sentFlits : (s.modMsg p id f).sentFlits = s.sentFlits := rfl
@[simp] theorem State.modMsg_saved : (s.modMsg p id f).saved = s.saved := rfl
@[simp] theorem State.modMsg_nextSave : (s.modMsg p id f).nextSave = s.nextSave := rfl
@[simp] theorem State.modMsg_hostRead : (s.modMsg p id f).hostRead = s.hostRead := rfl
@[simp] theorem State.modMsg_dev : (s.modMsg p id f).dev = s.dev := rfl
end

section
variable (s : State) (p id : Nat) (f : LinkOp → LinkOp)
@[simp] theorem State.modLinkOp_freeCtr : (s.modLinkOp p id f).freeCtr = s.freeCtr := rfl
@[simp] theorem State.modLinkOp_turns : (s.modLinkOp p id f).turns = s.turns := rfl
@[simp] theorem State.modLinkOp_cur : (s.modLinkOp p id f).cur = s.cur := rfl
@[simp] theorem State.modLinkOp_cyc : (s.modLinkOp p id f).cyc = s.cyc := rfl
@[simp] theorem State.modLinkOp_usec : (s.modLinkOp p id f).usec = s.usec := rfl
@[simp] theorem State.modLinkOp_mem : (s.modLinkOp p id f).mem = s.mem := rfl
@[simp] theorem State.modLinkOp_nodes : (s.modLinkOp p id f).nodes = s.nodes := rfl
@[simp] theorem State.modLinkOp_stores : (s.modLinkOp p id f).stores = s.stores := rfl
@[simp] theorem State.modLinkOp_clusters : (s.modLinkOp p id f).clusters = s.clusters := rfl
@[simp] theorem State.modLinkOp_mes : (s.modLinkOp p id f).mes = s.mes := rfl
@[simp] theorem State.modLinkOp_regions : (s.modLinkOp p id f).regions = s.regions := rfl
@[simp] theorem State.modLinkOp_nextRegion : (s.modLinkOp p id f).nextRegion = s.nextRegion := rfl
@[simp] theorem State.modLinkOp_parts : (s.modLinkOp p id f).parts = s.parts := rfl
@[simp] theorem State.modLinkOp_queues : (s.modLinkOp p id f).queues = s.queues := rfl
@[simp] theorem State.modLinkOp_snaps : (s.modLinkOp p id f).snaps = s.snaps := rfl
@[simp] theorem State.modLinkOp_heldAnswers : (s.modLinkOp p id f).heldAnswers = s.heldAnswers := rfl
@[simp] theorem State.modLinkOp_notify : (s.modLinkOp p id f).notify = s.notify := rfl
@[simp] theorem State.modLinkOp_msix : (s.modLinkOp p id f).msix = s.msix := rfl
@[simp] theorem State.modLinkOp_wire : (s.modLinkOp p id f).wire = s.wire := rfl
@[simp] theorem State.modLinkOp_strobes : (s.modLinkOp p id f).strobes = s.strobes := rfl
@[simp] theorem State.modLinkOp_ops : (s.modLinkOp p id f).ops = s.ops := rfl
@[simp] theorem State.modLinkOp_nextOp : (s.modLinkOp p id f).nextOp = s.nextOp := rfl
@[simp] theorem State.modLinkOp_walks : (s.modLinkOp p id f).walks = s.walks := rfl
@[simp] theorem State.modLinkOp_images : (s.modLinkOp p id f).images = s.images := rfl
@[simp] theorem State.modLinkOp_taps : (s.modLinkOp p id f).taps = s.taps := rfl
@[simp] theorem State.modLinkOp_collectors : (s.modLinkOp p id f).collectors = s.collectors := rfl
@[simp] theorem State.modLinkOp_copies : (s.modLinkOp p id f).copies = s.copies := rfl
@[simp] theorem State.modLinkOp_matrices : (s.modLinkOp p id f).matrices = s.matrices := rfl
@[simp] theorem State.modLinkOp_slices : (s.modLinkOp p id f).slices = s.slices := rfl
@[simp] theorem State.modLinkOp_badLines : (s.modLinkOp p id f).badLines = s.badLines := rfl
@[simp] theorem State.modLinkOp_tills : (s.modLinkOp p id f).tills = s.tills := rfl
@[simp] theorem State.modLinkOp_clearings : (s.modLinkOp p id f).clearings = s.clearings := rfl
@[simp] theorem State.modLinkOp_transfers : (s.modLinkOp p id f).transfers = s.transfers := rfl
@[simp] theorem State.modLinkOp_nextTransfer : (s.modLinkOp p id f).nextTransfer = s.nextTransfer := rfl
@[simp] theorem State.modLinkOp_windows : (s.modLinkOp p id f).windows = s.windows := rfl
@[simp] theorem State.modLinkOp_packets : (s.modLinkOp p id f).packets = s.packets := rfl
@[simp] theorem State.modLinkOp_sentPackets : (s.modLinkOp p id f).sentPackets = s.sentPackets := rfl
@[simp] theorem State.modLinkOp_sentFlits : (s.modLinkOp p id f).sentFlits = s.sentFlits := rfl
@[simp] theorem State.modLinkOp_saved : (s.modLinkOp p id f).saved = s.saved := rfl
@[simp] theorem State.modLinkOp_nextSave : (s.modLinkOp p id f).nextSave = s.nextSave := rfl
@[simp] theorem State.modLinkOp_hostRead : (s.modLinkOp p id f).hostRead = s.hostRead := rfl
@[simp] theorem State.modLinkOp_dev : (s.modLinkOp p id f).dev = s.dev := rfl
end

section
variable (s : State) (p : Nat) (h : Pkt) (f : RxRec → RxRec)
@[simp] theorem State.modRec_freeCtr : (s.modRec p h f).freeCtr = s.freeCtr := rfl
@[simp] theorem State.modRec_turns : (s.modRec p h f).turns = s.turns := rfl
@[simp] theorem State.modRec_cur : (s.modRec p h f).cur = s.cur := rfl
@[simp] theorem State.modRec_cyc : (s.modRec p h f).cyc = s.cyc := rfl
@[simp] theorem State.modRec_usec : (s.modRec p h f).usec = s.usec := rfl
@[simp] theorem State.modRec_mem : (s.modRec p h f).mem = s.mem := rfl
@[simp] theorem State.modRec_nodes : (s.modRec p h f).nodes = s.nodes := rfl
@[simp] theorem State.modRec_stores : (s.modRec p h f).stores = s.stores := rfl
@[simp] theorem State.modRec_clusters : (s.modRec p h f).clusters = s.clusters := rfl
@[simp] theorem State.modRec_mes : (s.modRec p h f).mes = s.mes := rfl
@[simp] theorem State.modRec_regions : (s.modRec p h f).regions = s.regions := rfl
@[simp] theorem State.modRec_nextRegion : (s.modRec p h f).nextRegion = s.nextRegion := rfl
@[simp] theorem State.modRec_parts : (s.modRec p h f).parts = s.parts := rfl
@[simp] theorem State.modRec_queues : (s.modRec p h f).queues = s.queues := rfl
@[simp] theorem State.modRec_snaps : (s.modRec p h f).snaps = s.snaps := rfl
@[simp] theorem State.modRec_heldAnswers : (s.modRec p h f).heldAnswers = s.heldAnswers := rfl
@[simp] theorem State.modRec_notify : (s.modRec p h f).notify = s.notify := rfl
@[simp] theorem State.modRec_msix : (s.modRec p h f).msix = s.msix := rfl
@[simp] theorem State.modRec_wire : (s.modRec p h f).wire = s.wire := rfl
@[simp] theorem State.modRec_strobes : (s.modRec p h f).strobes = s.strobes := rfl
@[simp] theorem State.modRec_ops : (s.modRec p h f).ops = s.ops := rfl
@[simp] theorem State.modRec_nextOp : (s.modRec p h f).nextOp = s.nextOp := rfl
@[simp] theorem State.modRec_walks : (s.modRec p h f).walks = s.walks := rfl
@[simp] theorem State.modRec_images : (s.modRec p h f).images = s.images := rfl
@[simp] theorem State.modRec_taps : (s.modRec p h f).taps = s.taps := rfl
@[simp] theorem State.modRec_collectors : (s.modRec p h f).collectors = s.collectors := rfl
@[simp] theorem State.modRec_copies : (s.modRec p h f).copies = s.copies := rfl
@[simp] theorem State.modRec_matrices : (s.modRec p h f).matrices = s.matrices := rfl
@[simp] theorem State.modRec_slices : (s.modRec p h f).slices = s.slices := rfl
@[simp] theorem State.modRec_badLines : (s.modRec p h f).badLines = s.badLines := rfl
@[simp] theorem State.modRec_tills : (s.modRec p h f).tills = s.tills := rfl
@[simp] theorem State.modRec_clearings : (s.modRec p h f).clearings = s.clearings := rfl
@[simp] theorem State.modRec_transfers : (s.modRec p h f).transfers = s.transfers := rfl
@[simp] theorem State.modRec_nextTransfer : (s.modRec p h f).nextTransfer = s.nextTransfer := rfl
@[simp] theorem State.modRec_windows : (s.modRec p h f).windows = s.windows := rfl
@[simp] theorem State.modRec_packets : (s.modRec p h f).packets = s.packets := rfl
@[simp] theorem State.modRec_sentPackets : (s.modRec p h f).sentPackets = s.sentPackets := rfl
@[simp] theorem State.modRec_sentFlits : (s.modRec p h f).sentFlits = s.sentFlits := rfl
@[simp] theorem State.modRec_saved : (s.modRec p h f).saved = s.saved := rfl
@[simp] theorem State.modRec_nextSave : (s.modRec p h f).nextSave = s.nextSave := rfl
@[simp] theorem State.modRec_hostRead : (s.modRec p h f).hostRead = s.hostRead := rfl
@[simp] theorem State.modRec_dev : (s.modRec p h f).dev = s.dev := rfl
end

section
variable (s : State) (id : Nat) (f : Op → Op)
@[simp] theorem State.modOp_freeCtr : (s.modOp id f).freeCtr = s.freeCtr := rfl
@[simp] theorem State.modOp_turns : (s.modOp id f).turns = s.turns := rfl
@[simp] theorem State.modOp_cur : (s.modOp id f).cur = s.cur := rfl
@[simp] theorem State.modOp_cyc : (s.modOp id f).cyc = s.cyc := rfl
@[simp] theorem State.modOp_usec : (s.modOp id f).usec = s.usec := rfl
@[simp] theorem State.modOp_mem : (s.modOp id f).mem = s.mem := rfl
@[simp] theorem State.modOp_nodes : (s.modOp id f).nodes = s.nodes := rfl
@[simp] theorem State.modOp_stores : (s.modOp id f).stores = s.stores := rfl
@[simp] theorem State.modOp_clusters : (s.modOp id f).clusters = s.clusters := rfl
@[simp] theorem State.modOp_mes : (s.modOp id f).mes = s.mes := rfl
@[simp] theorem State.modOp_regions : (s.modOp id f).regions = s.regions := rfl
@[simp] theorem State.modOp_nextRegion : (s.modOp id f).nextRegion = s.nextRegion := rfl
@[simp] theorem State.modOp_parts : (s.modOp id f).parts = s.parts := rfl
@[simp] theorem State.modOp_queues : (s.modOp id f).queues = s.queues := rfl
@[simp] theorem State.modOp_snaps : (s.modOp id f).snaps = s.snaps := rfl
@[simp] theorem State.modOp_heldAnswers : (s.modOp id f).heldAnswers = s.heldAnswers := rfl
@[simp] theorem State.modOp_notify : (s.modOp id f).notify = s.notify := rfl
@[simp] theorem State.modOp_msix : (s.modOp id f).msix = s.msix := rfl
@[simp] theorem State.modOp_wire : (s.modOp id f).wire = s.wire := rfl
@[simp] theorem State.modOp_strobes : (s.modOp id f).strobes = s.strobes := rfl
@[simp] theorem State.modOp_nextOp : (s.modOp id f).nextOp = s.nextOp := rfl
@[simp] theorem State.modOp_walks : (s.modOp id f).walks = s.walks := rfl
@[simp] theorem State.modOp_images : (s.modOp id f).images = s.images := rfl
@[simp] theorem State.modOp_taps : (s.modOp id f).taps = s.taps := rfl
@[simp] theorem State.modOp_collectors : (s.modOp id f).collectors = s.collectors := rfl
@[simp] theorem State.modOp_copies : (s.modOp id f).copies = s.copies := rfl
@[simp] theorem State.modOp_matrices : (s.modOp id f).matrices = s.matrices := rfl
@[simp] theorem State.modOp_slices : (s.modOp id f).slices = s.slices := rfl
@[simp] theorem State.modOp_badLines : (s.modOp id f).badLines = s.badLines := rfl
@[simp] theorem State.modOp_tills : (s.modOp id f).tills = s.tills := rfl
@[simp] theorem State.modOp_clearings : (s.modOp id f).clearings = s.clearings := rfl
@[simp] theorem State.modOp_transfers : (s.modOp id f).transfers = s.transfers := rfl
@[simp] theorem State.modOp_nextTransfer : (s.modOp id f).nextTransfer = s.nextTransfer := rfl
@[simp] theorem State.modOp_links : (s.modOp id f).links = s.links := rfl
@[simp] theorem State.modOp_windows : (s.modOp id f).windows = s.windows := rfl
@[simp] theorem State.modOp_packets : (s.modOp id f).packets = s.packets := rfl
@[simp] theorem State.modOp_sentPackets : (s.modOp id f).sentPackets = s.sentPackets := rfl
@[simp] theorem State.modOp_sentFlits : (s.modOp id f).sentFlits = s.sentFlits := rfl
@[simp] theorem State.modOp_saved : (s.modOp id f).saved = s.saved := rfl
@[simp] theorem State.modOp_nextSave : (s.modOp id f).nextSave = s.nextSave := rfl
@[simp] theorem State.modOp_hostRead : (s.modOp id f).hostRead = s.hostRead := rfl
@[simp] theorem State.modOp_dev : (s.modOp id f).dev = s.dev := rfl
end

section
variable (s : State) 
@[simp] theorem State.bumpOp_freeCtr : (s.bumpOp).freeCtr = s.freeCtr := rfl
@[simp] theorem State.bumpOp_turns : (s.bumpOp).turns = s.turns := rfl
@[simp] theorem State.bumpOp_cur : (s.bumpOp).cur = s.cur := rfl
@[simp] theorem State.bumpOp_cyc : (s.bumpOp).cyc = s.cyc := rfl
@[simp] theorem State.bumpOp_usec : (s.bumpOp).usec = s.usec := rfl
@[simp] theorem State.bumpOp_mem : (s.bumpOp).mem = s.mem := rfl
@[simp] theorem State.bumpOp_nodes : (s.bumpOp).nodes = s.nodes := rfl
@[simp] theorem State.bumpOp_stores : (s.bumpOp).stores = s.stores := rfl
@[simp] theorem State.bumpOp_clusters : (s.bumpOp).clusters = s.clusters := rfl
@[simp] theorem State.bumpOp_mes : (s.bumpOp).mes = s.mes := rfl
@[simp] theorem State.bumpOp_regions : (s.bumpOp).regions = s.regions := rfl
@[simp] theorem State.bumpOp_nextRegion : (s.bumpOp).nextRegion = s.nextRegion := rfl
@[simp] theorem State.bumpOp_parts : (s.bumpOp).parts = s.parts := rfl
@[simp] theorem State.bumpOp_queues : (s.bumpOp).queues = s.queues := rfl
@[simp] theorem State.bumpOp_snaps : (s.bumpOp).snaps = s.snaps := rfl
@[simp] theorem State.bumpOp_heldAnswers : (s.bumpOp).heldAnswers = s.heldAnswers := rfl
@[simp] theorem State.bumpOp_notify : (s.bumpOp).notify = s.notify := rfl
@[simp] theorem State.bumpOp_msix : (s.bumpOp).msix = s.msix := rfl
@[simp] theorem State.bumpOp_wire : (s.bumpOp).wire = s.wire := rfl
@[simp] theorem State.bumpOp_strobes : (s.bumpOp).strobes = s.strobes := rfl
@[simp] theorem State.bumpOp_ops : (s.bumpOp).ops = s.ops := rfl
@[simp] theorem State.bumpOp_walks : (s.bumpOp).walks = s.walks := rfl
@[simp] theorem State.bumpOp_images : (s.bumpOp).images = s.images := rfl
@[simp] theorem State.bumpOp_taps : (s.bumpOp).taps = s.taps := rfl
@[simp] theorem State.bumpOp_collectors : (s.bumpOp).collectors = s.collectors := rfl
@[simp] theorem State.bumpOp_copies : (s.bumpOp).copies = s.copies := rfl
@[simp] theorem State.bumpOp_matrices : (s.bumpOp).matrices = s.matrices := rfl
@[simp] theorem State.bumpOp_slices : (s.bumpOp).slices = s.slices := rfl
@[simp] theorem State.bumpOp_badLines : (s.bumpOp).badLines = s.badLines := rfl
@[simp] theorem State.bumpOp_tills : (s.bumpOp).tills = s.tills := rfl
@[simp] theorem State.bumpOp_clearings : (s.bumpOp).clearings = s.clearings := rfl
@[simp] theorem State.bumpOp_transfers : (s.bumpOp).transfers = s.transfers := rfl
@[simp] theorem State.bumpOp_nextTransfer : (s.bumpOp).nextTransfer = s.nextTransfer := rfl
@[simp] theorem State.bumpOp_links : (s.bumpOp).links = s.links := rfl
@[simp] theorem State.bumpOp_windows : (s.bumpOp).windows = s.windows := rfl
@[simp] theorem State.bumpOp_packets : (s.bumpOp).packets = s.packets := rfl
@[simp] theorem State.bumpOp_sentPackets : (s.bumpOp).sentPackets = s.sentPackets := rfl
@[simp] theorem State.bumpOp_sentFlits : (s.bumpOp).sentFlits = s.sentFlits := rfl
@[simp] theorem State.bumpOp_saved : (s.bumpOp).saved = s.saved := rfl
@[simp] theorem State.bumpOp_nextSave : (s.bumpOp).nextSave = s.nextSave := rfl
@[simp] theorem State.bumpOp_hostRead : (s.bumpOp).hostRead = s.hostRead := rfl
@[simp] theorem State.bumpOp_dev : (s.bumpOp).dev = s.dev := rfl
end

section
variable (s : State) (a : Nat) (bs : List Byte)
@[simp] theorem State.memWrite_freeCtr : (s.memWrite a bs).freeCtr = s.freeCtr := rfl
@[simp] theorem State.memWrite_turns : (s.memWrite a bs).turns = s.turns := rfl
@[simp] theorem State.memWrite_cur : (s.memWrite a bs).cur = s.cur := rfl
@[simp] theorem State.memWrite_cyc : (s.memWrite a bs).cyc = s.cyc := rfl
@[simp] theorem State.memWrite_usec : (s.memWrite a bs).usec = s.usec := rfl
@[simp] theorem State.memWrite_nodes : (s.memWrite a bs).nodes = s.nodes := rfl
@[simp] theorem State.memWrite_stores : (s.memWrite a bs).stores = s.stores := rfl
@[simp] theorem State.memWrite_clusters : (s.memWrite a bs).clusters = s.clusters := rfl
@[simp] theorem State.memWrite_mes : (s.memWrite a bs).mes = s.mes := rfl
@[simp] theorem State.memWrite_regions : (s.memWrite a bs).regions = s.regions := rfl
@[simp] theorem State.memWrite_nextRegion : (s.memWrite a bs).nextRegion = s.nextRegion := rfl
@[simp] theorem State.memWrite_parts : (s.memWrite a bs).parts = s.parts := rfl
@[simp] theorem State.memWrite_queues : (s.memWrite a bs).queues = s.queues := rfl
@[simp] theorem State.memWrite_snaps : (s.memWrite a bs).snaps = s.snaps := rfl
@[simp] theorem State.memWrite_heldAnswers : (s.memWrite a bs).heldAnswers = s.heldAnswers := rfl
@[simp] theorem State.memWrite_notify : (s.memWrite a bs).notify = s.notify := rfl
@[simp] theorem State.memWrite_msix : (s.memWrite a bs).msix = s.msix := rfl
@[simp] theorem State.memWrite_wire : (s.memWrite a bs).wire = s.wire := rfl
@[simp] theorem State.memWrite_strobes : (s.memWrite a bs).strobes = s.strobes := rfl
@[simp] theorem State.memWrite_ops : (s.memWrite a bs).ops = s.ops := rfl
@[simp] theorem State.memWrite_nextOp : (s.memWrite a bs).nextOp = s.nextOp := rfl
@[simp] theorem State.memWrite_walks : (s.memWrite a bs).walks = s.walks := rfl
@[simp] theorem State.memWrite_images : (s.memWrite a bs).images = s.images := rfl
@[simp] theorem State.memWrite_taps : (s.memWrite a bs).taps = s.taps := rfl
@[simp] theorem State.memWrite_collectors : (s.memWrite a bs).collectors = s.collectors := rfl
@[simp] theorem State.memWrite_copies : (s.memWrite a bs).copies = s.copies := rfl
@[simp] theorem State.memWrite_matrices : (s.memWrite a bs).matrices = s.matrices := rfl
@[simp] theorem State.memWrite_slices : (s.memWrite a bs).slices = s.slices := rfl
@[simp] theorem State.memWrite_badLines : (s.memWrite a bs).badLines = s.badLines := rfl
@[simp] theorem State.memWrite_tills : (s.memWrite a bs).tills = s.tills := rfl
@[simp] theorem State.memWrite_clearings : (s.memWrite a bs).clearings = s.clearings := rfl
@[simp] theorem State.memWrite_transfers : (s.memWrite a bs).transfers = s.transfers := rfl
@[simp] theorem State.memWrite_nextTransfer : (s.memWrite a bs).nextTransfer = s.nextTransfer := rfl
@[simp] theorem State.memWrite_links : (s.memWrite a bs).links = s.links := rfl
@[simp] theorem State.memWrite_windows : (s.memWrite a bs).windows = s.windows := rfl
@[simp] theorem State.memWrite_packets : (s.memWrite a bs).packets = s.packets := rfl
@[simp] theorem State.memWrite_sentPackets : (s.memWrite a bs).sentPackets = s.sentPackets := rfl
@[simp] theorem State.memWrite_sentFlits : (s.memWrite a bs).sentFlits = s.sentFlits := rfl
@[simp] theorem State.memWrite_saved : (s.memWrite a bs).saved = s.saved := rfl
@[simp] theorem State.memWrite_nextSave : (s.memWrite a bs).nextSave = s.nextSave := rfl
@[simp] theorem State.memWrite_hostRead : (s.memWrite a bs).hostRead = s.hostRead := rfl
@[simp] theorem State.memWrite_dev : (s.memWrite a bs).dev = s.dev := rfl
end

section
variable (s : State) 
@[simp] theorem State.uncorrectable_freeCtr : (s.uncorrectable).freeCtr = s.freeCtr := rfl
@[simp] theorem State.uncorrectable_turns : (s.uncorrectable).turns = s.turns := rfl
@[simp] theorem State.uncorrectable_cur : (s.uncorrectable).cur = s.cur := rfl
@[simp] theorem State.uncorrectable_cyc : (s.uncorrectable).cyc = s.cyc := rfl
@[simp] theorem State.uncorrectable_usec : (s.uncorrectable).usec = s.usec := rfl
@[simp] theorem State.uncorrectable_mem : (s.uncorrectable).mem = s.mem := rfl
@[simp] theorem State.uncorrectable_nodes : (s.uncorrectable).nodes = s.nodes := rfl
@[simp] theorem State.uncorrectable_stores : (s.uncorrectable).stores = s.stores := rfl
@[simp] theorem State.uncorrectable_clusters : (s.uncorrectable).clusters = s.clusters := rfl
@[simp] theorem State.uncorrectable_mes : (s.uncorrectable).mes = s.mes := rfl
@[simp] theorem State.uncorrectable_regions : (s.uncorrectable).regions = s.regions := rfl
@[simp] theorem State.uncorrectable_nextRegion : (s.uncorrectable).nextRegion = s.nextRegion := rfl
@[simp] theorem State.uncorrectable_parts : (s.uncorrectable).parts = s.parts := rfl
@[simp] theorem State.uncorrectable_queues : (s.uncorrectable).queues = s.queues := rfl
@[simp] theorem State.uncorrectable_snaps : (s.uncorrectable).snaps = s.snaps := rfl
@[simp] theorem State.uncorrectable_heldAnswers : (s.uncorrectable).heldAnswers = s.heldAnswers := rfl
@[simp] theorem State.uncorrectable_notify : (s.uncorrectable).notify = s.notify := rfl
@[simp] theorem State.uncorrectable_msix : (s.uncorrectable).msix = s.msix := rfl
@[simp] theorem State.uncorrectable_wire : (s.uncorrectable).wire = s.wire := rfl
@[simp] theorem State.uncorrectable_strobes : (s.uncorrectable).strobes = s.strobes := rfl
@[simp] theorem State.uncorrectable_ops : (s.uncorrectable).ops = s.ops := rfl
@[simp] theorem State.uncorrectable_nextOp : (s.uncorrectable).nextOp = s.nextOp := rfl
@[simp] theorem State.uncorrectable_walks : (s.uncorrectable).walks = s.walks := rfl
@[simp] theorem State.uncorrectable_images : (s.uncorrectable).images = s.images := rfl
@[simp] theorem State.uncorrectable_taps : (s.uncorrectable).taps = s.taps := rfl
@[simp] theorem State.uncorrectable_collectors : (s.uncorrectable).collectors = s.collectors := rfl
@[simp] theorem State.uncorrectable_copies : (s.uncorrectable).copies = s.copies := rfl
@[simp] theorem State.uncorrectable_matrices : (s.uncorrectable).matrices = s.matrices := rfl
@[simp] theorem State.uncorrectable_slices : (s.uncorrectable).slices = s.slices := rfl
@[simp] theorem State.uncorrectable_badLines : (s.uncorrectable).badLines = s.badLines := rfl
@[simp] theorem State.uncorrectable_tills : (s.uncorrectable).tills = s.tills := rfl
@[simp] theorem State.uncorrectable_clearings : (s.uncorrectable).clearings = s.clearings := rfl
@[simp] theorem State.uncorrectable_transfers : (s.uncorrectable).transfers = s.transfers := rfl
@[simp] theorem State.uncorrectable_nextTransfer : (s.uncorrectable).nextTransfer = s.nextTransfer := rfl
@[simp] theorem State.uncorrectable_links : (s.uncorrectable).links = s.links := rfl
@[simp] theorem State.uncorrectable_windows : (s.uncorrectable).windows = s.windows := rfl
@[simp] theorem State.uncorrectable_packets : (s.uncorrectable).packets = s.packets := rfl
@[simp] theorem State.uncorrectable_sentPackets : (s.uncorrectable).sentPackets = s.sentPackets := rfl
@[simp] theorem State.uncorrectable_sentFlits : (s.uncorrectable).sentFlits = s.sentFlits := rfl
@[simp] theorem State.uncorrectable_saved : (s.uncorrectable).saved = s.saved := rfl
@[simp] theorem State.uncorrectable_nextSave : (s.uncorrectable).nextSave = s.nextSave := rfl
@[simp] theorem State.uncorrectable_hostRead : (s.uncorrectable).hostRead = s.hostRead := rfl
end

end Sys2Proof.Machine
end

