-- ==== Sys2Proof/Laws/Memory.lean ====
section
/-! SUPPORT. The canonical form of memory: what it says, and that every operation which writes memory keeps it. -/

namespace Sys2Proof.Machine

/-! ## Lists of cells -/

theorem Memory.wfFrom_mono {lo lo' : Nat} (m : List Host.Cell) (h : lo' ≤ lo) (w : Memory.wfFrom lo m = true) :
    Memory.wfFrom lo' m = true := by
  cases m with
  | nil => rfl
  | cons c m =>
    obtain ⟨a, b⟩ := c
    simp only [Memory.wfFrom, Bool.and_eq_true, decide_eq_true_eq] at w ⊢
    exact ⟨⟨by omega, w.1.2⟩, w.2⟩

theorem Memory.wfFrom_write (m : List Host.Cell) (lo a : Nat) (b : Byte) (h : lo ≤ a) (w : Memory.wfFrom lo m = true) :
    Memory.wfFrom lo (Memory.write m a b) = true := by
  induction m generalizing lo with
  | nil => by_cases hb : b = Memory.blank <;> simp [Memory.write, Memory.wfFrom, hb, h]
  | cons c m ih =>
    obtain ⟨a', b'⟩ := c
    simp only [Memory.wfFrom, Bool.and_eq_true, decide_eq_true_eq] at w
    obtain ⟨⟨w1, w2⟩, w3⟩ := w
    unfold Memory.write
    split
    · split
      · simp [Memory.wfFrom, w1, w2, w3]
      · simp [Memory.wfFrom, *, Memory.wfFrom_mono m (by omega : a' + 1 ≤ a' + 1) w3] <;> omega
    · split
      · subst_vars
        split
        · exact Memory.wfFrom_mono m (by omega) w3
        · simp [Memory.wfFrom, *]
      · simp [Memory.wfFrom, w1, w2, ih (a' + 1) (by omega) w3]

/-- A byte written keeps the canonical form. -/
theorem Memory.wf_write (m : List Host.Cell) (a : Nat) (b : Byte) (w : Memory.wf m = true) :
    Memory.wf (Memory.write m a b) = true := Memory.wfFrom_write m 0 a b (Nat.zero_le _) w

/-- Consecutive bytes written keep the canonical form. -/
theorem Memory.wf_writes (m : List Host.Cell) (a : Nat) (bs : List Byte) (w : Memory.wf m = true) :
    Memory.wf (Memory.writes m a bs) = true := by
  induction bs generalizing m a with
  | nil => exact w
  | cons b bs ih => exact ih _ _ (Memory.wf_write m a b w)

/-- Bytes written each at its own address keep the canonical form. -/
theorem Memory.wf_writeCells (m cs : List Host.Cell) (w : Memory.wf m = true) :
    Memory.wf (Memory.writeCells m cs) = true := by
  induction cs generalizing m with
  | nil => exact w
  | cons c cs ih => exact ih _ (Memory.wf_write m c.1 c.2 w)

theorem Memory.wfFrom_filter (p : Host.Cell → Bool) (m : List Host.Cell) (lo : Nat) (w : Memory.wfFrom lo m = true) :
    Memory.wfFrom lo (m.filter p) = true := by
  induction m generalizing lo with
  | nil => rfl
  | cons c m ih =>
    obtain ⟨a, b⟩ := c
    simp only [Memory.wfFrom, Bool.and_eq_true, decide_eq_true_eq] at w
    cases h : p (a, b)
    · simp only [List.filter_cons, h]
      exact Memory.wfFrom_mono _ (by omega : lo ≤ a + 1) (ih _ w.2)
    · simp only [List.filter_cons, h, if_true, Memory.wfFrom, Bool.and_eq_true, decide_eq_true_eq]
      exact ⟨w.1, ih _ w.2⟩

/-- Cells taken out of memory leave the canonical form. -/
theorem Memory.wf_filter (p : Host.Cell → Bool) (m : List Host.Cell) (w : Memory.wf m = true) :
    Memory.wf (m.filter p) = true := Memory.wfFrom_filter p m 0 w

/-- Cells that move keep the canonical form. -/
theorem wf_moveCells (lo hi : Nat) (f : Nat → Nat) (m : List Host.Cell) (w : Memory.wf m = true) :
    Memory.wf (moveCells lo hi f m) = true := Memory.wf_writeCells _ _ (Memory.wf_filter _ m w)

/-! ## The machine -/

/-- The reset state's memory lists nothing. -/
@[simp] theorem State.reset_mem : State.reset.mem = [] := rfl
theorem State.good_reset : State.reset.Good := rfl

/-- A state keeps its form with its memory. -/
theorem State.Good.of_mem {s t : State} (h : s.Good) (e : t.mem = s.mem) : t.Good := by
  unfold State.Good at *; rw [e]; exact h

theorem State.Good.memWrite {s : State} (h : s.Good) (a : Nat) (bs : List Byte) : (s.memWrite a bs).Good :=
  Memory.wf_writes _ _ _ h

end Sys2Proof.Machine
end

