-- ==== Sys2Proof/Laws/Frames.lean ====
section
/-! SUPPORT. What the shared operations leave as it is: `f_mem` says that memory stays, and `f_kept` that all of State.kept does. -/

namespace Sys2Proof.Machine

/-- A part of the state that no step of a fold changes stays as it is. -/
theorem foldl_keep {α β : Type} (p : State → β) (f : State → α → State) (h : ∀ s x, p (f s x) = p s) (l : List α) (s : State) :
    p (l.foldl f s) = p s := by
  induction l generalizing s with
  | nil => rfl
  | cons x l ih => rw [List.foldl_cons, ih, h]

/-- What a firing's instruction leaves as it is: memory, the schedule, the device's registers, queues, notify registers, the networks and the engines that act by themselves. -/
def State.kept (s : State) :=
  (s.mem, s.turns, s.dev, s.cyc, s.queues, s.notify, s.wire, s.packets, s.matrices, s.tills, s.links, s.windows)

/-- The memory of states that keep the same. -/
theorem State.mem_of_kept {s t : State} (h : t.kept = s.kept) : t.mem = s.mem := congrArg (·.1) h

@[simp] theorem State.sendStrobe_kept (s : State) (src dst : Peer) (region sk : Nat) (arg : List (Nat × Nat)) (batch : Nat) :
    (s.sendStrobe src dst region sk arg batch).kept = s.kept := rfl
@[simp] theorem State.sendStrobe_mem (s : State) (src dst : Peer) (region sk : Nat) (arg : List (Nat × Nat)) (batch : Nat) :
    (s.sendStrobe src dst region sk arg batch).mem = s.mem := rfl
@[simp] theorem State.setNode_kept (s : State) (c : Coord) (n : Node) : (s.setNode c n).kept = s.kept := rfl
@[simp] theorem State.modNode_kept (s : State) (c : Coord) (f : Node → Node) : (s.modNode c f).kept = s.kept := rfl
@[simp] theorem State.modCtx_kept (s : State) (c : Coord) (k : Nat) (f : Ctx → Ctx) : (s.modCtx c k f).kept = s.kept := rfl
@[simp] theorem State.modSlot_kept (s : State) (c : Coord) (i : Nat) (f : Firing → Firing) : (s.modSlot c i f).kept = s.kept := rfl
@[simp] theorem State.modStore_kept (s : State) (c : Coord) (f : Store → Store) : (s.modStore c f).kept = s.kept := rfl
@[simp] theorem State.modCluster_kept (s : State) (g : Nat) (f : Cluster → Cluster) : (s.modCluster g f).kept = s.kept := rfl
@[simp] theorem State.modMe_kept (s : State) (c : Coord) (f : Me → Me) : (s.modMe c f).kept = s.kept := rfl
@[simp] theorem State.modPart_kept (s : State) (p : Nat) (f : Partition → Partition) : (s.modPart p f).kept = s.kept := rfl
@[simp] theorem State.modRegion_kept (s : State) (r : Nat) (f : Region → Region) : (s.modRegion r f).kept = s.kept := rfl
@[simp] theorem State.modBlk_kept (s : State) (r b : Nat) (f : Blk → Blk) : (s.modBlk r b f).kept = s.kept := rfl
@[simp] theorem State.modFrame_kept (s : State) (r f : Nat) (g : Frame → Frame) : (s.modFrame r f g).kept = s.kept := rfl
@[simp] theorem State.modPset_kept (s : State) (r k : Nat) (f : PartySet → PartySet) : (s.modPset r k f).kept = s.kept := rfl
@[simp] theorem State.tcntAdd_kept (s : State) (r f k : Nat) : (s.tcntAdd r f k).kept = s.kept := rfl
@[simp] theorem State.tcntAdd_mem (s : State) (r f k : Nat) : (s.tcntAdd r f k).mem = s.mem := rfl
@[simp] theorem State.tcntSub_kept (s : State) (r f k : Nat) : (s.tcntSub r f k).kept = s.kept := rfl
@[simp] theorem State.tcntSub_mem (s : State) (r f k : Nat) : (s.tcntSub r f k).mem = s.mem := rfl
@[simp] theorem State.progress_kept (s : State) (r : Nat) : (s.progress r).kept = s.kept := rfl
@[simp] theorem State.progress_mem (s : State) (r : Nat) : (s.progress r).mem = s.mem := rfl
@[simp] theorem State.post_kept (s : State) (part queue lid : Nat) (i : FaultInfo) : (s.post part queue lid i).kept = s.kept := rfl
@[simp] theorem State.post_mem (s : State) (part queue lid : Nat) (i : FaultInfo) : (s.post part queue lid i).mem = s.mem := rfl
@[simp] theorem State.postFor_kept (s : State) (r : Region) (hold : Hold) (i : FaultInfo) : (s.postFor r hold i).kept = s.kept := by unfold State.postFor; split <;> simp
@[simp] theorem State.postFor_mem (s : State) (r : Region) (hold : Hold) (i : FaultInfo) : (s.postFor r hold i).mem = s.mem := by unfold State.postFor; split <;> simp
@[simp] theorem State.waitToPost_kept (s : State) (part : Nat) : (s.waitToPost part).kept = s.kept := rfl
@[simp] theorem State.waitToPost_mem (s : State) (part : Nat) : (s.waitToPost part).mem = s.mem := rfl
@[simp] theorem State.returnChit_kept (s : State) (c : Coord) (k port : Nat) : (s.returnChit c k port).kept = s.kept := rfl
@[simp] theorem State.returnChit_mem (s : State) (c : Coord) (k port : Nat) : (s.returnChit c k port).mem = s.mem := rfl
@[simp] theorem State.leaveBuf_kept (s : State) (dst : Coord) (k port arr : Nat) (buf : Buf) : (s.leaveBuf dst k port arr buf).kept = s.kept := by unfold State.leaveBuf; (repeat' split) <;> simp
@[simp] theorem State.leaveBuf_mem (s : State) (dst : Coord) (k port arr : Nat) (buf : Buf) : (s.leaveBuf dst k port arr buf).mem = s.mem := by unfold State.leaveBuf; (repeat' split) <;> simp
@[simp] theorem State.cellAccess_kept (s : State) (part : Nat) (write : Bool) (off k : Nat) : (s.cellAccess part write off k).kept = s.kept := rfl
@[simp] theorem State.cellAccess_mem (s : State) (part : Nat) (write : Bool) (off k : Nat) : (s.cellAccess part write off k).mem = s.mem := rfl
@[simp] theorem State.tokenAccess_kept (s : State) (region : Nat) (write : Bool) (b : Buf) : (s.tokenAccess region write b).kept = s.kept := by
  unfold State.tokenAccess; split <;> rfl
@[simp] theorem State.tokenAccess_mem (s : State) (region : Nat) (write : Bool) (b : Buf) : (s.tokenAccess region write b).mem = s.mem := by
  unfold State.tokenAccess; split <;> rfl
@[simp] theorem State.imageAccess_kept (s : State) (region : Nat) (write : Bool) (cell : Option Nat) : (s.imageAccess region write cell).kept = s.kept := by
  unfold State.imageAccess; split <;> rfl
@[simp] theorem State.imageAccess_mem (s : State) (region : Nat) (write : Bool) (cell : Option Nat) : (s.imageAccess region write cell).mem = s.mem := by
  unfold State.imageAccess; split <;> rfl
@[simp] theorem State.withdraw_kept (s : State) (region : Nat) (st : Coord) (p : Piece) : (s.withdraw region st p).kept = s.kept := by
  unfold State.withdraw; (try dsimp only); (repeat' split) <;> first | rfl | (simp; done) | (simp_all; done)
@[simp] theorem State.withdraw_mem (s : State) (region : Nat) (st : Coord) (p : Piece) : (s.withdraw region st p).mem = s.mem := by
  unfold State.withdraw; (try dsimp only); (repeat' split) <;> first | rfl | (simp; done) | (simp_all; done)
@[simp] theorem State.giveBack_kept (s : State) (pos : Coord) (f : Firing) : (s.giveBack pos f).kept = s.kept := by
  unfold State.giveBack; (try dsimp only); (repeat' split) <;> first | rfl | (simp; done) | (simp_all; done) |
    (refine (foldl_keep State.kept _ (fun s x => ?_) _ _).trans ?_ <;> (try dsimp only) <;> (repeat' split) <;> first | rfl | (simp; done) | (simp_all; done))
@[simp] theorem State.giveBack_mem (s : State) (pos : Coord) (f : Firing) : (s.giveBack pos f).mem = s.mem := by
  unfold State.giveBack; (try dsimp only); (repeat' split) <;> first | rfl | (simp; done) | (simp_all; done) |
    (refine (foldl_keep State.mem _ (fun s x => ?_) _ _).trans ?_ <;> (try dsimp only) <;> (repeat' split) <;> first | rfl | (simp; done) | (simp_all; done))
@[simp] theorem State.parkFrame_kept (s : State) (r : Region) (f : Nat) : (s.parkFrame r f).kept = s.kept := by
  unfold State.parkFrame; (try dsimp only); (repeat' split) <;> first | rfl | (simp; done) | (simp_all; done) |
    (refine (foldl_keep State.kept _ (fun s x => ?_) _ _).trans ?_ <;> (try dsimp only) <;> (repeat' split) <;> first | rfl | (simp; done) | (simp_all; done))
@[simp] theorem State.parkFrame_mem (s : State) (r : Region) (f : Nat) : (s.parkFrame r f).mem = s.mem := by
  unfold State.parkFrame; (try dsimp only); (repeat' split) <;> first | rfl | (simp; done) | (simp_all; done) |
    (refine (foldl_keep State.mem _ (fun s x => ?_) _ _).trans ?_ <;> (try dsimp only) <;> (repeat' split) <;> first | rfl | (simp; done) | (simp_all; done))
@[simp] theorem State.waitParked_kept (s : State) (r : Region) (f : Nat) : (s.waitParked r f).kept = s.kept := by simp [State.waitParked]
@[simp] theorem State.waitParked_mem (s : State) (r : Region) (f : Nat) : (s.waitParked r f).mem = s.mem := by simp [State.waitParked]
@[simp] theorem State.reportSink_kept (s : State) (pos : Coord) (f : Firing) (akind addr lane count : Nat) : (s.reportSink pos f akind addr lane count).kept = s.kept := by unfold State.reportSink; (repeat' split) <;> simp
@[simp] theorem State.reportSink_mem (s : State) (pos : Coord) (f : Firing) (akind addr lane count : Nat) : (s.reportSink pos f akind addr lane count).mem = s.mem := by unfold State.reportSink; (repeat' split) <;> simp
@[simp] theorem State.closeRec_kept (s : State) (part recno : Nat) : (s.closeRec part recno).kept = s.kept := rfl
@[simp] theorem State.closeRec_mem (s : State) (part recno : Nat) : (s.closeRec part recno).mem = s.mem := rfl
@[simp] theorem State.unparkFrame_kept (s : State) (region f : Nat) : (s.unparkFrame region f).kept = s.kept := by
  unfold State.unparkFrame; (try dsimp only); (repeat' split) <;> first | rfl | (simp; done) | (simp_all; done) |
    (refine (foldl_keep State.kept _ (fun s x => ?_) _ _).trans ?_ <;> (try dsimp only) <;> (repeat' split) <;> first | rfl | (simp; done) | (simp_all; done))
@[simp] theorem State.unparkFrame_mem (s : State) (region f : Nat) : (s.unparkFrame region f).mem = s.mem := by
  unfold State.unparkFrame; (try dsimp only); (repeat' split) <;> first | rfl | (simp; done) | (simp_all; done) |
    (refine (foldl_keep State.mem _ (fun s x => ?_) _ _).trans ?_ <;> (try dsimp only) <;> (repeat' split) <;> first | rfl | (simp; done) | (simp_all; done))
@[simp] theorem State.answerImage_kept (s : State) (part recno : Nat) (trap : Bool) (act : Nat) (pval : Word) : (s.answerImage part recno trap act pval).kept = s.kept := rfl
@[simp] theorem State.answerImage_mem (s : State) (part recno : Nat) (trap : Bool) (act : Nat) (pval : Word) : (s.answerImage part recno trap act pval).mem = s.mem := rfl
@[simp] theorem State.nfySet_mem (s : State) (k : Nat) (v : Word) : (s.nfySet k v).mem = s.mem := by
  unfold State.nfySet; (try dsimp only); (repeat' split) <;> first | rfl | (simp; done) | (simp_all; done)
@[simp] theorem State.nfyAdd_mem (s : State) (k : Nat) (v : Word) : (s.nfyAdd k v).mem = s.mem := by simp [State.nfyAdd]
@[simp] theorem State.nfyMax_mem (s : State) (k : Nat) (v : Word) : (s.nfyMax k v).mem = s.mem := by unfold State.nfyMax; split <;> simp
@[simp] theorem State.enqueue_kept (s : State) (pos : Coord) (k rw : Nat) (reply prepaid : Bool) (t : Token) : (s.enqueue pos k rw reply prepaid t).kept = s.kept := by
  unfold State.enqueue; (try dsimp only); (repeat' split) <;> first | rfl | (simp; done) | (simp_all; done)
@[simp] theorem State.enqueue_mem (s : State) (pos : Coord) (k rw : Nat) (reply prepaid : Bool) (t : Token) : (s.enqueue pos k rw reply prepaid t).mem = s.mem := by
  unfold State.enqueue; (try dsimp only); (repeat' split) <;> first | rfl | (simp; done) | (simp_all; done)
@[simp] theorem State.enqueueRun_kept (s : State) (pos : Coord) (k rw : Nat) (reply prepaid : Bool) (t : Token) : (s.enqueueRun pos k rw reply prepaid t).kept = s.kept := by
  unfold State.enqueueRun; exact foldl_keep State.kept _ (fun s x => by simp) _ _
@[simp] theorem State.enqueueRun_mem (s : State) (pos : Coord) (k rw : Nat) (reply prepaid : Bool) (t : Token) : (s.enqueueRun pos k rw reply prepaid t).mem = s.mem := by
  unfold State.enqueueRun; exact foldl_keep State.mem _ (fun s x => by simp) _ _
@[simp] theorem State.sendReceipt_kept (s : State) (pos : Coord) (k rw frame iter flags scope seq : Nat) (poisoned : Bool) : (s.sendReceipt pos k rw frame iter flags scope seq poisoned).kept = s.kept := by unfold State.sendReceipt; split <;> simp
@[simp] theorem State.sendReceipt_mem (s : State) (pos : Coord) (k rw frame iter flags scope seq : Nat) (poisoned : Bool) : (s.sendReceipt pos k rw frame iter flags scope seq poisoned).mem = s.mem := by unfold State.sendReceipt; split <;> simp
@[simp] theorem State.owe_kept (s : State) (pos : Coord) (k frame count : Nat) : (s.owe pos k frame count).kept = s.kept := rfl
@[simp] theorem State.owe_mem (s : State) (pos : Coord) (k frame count : Nat) : (s.owe pos k frame count).mem = s.mem := rfl
@[simp] theorem State.repay_kept (s : State) (pos : Coord) (k frame count : Nat) : (s.repay pos k frame count).kept = s.kept := rfl
@[simp] theorem State.repay_mem (s : State) (pos : Coord) (k frame count : Nat) : (s.repay pos k frame count).mem = s.mem := rfl
@[simp] theorem State.tapRecord_kept (s : State) (die : Nat) (x : Nat × Nat) (t : Token) : (s.tapRecord die x t).kept = s.kept := by
  unfold State.tapRecord; (try dsimp only); (repeat' split) <;> first | rfl | (simp; done) | (simp_all; done)
@[simp] theorem State.tapRecord_mem (s : State) (die : Nat) (x : Nat × Nat) (t : Token) : (s.tapRecord die x t).mem = s.mem := by
  unfold State.tapRecord; (try dsimp only); (repeat' split) <;> first | rfl | (simp; done) | (simp_all; done)
@[simp] theorem State.tapRecords_kept (s : State) (die : Nat) (l : List (Nat × Nat)) (t : Token) : (s.tapRecords die l t).kept = s.kept :=
  foldl_keep State.kept _ (fun s x => s.tapRecord_kept die x t) l s
@[simp] theorem State.tapRecords_mem (s : State) (die : Nat) (l : List (Nat × Nat)) (t : Token) : (s.tapRecords die l t).mem = s.mem :=
  foldl_keep (·.mem) _ (fun s x => s.tapRecord_mem die x t) l s
@[simp] theorem State.takeChit_kept (s : State) (c : Coord) (k port : Nat) : (s.takeChit c k port).kept = s.kept := by unfold State.takeChit; split <;> simp
@[simp] theorem State.takeChit_mem (s : State) (c : Coord) (k port : Nat) : (s.takeChit c k port).mem = s.mem := by unfold State.takeChit; split <;> simp
@[simp] theorem State.count_kept (s : State) (pos : Coord) (key : Nat × Nat) (sent taken : Nat) : (s.count pos key sent taken).kept = s.kept := rfl
@[simp] theorem State.count_mem (s : State) (pos : Coord) (key : Nat × Nat) (sent taken : Nat) : (s.count pos key sent taken).mem = s.mem := rfl
@[simp] theorem State.depart_mem (s : State) (pos : Coord) (o : OutTok) (i : Nat) : (s.depart pos o i).mem = s.mem := by
  unfold State.depart; (try dsimp only); (repeat' split) <;> first | rfl | (simp; done) | (simp_all; done)
@[simp] theorem State.intoShared_kept (s : State) (st : Coord) (p : Piece) : (s.intoShared st p).kept = s.kept := rfl
@[simp] theorem State.intoShared_mem (s : State) (st : Coord) (p : Piece) : (s.intoShared st p).mem = s.mem := rfl
theorem State.stash_kept {s t : State} {r : Nat} {st : Coord} {copy : Bool} {p : Piece} (h : s.stash r st copy p = some t) : t.kept = s.kept := by
  unfold State.stash at h
  dsimp only at h
  repeat' split at h
  all_goals first | (cases h; simp; done) | simp at h
@[simp] theorem State.place_kept (s : State) (region : Nat) (st : Coord) (p : Piece) : (s.place region st p).kept = s.kept := by
  unfold State.place
  dsimp only
  repeat' split
  all_goals first | (simp; done) | exact State.stash_kept ‹_›
@[simp] theorem State.place_mem (s : State) (region : Nat) (st : Coord) (p : Piece) : (s.place region st p).mem = s.mem := State.mem_of_kept (by simp)
@[simp] theorem State.placeLeft_kept (s : State) (region : Nat) (st : Coord) (first : Bool) (p : Piece) : (s.placeLeft region st first p).kept = s.kept := by
  unfold State.placeLeft
  repeat' split
  all_goals first | (simp; done) | exact State.stash_kept ‹_›
@[simp] theorem State.placeLeft_mem (s : State) (region : Nat) (st : Coord) (first : Bool) (p : Piece) : (s.placeLeft region st first p).mem = s.mem := State.mem_of_kept (by simp)
@[simp] theorem State.take_kept (s : State) (st : Coord) (p : Piece) : (s.take st p).kept = s.kept := rfl
@[simp] theorem State.take_mem (s : State) (st : Coord) (p : Piece) : (s.take st p).mem = s.mem := rfl
@[simp] theorem State.relieve_kept (s : State) (region : Nat) (dst : Coord) (k port : Nat) : (s.relieve region dst k port).kept = s.kept := by
  unfold State.relieve
  dsimp only
  repeat' split
  all_goals first | rfl | (rw [State.stash_kept ‹_›]; simp) | simp
@[simp] theorem State.relieve_mem (s : State) (region : Nat) (dst : Coord) (k port : Nat) : (s.relieve region dst k port).mem = s.mem := State.mem_of_kept (by simp)
@[simp] theorem State.admitFiring_kept (s : State) (dst : Coord) (k frame iter n tmask : Nat) (ps : List PortIn) : (s.admitFiring dst k frame iter n tmask ps).kept = s.kept := rfl
@[simp] theorem State.admitFiring_mem (s : State) (dst : Coord) (k frame iter n tmask : Nat) (ps : List PortIn) : (s.admitFiring dst k frame iter n tmask ps).mem = s.mem := rfl
@[simp] theorem State.placeLeftovers_kept (s : State) (region : Nat) (st : Coord) (ps : List Piece) : (s.placeLeftovers region st ps).kept = s.kept := by
  unfold State.placeLeftovers; exact foldl_keep State.kept _ (fun s x => by simp) _ _
@[simp] theorem State.placeLeftovers_mem (s : State) (region : Nat) (st : Coord) (ps : List Piece) : (s.placeLeftovers region st ps).mem = s.mem := State.mem_of_kept (by simp)
@[simp] theorem State.arriveOverlap_kept (s : State) (region : Nat) (st : Coord) (first : Bool) (fuel : Nat) (p : Piece) : (s.arriveOverlap region st first fuel p).kept = s.kept := by
  induction fuel generalizing s first p with
  | zero => simp [State.arriveOverlap]
  | succ n ih =>
    unfold State.arriveOverlap
    dsimp only
    split
    · simp
    · rw [foldl_keep State.kept _ (fun s x => ih _ _ _), foldl_keep State.kept _ (fun s x => by simp), State.tcntAdd_kept, State.admitFiring_kept,
        foldl_keep State.kept _ (fun s x => by simp)]
@[simp] theorem State.arriveOverlap_mem (s : State) (region : Nat) (st : Coord) (first : Bool) (fuel : Nat) (p : Piece) : (s.arriveOverlap region st first fuel p).mem = s.mem := State.mem_of_kept (by simp)
@[simp] theorem State.arriveExact_kept (s : State) (region : Nat) (st : Coord) (p : Piece) : (s.arriveExact region st p).kept = s.kept := by
  unfold State.arriveExact
  dsimp only
  split
  · simp only [State.admitFiring_kept]; exact foldl_keep State.kept _ (fun s x => by simp) _ _
  · simp
@[simp] theorem State.arriveExact_mem (s : State) (region : Nat) (st : Coord) (p : Piece) : (s.arriveExact region st p).mem = s.mem := State.mem_of_kept (by simp)
@[simp] theorem State.arrive_kept (s : State) (region : Nat) (st : Coord) (p : Piece) : (s.arrive region st p).kept = s.kept := by
  unfold State.arrive
  dsimp only
  split
  · exact State.arriveExact_kept _ _ _ _
  · exact State.arriveOverlap_kept _ _ _ _ _ _
  · exact State.admitFiring_kept _ _ _ _ _ _ _ _
@[simp] theorem State.arrive_mem (s : State) (region : Nat) (st : Coord) (p : Piece) : (s.arrive region st p).mem = s.mem := State.mem_of_kept (by simp)
@[simp] theorem State.endScales_kept (s : State) (region : Nat) (pos : Coord) : (s.endScales region pos).kept = s.kept := by
  unfold State.endScales; exact foldl_keep State.kept _ (fun s x => by simp) _ _
@[simp] theorem State.endScales_mem (s : State) (region : Nat) (pos : Coord) : (s.endScales region pos).mem = s.mem := by
  unfold State.endScales; exact foldl_keep State.mem _ (fun s x => by simp) _ _
@[simp] theorem State.gather_kept (s : State) (pos : Coord) (slot : Nat) : (s.gather pos slot).kept = s.kept := by
  unfold State.gather
  dsimp only
  repeat' split
  · rfl
  · rfl
  · rw [State.endScales_kept, foldl_keep State.kept _ (fun s x => by simp), State.modSlot_kept]
@[simp] theorem State.gather_mem (s : State) (pos : Coord) (slot : Nat) : (s.gather pos slot).mem = s.mem := State.mem_of_kept (by simp)
@[simp] theorem State.raise_kept (s : State) (pos : Coord) (k fl : Nat) : (s.raise pos k fl).kept = s.kept := by unfold State.raise; split <;> simp
@[simp] theorem State.raise_mem (s : State) (pos : Coord) (k fl : Nat) : (s.raise pos k fl).mem = s.mem := by unfold State.raise; split <;> simp
@[simp] theorem State.writeDst_kept (s : State) (pos : Coord) (slot : Nat) (f : Firing) (d : Dst) (wide : Bool) (mask : Nat) (ls : List (Nat × Lane)) : (s.writeDst pos slot f d wide mask ls).kept = s.kept := by cases d <;> simp [State.writeDst]
@[simp] theorem State.writeDst_mem (s : State) (pos : Coord) (slot : Nat) (f : Firing) (d : Dst) (wide : Bool) (mask : Nat) (ls : List (Nat × Lane)) : (s.writeDst pos slot f d wide mask ls).mem = s.mem := State.mem_of_kept (by simp)
@[simp] theorem State.leaveSlot_kept (s : State) (pos : Coord) (slot : Nat) (f : Firing) : (s.leaveSlot pos slot f).kept = s.kept := rfl
@[simp] theorem State.leaveSlot_mem (s : State) (pos : Coord) (slot : Nat) (f : Firing) : (s.leaveSlot pos slot f).mem = s.mem := rfl
@[simp] theorem State.advance_kept (s : State) (pos : Coord) (slot : Nat) : (s.advance pos slot).kept = s.kept := by
  unfold State.advance; dsimp only; repeat' split
  all_goals simp
@[simp] theorem State.advance_mem (s : State) (pos : Coord) (slot : Nat) : (s.advance pos slot).mem = s.mem := State.mem_of_kept (by simp)
@[simp] theorem State.reenter_kept (s : State) (pos : Coord) (slot : Nat) (f : Firing) : (s.reenter pos slot f).kept = s.kept := by unfold State.reenter; dsimp only; (repeat' split) <;> simp
@[simp] theorem State.reenter_mem (s : State) (pos : Coord) (slot : Nat) (f : Firing) : (s.reenter pos slot f).mem = s.mem := State.mem_of_kept (by simp)
@[simp] theorem State.countSkip_kept (s : State) (pos : Coord) (k : Nat) : (s.countSkip pos k).kept = s.kept := by unfold State.countSkip; split <;> simp
@[simp] theorem State.countSkip_mem (s : State) (pos : Coord) (k : Nat) : (s.countSkip pos k).mem = s.mem := by unfold State.countSkip; split <;> simp
@[simp] theorem State.partDone_kept (s : State) (part : Nat) : (s.partDone part).kept = s.kept := by simp [State.partDone]
@[simp] theorem State.partDone_mem (s : State) (part : Nat) : (s.partDone part).mem = s.mem := by simp [State.partDone]
@[simp] theorem State.issueEarly_kept (s : State) (f : Firing) (ls : List (Nat × Lane)) : (s.issueEarly f ls).kept = s.kept := by
  unfold State.issueEarly; dsimp only; split <;> simp
@[simp] theorem State.issueEarly_mem (s : State) (f : Firing) (ls : List (Nat × Lane)) : (s.issueEarly f ls).mem = s.mem := State.mem_of_kept (by simp)
@[simp] theorem State.complete_kept (s : State) (f : Firing) (d : Dst) (wide : Bool) (mask : Nat) (ls : List (Nat × Lane)) : (s.complete f d wide mask ls).kept = s.kept := by simp [State.complete]
@[simp] theorem State.complete_mem (s : State) (f : Firing) (d : Dst) (wide : Bool) (mask : Nat) (ls : List (Nat × Lane)) : (s.complete f d wide mask ls).mem = s.mem := State.mem_of_kept (by simp)
@[simp] theorem State.sinkNames_kept (s : State) (f : Firing) (n : Niw) (lanes : List Nat) (all : Nat) : (s.sinkNames f n lanes all).kept = s.kept := by unfold State.sinkNames; split <;> simp
@[simp] theorem State.sinkNames_mem (s : State) (f : Firing) (n : Niw) (lanes : List Nat) (all : Nat) : (s.sinkNames f n lanes all).mem = s.mem := by unfold State.sinkNames; split <;> simp
@[simp] theorem State.goOn_kept (s : State)  : (s.goOn).kept = s.kept := by simp [State.goOn]
@[simp] theorem State.goOn_mem (s : State)  : (s.goOn).mem = s.mem := State.mem_of_kept (by simp)
@[simp] theorem State.countIfSkipped_kept (s : State) (n : Niw) (f : Firing) : (s.countIfSkipped n f).kept = s.kept := by unfold State.countIfSkipped; split <;> simp
@[simp] theorem State.countIfSkipped_mem (s : State) (n : Niw) (f : Firing) : (s.countIfSkipped n f).mem = s.mem := by unfold State.countIfSkipped; split <;> simp
@[simp] theorem State.payParty_kept (s : State) (frame : Nat) (o : Owed) (scope : Nat) (poisoned : Bool) : (s.payParty frame o scope poisoned).kept = s.kept := by unfold State.payParty; (repeat' split) <;> simp
@[simp] theorem State.payParty_mem (s : State) (frame : Nat) (o : Owed) (scope : Nat) (poisoned : Bool) : (s.payParty frame o scope poisoned).mem = s.mem := by unfold State.payParty; (repeat' split) <;> simp
@[simp] theorem State.phaseTest_kept (s : State) (r k : Nat) (n : Nat) : (s.phaseTest r k n).kept = s.kept := by
  induction n generalizing s with
  | zero => simp [State.phaseTest]
  | succ n ih =>
    unfold State.phaseTest
    dsimp only
    repeat' split
    all_goals first | rfl | skip
    rw [ih, State.modPset_kept, foldl_keep State.kept _ (fun s x => by split <;> simp), foldl_keep State.kept _ (fun s x => by simp),
      foldl_keep State.kept _ (fun s x => by simp)]
@[simp] theorem State.phaseTest_mem (s : State) (r k : Nat) (n : Nat) : (s.phaseTest r k n).mem = s.mem := State.mem_of_kept (by simp)
@[simp] theorem State.leaveSet_kept (s : State) (r k f : Nat) : (s.leaveSet r k f).kept = s.kept := by simp [State.leaveSet]
@[simp] theorem State.leaveSet_mem (s : State) (r k f : Nat) : (s.leaveSet r k f).mem = s.mem := State.mem_of_kept (by simp)
@[simp] theorem State.quitSet_kept (s : State) (r k f : Nat) : (s.quitSet r k f).kept = s.kept := by simp [State.quitSet]
@[simp] theorem State.quitSet_mem (s : State) (r k f : Nat) : (s.quitSet r k f).mem = s.mem := State.mem_of_kept (by simp)
@[simp] theorem State.oweParty_kept (s : State) (f : Firing) (rw : Nat) : (s.oweParty f rw).kept = s.kept := by unfold State.oweParty; split <;> simp
@[simp] theorem State.oweParty_mem (s : State) (f : Firing) (rw : Nat) : (s.oweParty f rw).mem = s.mem := by unfold State.oweParty; split <;> simp
@[simp] theorem State.tick_mem (s : State) (cycles usec : Nat) : (s.tick cycles usec).mem = s.mem := by
  unfold State.tick; (try dsimp only); (repeat' split) <;> first | rfl | (simp; done) | (simp_all; done) |
    (refine (foldl_keep State.mem _ (fun s x => ?_) _ _).trans ?_ <;> (try dsimp only) <;> (repeat' split) <;> first | rfl | (simp; done) | (simp_all; done))
@[simp] theorem State.modSlice_kept (s : State) (h : Nat) (f : Slice → Slice) : (s.modSlice h f).kept = s.kept := rfl
@[simp] theorem State.setSet_kept (s : State) (l : Nat) (ls : List (Nat × Bool)) : (s.setSet l ls).kept = s.kept := rfl
@[simp] theorem State.meterHome_kept (s : State) (p : Option Nat) (events transfers : Nat) : (s.meterHome p events transfers).kept = s.kept := by unfold State.meterHome; split <;> simp
@[simp] theorem State.meterHome_mem (s : State) (p : Option Nat) (events transfers : Nat) : (s.meterHome p events transfers).mem = s.mem := by unfold State.meterHome; split <;> simp
@[simp] theorem State.install_kept (s : State) (p : Option Nat) (l : Nat) (dirty : Bool) : (s.install p l dirty).kept = s.kept := by simp [State.install]
@[simp] theorem State.install_mem (s : State) (p : Option Nat) (l : Nat) (dirty : Bool) : (s.install p l dirty).mem = s.mem := by simp [State.install]
@[simp] theorem State.fill_kept (s : State) (p : Option Nat) (l : Nat) : (s.fill p l).kept = s.kept := by simp [State.fill]
@[simp] theorem State.fill_mem (s : State) (p : Option Nat) (l : Nat) : (s.fill p l).mem = s.mem := by simp [State.fill]
@[simp] theorem State.useLine_kept (s : State) (p : Option Nat) (l : Nat) (write hit : Bool) : (s.useLine p l write hit).kept = s.kept := by unfold State.useLine; (repeat' split) <;> simp
@[simp] theorem State.useLine_mem (s : State) (p : Option Nat) (l : Nat) (write hit : Bool) : (s.useLine p l write hit).mem = s.mem := by unfold State.useLine; (repeat' split) <;> simp
@[simp] theorem State.tagWrite_kept (s : State) (l : Nat) (atomic : Bool) : (s.tagWrite l atomic).1.kept = s.kept := rfl
@[simp] theorem State.tagWrite_mem (s : State) (l : Nat) (atomic : Bool) : (s.tagWrite l atomic).1.mem = s.mem := rfl
@[simp] theorem State.clean_kept (s : State) (p : Option Nat) (l : Nat) : (s.clean p l).kept = s.kept := by unfold State.clean; split <;> simp
@[simp] theorem State.clean_mem (s : State) (p : Option Nat) (l : Nat) : (s.clean p l).mem = s.mem := by unfold State.clean; split <;> simp
@[simp] theorem State.invalidate_kept (s : State) (l : Nat) : (s.invalidate l).kept = s.kept := by unfold State.invalidate; split <;> simp
@[simp] theorem State.invalidate_mem (s : State) (l : Nat) : (s.invalidate l).mem = s.mem := by unfold State.invalidate; split <;> simp
@[simp] theorem State.readEvent_kept (s : State) (p : Option Nat) (l : Nat) (dev : Bool) : (s.readEvent p l dev).kept = s.kept := by unfold State.readEvent; split <;> simp
@[simp] theorem State.readEvent_mem (s : State) (p : Option Nat) (l : Nat) (dev : Bool) : (s.readEvent p l dev).mem = s.mem := by unfold State.readEvent; split <;> simp
@[simp] theorem State.oweTier_kept (s : State) (l : Nat) (ws : List (Coord × Nat × Nat × Nat)) (seen rel : Bool) : (s.oweTier l ws seen rel).kept = s.kept := by unfold State.oweTier; split <;> simp
@[simp] theorem State.oweTier_mem (s : State) (l : Nat) (ws : List (Coord × Nat × Nat × Nat)) (seen rel : Bool) : (s.oweTier l ws seen rel).mem = s.mem := by unfold State.oweTier; split <;> simp
@[simp] theorem State.readTier_kept (s : State) (l region : Nat) (sys : Bool) : (s.readTier l region sys).kept = s.kept := rfl
@[simp] theorem State.readTier_mem (s : State) (l region : Nat) (sys : Bool) : (s.readTier l region sys).mem = s.mem := rfl
@[simp] theorem State.writeThrough_kept (s : State) (p : Option Nat) (hit : TierLine → Bool) : (s.writeThrough p hit).kept = s.kept := by
  unfold State.writeThrough; exact foldl_keep State.kept _ (fun s x => by simp) _ _
@[simp] theorem State.writeThrough_mem (s : State) (p : Option Nat) (hit : TierLine → Bool) : (s.writeThrough p hit).mem = s.mem := by
  unfold State.writeThrough; exact foldl_keep State.mem _ (fun s x => by simp) _ _
@[simp] theorem State.drain_kept (s : State) (g : Nat) (ids : List Nat) (sys : Bool) : (s.drain g ids sys).kept = s.kept := rfl
@[simp] theorem State.drain_mem (s : State) (g : Nat) (ids : List Nat) (sys : Bool) : (s.drain g ids sys).mem = s.mem := rfl
@[simp] theorem State.drainOldest_kept (s : State) (g : Nat) : (s.drainOldest g).kept = s.kept := by unfold State.drainOldest; split <;> simp
@[simp] theorem State.drainOldest_mem (s : State) (g : Nat) : (s.drainOldest g).mem = s.mem := by unfold State.drainOldest; split <;> simp
@[simp] theorem State.settle_kept (s : State)  : (s.settle).kept = s.kept := rfl
@[simp] theorem State.settle_mem (s : State)  : (s.settle).mem = s.mem := rfl
@[simp] theorem State.modOp_kept (s : State) (id : Nat) (f : Op → Op) : (s.modOp id f).kept = s.kept := rfl
@[simp] theorem State.issue_kept (s : State) (o : Op) : (s.issue o).kept = s.kept := rfl
@[simp] theorem State.issue_mem (s : State) (o : Op) : (s.issue o).mem = s.mem := rfl
@[simp] theorem State.sinkLanes_kept (s : State) (f : Firing) (g : Bool) (lanes : List (Nat × Int)) : (s.sinkLanes f g lanes).kept = s.kept := by unfold State.sinkLanes; split <;> simp
@[simp] theorem State.sinkLanes_mem (s : State) (f : Firing) (g : Bool) (lanes : List (Nat × Int)) : (s.sinkLanes f g lanes).mem = s.mem := by unfold State.sinkLanes; split <;> simp
@[simp] theorem State.countMe_kept (s : State) (k : Nat) : (s.countMe k).kept = s.kept := rfl
@[simp] theorem State.countMe_mem (s : State) (k : Nat) : (s.countMe k).mem = s.mem := rfl
@[simp] theorem State.askWalks_kept (s : State) (f : Firing) (stream : Option Nat) (part : Nat) (vas : List Nat) : (s.askWalks f stream part vas).kept = s.kept := by
  unfold State.askWalks; (try dsimp only); (repeat' split) <;> first | rfl | (simp; done) | (simp_all; done)
@[simp] theorem State.askWalks_mem (s : State) (f : Firing) (stream : Option Nat) (part : Nat) (vas : List Nat) : (s.askWalks f stream part vas).mem = s.mem := by unfold State.askWalks; split <;> simp
@[simp] theorem State.push_kept (s : State) (scope : Nat) (ids : List Nat × List Nat) : (s.push scope ids).kept = s.kept := rfl
@[simp] theorem State.push_mem (s : State) (scope : Nat) (ids : List Nat × List Nat) : (s.push scope ids).mem = s.mem := rfl
@[simp] theorem State.pushTier_kept (s : State) (region scope : Nat) (w : Reach) : (s.pushTier region scope w).kept = s.kept := by unfold State.pushTier; split <;> simp
@[simp] theorem State.pushTier_mem (s : State) (region scope : Nat) (w : Reach) : (s.pushTier region scope w).mem = s.mem := by unfold State.pushTier; split <;> simp
@[simp] theorem State.markWrites_kept (s : State) (p : List (Coord × Nat × Nat × Nat) → Bool × Bool → Bool × Bool) : (s.markWrites p).kept = s.kept := rfl
@[simp] theorem State.markWrites_mem (s : State) (p : List (Coord × Nat × Nat × Nat) → Bool × Bool → Bool × Bool) : (s.markWrites p).mem = s.mem := rfl
@[simp] theorem State.released_kept (s : State) (f : Firing) (scope : Nat) : (s.released f scope).kept = s.kept := by unfold State.released; split <;> simp
@[simp] theorem State.released_mem (s : State) (f : Firing) (scope : Nat) : (s.released f scope).mem = s.mem := by unfold State.released; split <;> simp
@[simp] theorem State.reserve_kept (s : State) (pos : Coord) (k rw count : Nat) : (s.reserve pos k rw count).kept = s.kept := by
  unfold State.reserve
  dsimp only
  split
  · rfl
  · exact foldl_keep State.kept _ (fun s x => foldl_keep State.kept _ (fun s y => by simp) _ _) _ _
@[simp] theorem State.reserve_mem (s : State) (pos : Coord) (k rw count : Nat) : (s.reserve pos k rw count).mem = s.mem := State.mem_of_kept (by simp)
@[simp] theorem State.unreserve_kept (s : State) (pos : Coord) (k rw count : Nat) : (s.unreserve pos k rw count).kept = s.kept := by
  unfold State.unreserve
  dsimp only
  split
  · rfl
  · exact foldl_keep State.kept _ (fun s x => by split; rfl; exact foldl_keep State.kept _ (fun s y => by simp) _ _) _ _
@[simp] theorem State.unreserve_mem (s : State) (pos : Coord) (k rw count : Nat) : (s.unreserve pos k rw count).mem = s.mem := State.mem_of_kept (by simp)
@[simp] theorem State.issued_kept (s : State) (f : Firing) (acquire : Bool) (id : Nat) : (s.issued f acquire id).kept = s.kept := by unfold State.issued; split <;> simp
@[simp] theorem State.issued_mem (s : State) (f : Firing) (acquire : Bool) (id : Nat) : (s.issued f acquire id).mem = s.mem := State.mem_of_kept (by simp)
@[simp] theorem State.bumpOp_kept (s : State)  : (s.bumpOp).kept = s.kept := rfl
@[simp] theorem State.countGroups_kept (s : State) (g : Bool) (groups : List (List (Nat × Nat))) : (s.countGroups g groups).kept = s.kept := rfl
@[simp] theorem State.countGroups_mem (s : State) (g : Bool) (groups : List (List (Nat × Nat))) : (s.countGroups g groups).mem = s.mem := rfl
@[simp] theorem State.moveStream_kept (s : State) (k stream : Nat) (p : Option (Nat × Bool)) : (s.moveStream k stream p).kept = s.kept := by unfold State.moveStream; split <;> simp
@[simp] theorem State.moveStream_mem (s : State) (k stream : Nat) (p : Option (Nat × Bool)) : (s.moveStream k stream p).mem = s.mem := by unfold State.moveStream; split <;> simp
@[simp] theorem State.receiptOnly_kept (s : State) (f : Firing) (rw scope : Nat) (poisoned : Bool) : (s.receiptOnly f rw scope poisoned).kept = s.kept := by simp [State.receiptOnly]
@[simp] theorem State.receiptOnly_mem (s : State) (f : Firing) (rw scope : Nat) (poisoned : Bool) : (s.receiptOnly f rw scope poisoned).mem = s.mem := by simp [State.receiptOnly]
@[simp] theorem State.eccRecord_kept (s : State) (r : Region) (o : Op) (va : Nat) : (s.eccRecord r o va).kept = s.kept := by simp [State.eccRecord]
@[simp] theorem State.eccRecord_mem (s : State) (r : Region) (o : Op) (va : Nat) : (s.eccRecord r o va).mem = s.mem := by simp [State.eccRecord]
@[simp] theorem State.performedReq_kept (s : State) (id j : Nat) (f : Op → Op) : (s.performedReq id j f).kept = s.kept := rfl
@[simp] theorem State.performedReq_mem (s : State) (id j : Nat) (f : Op → Op) : (s.performedReq id j f).mem = s.mem := rfl
@[simp] theorem State.modCopy_kept (s : State) (c : Coord) (f : Copy → Copy) : (s.modCopy c f).kept = s.kept := rfl
@[simp] theorem State.modJob_kept (s : State) (c : Coord) (id : Nat) (f : Job → Job) : (s.modJob c id f).kept = s.kept := rfl
@[simp] theorem State.modCpOp_kept (s : State) (c : Coord) (id : Nat) (f : CpOp → CpOp) : (s.modCpOp c id f).kept = s.kept := rfl
@[simp] theorem State.certified_kept (s : State) (pos : Coord) (k frame : Nat) : (s.certified pos k frame).kept = s.kept := by simp [State.certified]
@[simp] theorem State.certified_mem (s : State) (pos : Coord) (k frame : Nat) : (s.certified pos k frame).mem = s.mem := by simp [State.certified]
@[simp] theorem State.fpCertify_kept (s : State) (pos : Coord) (r : Region) (j : Job) : (s.fpCertify pos r j).kept = s.kept := by unfold State.fpCertify; split <;> simp
@[simp] theorem State.fpCertify_mem (s : State) (pos : Coord) (r : Region) (j : Job) : (s.fpCertify pos r j).mem = s.mem := by unfold State.fpCertify; split <;> simp
@[simp] theorem State.cpReceipt_kept (s : State) (pos : Coord) (id : Nat) : (s.cpReceipt pos id).kept = s.kept := by unfold State.cpReceipt; (repeat' split) <;> simp
@[simp] theorem State.cpReceipt_mem (s : State) (pos : Coord) (id : Nat) : (s.cpReceipt pos id).mem = s.mem := by unfold State.cpReceipt; (repeat' split) <;> simp
@[simp] theorem State.cpEnd_kept (s : State) (pos : Coord) (r : Region) (j : Job) : (s.cpEnd pos r j).kept = s.kept := by unfold State.cpEnd; split <;> simp
@[simp] theorem State.cpEnd_mem (s : State) (pos : Coord) (r : Region) (j : Job) : (s.cpEnd pos r j).mem = s.mem := by unfold State.cpEnd; split <;> simp
@[simp] theorem State.fpSettle_kept (s : State) (pos : Coord) : (s.fpSettle pos).kept = s.kept := by
  unfold State.fpSettle; (try dsimp only); (repeat' split) <;> first | rfl | (simp; done) | (simp_all; done) |
    (refine (foldl_keep State.kept _ (fun s x => ?_) _ _).trans ?_ <;> (try dsimp only) <;> (repeat' split) <;> first | rfl | (simp; done) | (simp_all; done))
@[simp] theorem State.fpSettle_mem (s : State) (pos : Coord) : (s.fpSettle pos).mem = s.mem := by
  unfold State.fpSettle; (try dsimp only); (repeat' split) <;> first | rfl | (simp; done) | (simp_all; done) |
    (refine (foldl_keep State.mem _ (fun s x => ?_) _ _).trans ?_ <;> (try dsimp only) <;> (repeat' split) <;> first | rfl | (simp; done) | (simp_all; done))
@[simp] theorem State.cpComplete_kept (s : State) (pos : Coord) (r : Region) (j : Job) : (s.cpComplete pos r j).kept = s.kept := by simp [State.cpComplete]
@[simp] theorem State.cpComplete_mem (s : State) (pos : Coord) (r : Region) (j : Job) : (s.cpComplete pos r j).mem = s.mem := by simp [State.cpComplete]
@[simp] theorem State.pieceDone_kept (s : State) (pos : Coord) (r : Region) (j : Job) (fl : Nat) (bad : Hurt) : (s.pieceDone pos r j fl bad).kept = s.kept := by
  unfold State.pieceDone; (try dsimp only); (repeat' split) <;> first | rfl | (simp; done) | (simp_all; done)
@[simp] theorem State.pieceDone_mem (s : State) (pos : Coord) (r : Region) (j : Job) (fl : Nat) (bad : Hurt) : (s.pieceDone pos r j fl bad).mem = s.mem := by
  unfold State.pieceDone; (try dsimp only); (repeat' split) <;> first | rfl | (simp; done) | (simp_all; done)
@[simp] theorem State.fifoYield_kept (s : State) (pos : Coord) (id : Nat) : (s.fifoYield pos id).kept = s.kept := by unfold State.fifoYield; split <;> simp
@[simp] theorem State.fifoYield_mem (s : State) (pos : Coord) (id : Nat) : (s.fifoYield pos id).mem = s.mem := by unfold State.fifoYield; split <;> simp
@[simp] theorem State.mnDone_mem (s : State) (pos : Coord) (o : MnOp) (scope : Nat) : (s.mnDone pos o scope).mem = s.mem := by simp [State.mnDone]
@[simp] theorem State.mnSend_mem (s : State) (pos : Coord) (o : MnOp) (j r : Nat) (clr : Bool) : (s.mnSend pos o j r clr).1.mem = s.mem := by
  unfold State.mnSend; (try dsimp only); (repeat' split) <;> first | rfl | (simp; done) | (simp_all; done) |
    (refine (foldl_keep State.mem _ (fun s x => ?_) _ _).trans ?_ <;> (try dsimp only) <;> (repeat' split) <;> first | rfl | (simp; done) | (simp_all; done))
@[simp] theorem State.fifoTake_kept (s : State) (pos : Coord) (o : MnOp) (i : Nat) : (s.fifoTake pos o i).kept = s.kept := rfl
@[simp] theorem State.fifoTake_mem (s : State) (pos : Coord) (o : MnOp) (i : Nat) : (s.fifoTake pos o i).mem = s.mem := rfl
@[simp] theorem State.beginHold_mem (s : State) (pos : Coord) (buf : Nat) : (s.beginHold pos buf).mem = s.mem := by
  unfold State.beginHold; (try dsimp only); (repeat' split) <;> first | rfl | (simp; done) | (simp_all; done)
@[simp] theorem State.freeBuf_mem (s : State) (pos : Coord) (buf : Nat) : (s.freeBuf pos buf).mem = s.mem := by
  unfold State.freeBuf; (try dsimp only); (repeat' split) <;> first | rfl | (simp; done) | (simp_all; done)
@[simp] theorem State.postTile_mem (s : State) (pos : Coord) (id : Nat) : (s.postTile pos id).mem = s.mem := by unfold State.postTile; (repeat' split) <;> simp
@[simp] theorem State.mnEndRun_mem (s : State) (pos : Coord) (o : MnOp) : (s.mnEndRun pos o).mem = s.mem := by simp [State.mnEndRun]
@[simp] theorem State.mnReceipt_kept (s : State) (f : Firing) (rw scope : Nat) (poisoned : Bool) : (s.mnReceipt f rw scope poisoned).kept = s.kept := by simp [State.mnReceipt]
@[simp] theorem State.mnReceipt_mem (s : State) (f : Firing) (rw scope : Nat) (poisoned : Bool) : (s.mnReceipt f rw scope poisoned).mem = s.mem := by simp [State.mnReceipt]
@[simp] theorem State.mnSuppress_mem (s : State)  : (s.mnSuppress).mem = s.mem := rfl
@[simp] theorem State.modClearing_kept (s : State) (r : Nat) (f : Clearing → Clearing) : (s.modClearing r f).kept = s.kept := rfl
@[simp] theorem State.ringFault_mem (s : State) (r : Region) (pos : Coord) (cause addr lvl : Nat) : (s.ringFault r pos cause addr lvl).mem = s.mem := by unfold State.ringFault; split <;> simp
@[simp] theorem State.received_mem (s : State) (pos : Coord) (steal : Bool) : (s.received pos steal).mem = s.mem := rfl
@[simp] theorem State.transfer_mem (s : State) (src dst : Coord) (region : Nat) (x : Task) (steal : Bool) (op : Nat) : (s.transfer src dst region x steal op).mem = s.mem := rfl
@[simp] theorem State.wlReceipt_mem (s : State) (pos : Coord) (id : Nat) : (s.wlReceipt pos id).mem = s.mem := by unfold State.wlReceipt; (repeat' split) <;> simp
@[simp] theorem State.askFrames_mem (s : State) (pos : Coord) (k : Nat) : (s.askFrames pos k).mem = s.mem := by
  unfold State.askFrames; (try dsimp only); (repeat' split) <;> first | rfl | (simp; done) | (simp_all; done)
@[simp] theorem State.giveFrames_mem (s : State) (pos : Coord) (k : Nat) : (s.giveFrames pos k).mem = s.mem := by
  unfold State.giveFrames; exact foldl_keep State.mem _ (fun s x => by simp) _ _
@[simp] theorem State.wlReply_kept (s : State) (f : Firing) (rw : Nat) (poisoned : Bool) : (s.wlReply f rw poisoned).kept = s.kept := by simp [State.wlReply]
@[simp] theorem State.wlReply_mem (s : State) (f : Firing) (rw : Nat) (poisoned : Bool) : (s.wlReply f rw poisoned).mem = s.mem := by simp [State.wlReply]
@[simp] theorem State.wlSink_mem (s : State) (k : Nat) : (s.wlSink k).mem = s.mem := rfl
@[simp] theorem State.wlOpen_mem (s : State) (f : Firing) (rw records : Nat) (poisoned drain : Bool) : (s.wlOpen f rw records poisoned drain).1.mem = s.mem := by unfold State.wlOpen; split <;> simp
@[simp] theorem State.wlIssued_mem (s : State) (id : Nat) : (s.wlIssued id).mem = s.mem := by simp [State.wlIssued]
@[simp] theorem State.pushbDiscard_mem (s : State) (pos : Coord) (id : Nat) : (s.pushbDiscard pos id).mem = s.mem := by unfold State.pushbDiscard; split <;> simp
@[simp] theorem State.batchDiscard_mem (s : State) (r : Region) (frame : Nat) : (s.batchDiscard r frame).mem = s.mem := by unfold State.batchDiscard; split <;> simp
@[simp] theorem State.drivePort_mem (s : State) (p : Nat) : (s.drivePort p).mem = s.mem := rfl
@[simp] theorem State.sendPkt_mem (s : State) (p : Nat) (part : Option Nat) (x : Packet) : (s.sendPkt p part x).mem = s.mem := by
  unfold State.sendPkt; (try dsimp only); (repeat' split) <;> first | rfl | (simp; done) | (simp_all; done)
@[simp] theorem State.linkReply_kept (s : State) (p : Nat) (o : LinkOp) : (s.linkReply p o).kept = s.kept := by unfold State.linkReply; split <;> simp
@[simp] theorem State.linkReply_mem (s : State) (p : Nat) (o : LinkOp) : (s.linkReply p o).mem = s.mem := by unfold State.linkReply; split <;> simp
@[simp] theorem State.linkReceipt_kept (s : State) (p : Nat) (o : LinkOp) : (s.linkReceipt p o).kept = s.kept := by unfold State.linkReceipt; split <;> simp
@[simp] theorem State.linkReceipt_mem (s : State) (p : Nat) (o : LinkOp) : (s.linkReceipt p o).mem = s.mem := by unfold State.linkReceipt; split <;> simp
@[simp] theorem State.sendClose_mem (s : State) (p : Nat) (part : Option Nat) (j : Nat) : (s.sendClose p part j).mem = s.mem := by simp [State.sendClose]
@[simp] theorem State.closeShut_mem (s : State) (p : Nat) (part : Option Nat) (j : Nat) : (s.closeShut p part j).mem = s.mem := by
  unfold State.closeShut; (try dsimp only); (repeat' split) <;> first | rfl | (simp; done) | (simp_all; done)
@[simp] theorem State.rxClose_mem (s : State) (p : Nat) (h : Pkt) : (s.rxClose p h).mem = s.mem := by unfold State.rxClose; (repeat' split) <;> simp
@[simp] theorem State.rxDone_mem (s : State) (p : Nat) (h : Pkt) : (s.rxDone p h).mem = s.mem := by simp [State.rxDone]
@[simp] theorem State.rreqSeen_mem (s : State) (p : Nat) (h : Pkt) : (s.rreqSeen p h).mem = s.mem := rfl
@[simp] theorem State.countTrim_mem (s : State) (p : Nat) : (s.countTrim p).mem = s.mem := rfl
@[simp] theorem State.rxWritten_mem (s : State) (p : Nat) (h : Pkt) (ack : Bool) : (s.rxWritten p h ack).mem = s.mem := by
  unfold State.rxWritten; (try dsimp only); (repeat' split) <;> first | rfl | (simp; done) | (simp_all; done)
@[simp] theorem State.enterArrival_mem (s : State) (p : Nat) (h : Pkt) (w : Nat) (a : Arrival) : (s.enterArrival p h w a).mem = s.mem := by simp [State.enterArrival]
@[simp] theorem State.linkOpen_mem (s : State) (f : Firing) (o : Owes) : (s.linkOpen f o).1.mem = s.mem := rfl
@[simp] theorem State.linkSunk_mem (s : State) (k : Nat) : (s.linkSunk k).mem = s.mem := rfl
@[simp] theorem State.linkSinks_mem (s : State) (f : Firing) (lanes : List Nat) (akind addr : Nat) : (s.linkSinks f lanes akind addr).mem = s.mem := by unfold State.linkSinks; split <;> simp
@[simp] theorem State.unbind_mem (s : State) (w : Nat) : (s.unbind w).mem = s.mem := rfl
@[simp] theorem State.enterPacket_mem (s : State) (p : Nat) (bs : List Byte) : (s.enterPacket p bs).mem = s.mem := by
  unfold State.enterPacket; (try dsimp only); (repeat' split) <;> first | rfl | (simp; done) | (simp_all; done)
@[simp] theorem State.takeFlit_mem (s : State) (p cls : Nat) (flit : List Byte) : (s.takeFlit p cls flit).mem = s.mem := by
  unfold State.takeFlit; (try dsimp only); (repeat' split) <;> first | rfl | (simp; done) | (simp_all; done)
@[simp] theorem State.ctlNext_kept (s : State) (r : Region) : (s.ctlNext r).kept = s.kept := rfl
@[simp] theorem State.ctlNext_mem (s : State) (r : Region) : (s.ctlNext r).mem = s.mem := rfl
@[simp] theorem State.stopControl_kept (s : State) (r : Region) (hold : Hold) (e : Refuse) (opc : Nat) : (s.stopControl r hold e opc).kept = s.kept := by unfold State.stopControl; split <;> simp
@[simp] theorem State.stopControl_mem (s : State) (r : Region) (hold : Hold) (e : Refuse) (opc : Nat) : (s.stopControl r hold e opc).mem = s.mem := by unfold State.stopControl; split <;> simp
@[simp] theorem State.tryClose_kept (s : State) (region b : Nat) : (s.tryClose region b).kept = s.kept := by
  unfold State.tryClose; (try dsimp only); (repeat' split) <;> first | rfl | (simp; done) | (simp_all; done) |
    (refine (foldl_keep State.kept _ (fun s x => ?_) _ _).trans ?_ <;> (try dsimp only) <;> (repeat' split) <;> first | rfl | (simp; done) | (simp_all; done))
@[simp] theorem State.tryClose_mem (s : State) (region b : Nat) : (s.tryClose region b).mem = s.mem := by
  unfold State.tryClose; (try dsimp only); (repeat' split) <;> first | rfl | (simp; done) | (simp_all; done) |
    (refine (foldl_keep State.mem _ (fun s x => ?_) _ _).trans ?_ <;> (try dsimp only) <;> (repeat' split) <;> first | rfl | (simp; done) | (simp_all; done))
@[simp] theorem State.setClosed_kept (s : State) (pos : Coord) (region b : Nat) (v : Bool) : (s.setClosed pos region b v).kept = s.kept := rfl
@[simp] theorem State.setClosed_mem (s : State) (pos : Coord) (region b : Nat) (v : Bool) : (s.setClosed pos region b v).mem = s.mem := rfl
@[simp] theorem State.resumeSlots_mem (s : State) (region f : Nat) (at' : Coord → Bool) : (s.resumeSlots region f at').mem = s.mem := by
  unfold State.resumeSlots; (try dsimp only); (repeat' split) <;> first | rfl | (simp; done) | (simp_all; done) |
    (refine (foldl_keep State.mem _ (fun s x => ?_) _ _).trans ?_ <;> (try dsimp only) <;> (repeat' split) <;> first | rfl | (simp; done) | (simp_all; done))
@[simp] theorem State.startCut_kept (s : State) (r : Region) (why : CutFor) : (s.startCut r why).kept = s.kept := by
  unfold State.startCut; (try dsimp only); (repeat' split) <;> first | rfl | (simp; done) | (simp_all; done) |
    (refine (foldl_keep State.kept _ (fun s x => ?_) _ _).trans ?_ <;> (try dsimp only) <;> (repeat' split) <;> first | rfl | (simp; done) | (simp_all; done))
@[simp] theorem State.startCut_mem (s : State) (r : Region) (why : CutFor) : (s.startCut r why).mem = s.mem := by
  unfold State.startCut; (try dsimp only); (repeat' split) <;> first | rfl | (simp; done) | (simp_all; done) |
    (refine (foldl_keep State.mem _ (fun s x => ?_) _ _).trans ?_ <;> (try dsimp only) <;> (repeat' split) <;> first | rfl | (simp; done) | (simp_all; done))
@[simp] theorem State.tailOn_kept (s : State) (k : Nat) : (s.tailOn k).kept = s.kept := by
  unfold State.tailOn; (try dsimp only); (repeat' split) <;> first | rfl | (simp; done) | (simp_all; done)
@[simp] theorem State.tailOn_mem (s : State) (k : Nat) : (s.tailOn k).mem = s.mem := by
  unfold State.tailOn; (try dsimp only); (repeat' split) <;> first | rfl | (simp; done) | (simp_all; done)
@[simp] theorem State.setSlice_mem (s : State) (r : Region) : (s.setSlice r).mem = s.mem := rfl
@[simp] theorem State.freshEngines_mem (s : State) (r : Region) : (s.freshEngines r).mem = s.mem := by
  unfold State.freshEngines; exact foldl_keep State.mem _ (fun s x => by simp) _ _
@[simp] theorem State.mapCtxs_kept (s : State) (r : Region) (p : Owner → Bool) (f : Coord → Nat → Ctx → Ctx) : (s.mapCtxs r p f).kept = s.kept := by
  unfold State.mapCtxs; (try dsimp only); (repeat' split) <;> first | rfl | (simp; done) | (simp_all; done) |
    (refine (foldl_keep State.kept _ (fun s x => ?_) _ _).trans ?_ <;> (try dsimp only) <;> (repeat' split) <;> first | rfl | (simp; done) | (simp_all; done))
@[simp] theorem State.mapCtxs_mem (s : State) (r : Region) (p : Owner → Bool) (f : Coord → Nat → Ctx → Ctx) : (s.mapCtxs r p f).mem = s.mem := by
  unfold State.mapCtxs; (try dsimp only); (repeat' split) <;> first | rfl | (simp; done) | (simp_all; done) |
    (refine (foldl_keep State.mem _ (fun s x => ?_) _ _).trans ?_ <;> (try dsimp only) <;> (repeat' split) <;> first | rfl | (simp; done) | (simp_all; done))
@[simp] theorem State.resolve_kept (s : State) (r : Region) (b : Nat) : (s.resolve r b).kept = s.kept := by simp [State.resolve]
@[simp] theorem State.resolve_mem (s : State) (r : Region) (b : Nat) : (s.resolve r b).mem = s.mem := by simp [State.resolve]
@[simp] theorem State.unresolve_kept (s : State) (r : Region) (b : Nat) : (s.unresolve r b).kept = s.kept := by simp [State.unresolve]
@[simp] theorem State.unresolve_mem (s : State) (r : Region) (b : Nat) : (s.unresolve r b).mem = s.mem := by simp [State.unresolve]
@[simp] theorem State.writeSlots_kept (s : State) (r : Region) (b : Nat) (l : List NodeRec) : (s.writeSlots r b l).kept = s.kept := by
  unfold State.writeSlots; (try dsimp only); (repeat' split) <;> first | rfl | (simp; done) | (simp_all; done) |
    (refine (foldl_keep State.kept _ (fun s x => ?_) _ _).trans ?_ <;> (try dsimp only) <;> (repeat' split) <;> first | rfl | (simp; done) | (simp_all; done))
@[simp] theorem State.writeSlots_mem (s : State) (r : Region) (b : Nat) (l : List NodeRec) : (s.writeSlots r b l).mem = s.mem := by
  unfold State.writeSlots; (try dsimp only); (repeat' split) <;> first | rfl | (simp; done) | (simp_all; done) |
    (refine (foldl_keep State.mem _ (fun s x => ?_) _ _).trans ?_ <;> (try dsimp only) <;> (repeat' split) <;> first | rfl | (simp; done) | (simp_all; done))
@[simp] theorem State.shutStreams_kept (s : State) (r : Region) (p : Coord → Nat → Bool) : (s.shutStreams r p).kept = s.kept := by
  unfold State.shutStreams; (try dsimp only); (repeat' split) <;> first | rfl | (simp; done) | (simp_all; done) |
    (refine (foldl_keep State.kept _ (fun s x => ?_) _ _).trans ?_ <;> (try dsimp only) <;> (repeat' split) <;> first | rfl | (simp; done) | (simp_all; done))
@[simp] theorem State.shutStreams_mem (s : State) (r : Region) (p : Coord → Nat → Bool) : (s.shutStreams r p).mem = s.mem := by
  unfold State.shutStreams; (try dsimp only); (repeat' split) <;> first | rfl | (simp; done) | (simp_all; done) |
    (refine (foldl_keep State.mem _ (fun s x => ?_) _ _).trans ?_ <;> (try dsimp only) <;> (repeat' split) <;> first | rfl | (simp; done) | (simp_all; done))
@[simp] theorem State.untap_kept (s : State) (p : Coord → Nat → Bool) : (s.untap p).kept = s.kept := rfl
@[simp] theorem State.untap_mem (s : State) (p : Coord → Nat → Bool) : (s.untap p).mem = s.mem := rfl
@[simp] theorem State.closeChans_mem (s : State) (r : Region) (p k : Nat) : (s.closeChans r p k).mem = s.mem := by
  unfold State.closeChans; (try dsimp only); (repeat' split) <;> first | rfl | (simp; done) | (simp_all; done) |
    (refine (foldl_keep State.mem _ (fun s x => ?_) _ _).trans ?_ <;> (try dsimp only) <;> (repeat' split) <;> first | rfl | (simp; done) | (simp_all; done))
@[simp] theorem State.finishCmd_mem (s : State) (q entry : Nat) : (s.finishCmd q entry).mem = s.mem := rfl
@[simp] theorem State.badStarted_mem (s : State) (q entry opc lid : Nat) : (s.badStarted q entry opc lid).mem = s.mem := by
  unfold State.badStarted; (try dsimp only); (repeat' split) <;> first | rfl | (simp; done) | (simp_all; done)
@[simp] theorem State.endSnap_mem (s : State) (sn : Snap) : (s.endSnap sn).mem = s.mem := rfl
@[simp] theorem State.repost_kept (s : State) (m : Move) (o : OpenRec) : (s.repost m o).1.kept = s.kept := rfl
@[simp] theorem State.repost_mem (s : State) (m : Move) (o : OpenRec) : (s.repost m o).1.mem = s.mem := rfl
@[simp] theorem State.parkSaved_kept (s : State) (m : Move) (g : Nat) (l : List Withdrawn) : (s.parkSaved m g l).kept = s.kept := by
  unfold State.parkSaved; (try dsimp only); (repeat' split) <;> first | rfl | (simp; done) | (simp_all; done) |
    (refine (foldl_keep State.kept _ (fun s x => ?_) _ _).trans ?_ <;> (try dsimp only) <;> (repeat' split) <;> first | rfl | (simp; done) | (simp_all; done))
@[simp] theorem State.parkSaved_mem (s : State) (m : Move) (g : Nat) (l : List Withdrawn) : (s.parkSaved m g l).mem = s.mem := by
  unfold State.parkSaved; (try dsimp only); (repeat' split) <;> first | rfl | (simp; done) | (simp_all; done) |
    (refine (foldl_keep State.mem _ (fun s x => ?_) _ _).trans ?_ <;> (try dsimp only) <;> (repeat' split) <;> first | rfl | (simp; done) | (simp_all; done))
@[simp] theorem State.refuseGranted_mem (s placed : State) (r : Region) (opc : Nat) (c : Cmd) (e : Refuse) (h : placed.mem = s.mem) : (s.refuseGranted placed r opc c e).mem = s.mem := by
  unfold State.refuseGranted; split
  · simp
  · exact h
@[simp] theorem State.publishHead_mem (s : State) (q : Nat) : (s.publishHead q).mem = s.mem := by
  unfold State.publishHead; (try dsimp only); (repeat' split) <;> first | rfl | (simp; done) | (simp_all; done)
@[simp] theorem State.cutHere_kept (s : State) (r : Region) (pos : Coord) : (s.cutHere r pos).kept = s.kept := by
  unfold State.cutHere; (try dsimp only); (repeat' split) <;> first | rfl | (simp; done) | (simp_all; done)
@[simp] theorem State.cutHere_mem (s : State) (r : Region) (pos : Coord) : (s.cutHere r pos).mem = s.mem := by
  unfold State.cutHere; (try dsimp only); (repeat' split) <;> first | rfl | (simp; done) | (simp_all; done)
@[simp] theorem State.sendNotices_kept (s : State) (r : Region) (pos : Coord) : (s.sendNotices r pos).kept = s.kept := by
  unfold State.sendNotices; (try dsimp only); (repeat' split) <;> first | rfl | (simp; done) | (simp_all; done) |
    (refine (foldl_keep State.kept _ (fun s x => ?_) _ _).trans ?_ <;> (try dsimp only) <;> (repeat' split) <;> first | rfl | (simp; done) | (simp_all; done))
@[simp] theorem State.sendNotices_mem (s : State) (r : Region) (pos : Coord) : (s.sendNotices r pos).mem = s.mem := by
  unfold State.sendNotices; (try dsimp only); (repeat' split) <;> first | rfl | (simp; done) | (simp_all; done) |
    (refine (foldl_keep State.mem _ (fun s x => ?_) _ _).trans ?_ <;> (try dsimp only) <;> (repeat' split) <;> first | rfl | (simp; done) | (simp_all; done))
@[simp] theorem State.abortsDone_mem (s : State) (r : Region) : (s.abortsDone r).mem = s.mem := rfl
@[simp] theorem State.startHead_mem (s : State) (q : Nat) (c : Started) : (s.startHead q c).mem = s.mem := rfl
@[simp] theorem State.postQueue_kept (s : State) (part q lid opc : Nat) (e : Refuse) : (s.postQueue part q lid opc e).kept = s.kept := rfl
@[simp] theorem State.postQueue_mem (s : State) (part q lid opc : Nat) (e : Refuse) : (s.postQueue part q lid opc e).mem = s.mem := rfl
@[simp] theorem State.cancelWaiting_mem (s : State) (r : Region) : (s.cancelWaiting r).mem = s.mem := by
  unfold State.cancelWaiting; (try dsimp only); (repeat' split) <;> first | rfl | (simp; done) | (simp_all; done)
@[simp] theorem State.answerAgain_kept (s : State) (o : OpenRec) (a : Again) : (s.answerAgain o a).kept = s.kept := rfl
@[simp] theorem State.answerAgain_mem (s : State) (o : OpenRec) (a : Again) : (s.answerAgain o a).mem = s.mem := rfl
@[simp] theorem State.answerWords_kept (s : State) (o : OpenRec) (act : Nat) : (s.answerWords o act).kept = s.kept := by
  unfold State.answerWords; (try dsimp only); (repeat' split) <;> first | rfl | (simp; done) | (simp_all; done)
@[simp] theorem State.answerWords_mem (s : State) (o : OpenRec) (act : Nat) : (s.answerWords o act).mem = s.mem := by unfold State.answerWords; (repeat' split) <;> simp
@[simp] theorem State.answerFault_kept (s : State) (r : Region) (o : OpenRec) (act : Nat) (pval : Word) : (s.answerFault r o act pval).kept = s.kept := by unfold State.answerFault; split <;> simp
@[simp] theorem State.answerFault_mem (s : State) (r : Region) (o : OpenRec) (act : Nat) (pval : Word) : (s.answerFault r o act pval).mem = s.mem := by unfold State.answerFault; split <;> simp
@[simp] theorem State.goControl_kept (s : State) (r : Region) : (s.goControl r).kept = s.kept := by
  unfold State.goControl; (try dsimp only); (repeat' split) <;> first | rfl | (simp; done) | (simp_all; done)
@[simp] theorem State.goControl_mem (s : State) (r : Region) : (s.goControl r).mem = s.mem := by
  unfold State.goControl; (try dsimp only); (repeat' split) <;> first | rfl | (simp; done) | (simp_all; done)
@[simp] theorem State.cpResume_kept (s : State) (pos : Coord) (job : Nat) : (s.cpResume pos job).kept = s.kept := rfl
@[simp] theorem State.cpResume_mem (s : State) (pos : Coord) (job : Nat) : (s.cpResume pos job).mem = s.mem := rfl
@[simp] theorem State.cpDiscard_kept (s : State) (pos : Coord) (job : Nat) : (s.cpDiscard pos job).kept = s.kept := by unfold State.cpDiscard; split <;> simp
@[simp] theorem State.cpDiscard_mem (s : State) (pos : Coord) (job : Nat) : (s.cpDiscard pos job).mem = s.mem := by unfold State.cpDiscard; split <;> simp
@[simp] theorem State.spoilTokens_kept (s : State) (region f : Nat) : (s.spoilTokens region f).kept = s.kept := rfl
@[simp] theorem State.spoilTokens_mem (s : State) (region f : Nat) : (s.spoilTokens region f).mem = s.mem := rfl

/-! ## Engine faults -/

theorem State.engineFault_kept (s : State) (r : Region) (hold : Hold) (i : FaultInfo) (w k : State → State)
    (hw : ∀ t, (w t).kept = t.kept) (hk : ∀ t, (k t).kept = t.kept) : (s.engineFault r hold i w k).kept = s.kept := by
  unfold State.engineFault
  split <;> simp [hw, hk]



/-! ## Results and frame faults -/

/-- Taking a frame fault keeps what a firing's instruction keeps, and always answers a next state. -/
theorem State.takeFrameFault_kept {s t : State} {pos : Coord} {slot : Nat} {hold : Hold} {i : FaultInfo} (h : s.takeFrameFault pos slot hold i = .next t) :
    t.kept = s.kept := by
  unfold State.takeFrameFault at h
  dsimp only at h
  repeat' split at h
  all_goals cases h
  all_goals first | rfl | (simp; done) | (simp only [State.parkFrame_kept]; exact State.postFor_kept _ _ _ _)

theorem State.takeFrameFault_next (s : State) (pos : Coord) (slot : Nat) (hold : Hold) (i : FaultInfo) : ∃ t, s.takeFrameFault pos slot hold i = .next t := by
  unfold State.takeFrameFault
  dsimp only
  repeat' split
  all_goals exact ⟨_, rfl⟩

/-- A step of a firing keeps what its body keeps; a firing that waits to post its record takes its frame fault. -/
theorem State.withFiring_kept {s t : State} {k : Firing → Out} (hk : ∀ f u, k f = .next u → u.kept = s.kept) (h : s.withFiring k = .next t) :
    t.kept = s.kept := by
  unfold State.withFiring at h
  split at h
  · split at h
    · cases h; rfl
    · split at h
      · exact State.takeFrameFault_kept h
      · exact hk _ _ h
  · cases h; rfl

/-- A step of a firing answers a next state where its body does. -/
theorem State.withFiring_next (s : State) (k : Firing → Out) (hk : ∀ f, ∃ t, k f = .next t) : ∃ t, s.withFiring k = .next t := by
  unfold State.withFiring
  split
  · split
    · exact ⟨_, rfl⟩
    · split
      · exact State.takeFrameFault_next _ _ _ _ _
      · exact hk _
  · exact ⟨_, rfl⟩

/-- An instruction whose only effect is its result keeps what a firing's instruction keeps. -/
theorem State.result_kept {s t : State} {n : Niw} {wide : Bool} {w : Nat} {g : Firing → List (Nat × Lane)} (h : s.result n wide w g = .next t) : t.kept = s.kept := by
  refine State.withFiring_kept (fun f u hu => ?_) h
  dsimp only at hu
  repeat' split at hu
  all_goals (cases hu; simp)

/-- An instruction that ends with a result always answers a next state. -/
theorem State.result_next (s : State) (n : Niw) (wide : Bool) (w : Nat) (g : Firing → List (Nat × Lane)) : ∃ t, s.result n wide w g = .next t := by
  refine State.withFiring_next s _ fun f => ?_
  dsimp only
  repeat' split
  all_goals exact ⟨_, rfl⟩

/-! ## Writes of memory keep its form -/

theorem State.Good.writeEvent {s : State} (h : s.Good) (p : Option Nat) (l : Nat) (dev through atomic count : Bool) (bytes : List Host.Cell) :
    (s.writeEvent p l dev through atomic count bytes).1.Good := by
  unfold State.Good State.writeEvent
  simp only [State.tagWrite_mem, State.meterHome_mem]
  apply Memory.wf_writeCells
  have h : Memory.wf s.mem = true := h
  (repeat' split) <;> simpa using h

@[simp] theorem State.readErrors_mem (s : State) (v : Nat) (o : Op) (q : LineReq) : (s.readErrors v o q).1.mem = s.mem := by
  unfold State.readErrors
  dsimp only
  (repeat' split) <;> simp

@[simp] theorem State.acquired_mem (s : State) (o : Op) (l : Nat) : (s.acquired o l).mem = s.mem := by
  unfold State.acquired; (repeat' split) <;> simp

@[simp] theorem State.loadEvent_mem (s : State) (o : Op) (j : Nat) (q : LineReq) (v : Nat) : (s.loadEvent o j q v).mem = s.mem := by
  unfold State.loadEvent
  dsimp only
  split <;> simp

theorem State.Good.atomicEvent {s : State} (g : s.Good) (o : Op) (j : Nat) (q : LineReq) (v opc : Nat) (n : Niw) : (s.atomicEvent o j q v opc n).Good := by
  have gu : ((s.readErrors v o q).1.acquired o q.line).Good := g.of_mem (by simp)
  unfold State.atomicEvent
  exact (gu.writeEvent _ _ _ _ _ _ _).of_mem (by rw [State.performedReq_mem, State.oweTier_mem])

/-- An event that waited for the line is performed, and memory keeps its form. -/
theorem State.Good.lineReady {s : State} (g : s.Good) (l : Nat) : (s.lineReady l).Good := by
  have fill (p : Option Nat) : (if s.cached l then s else s.fill p l).Good := g.of_mem (by split <;> simp)
  unfold State.lineReady
  dsimp only
  split
  · exact g
  · split
    · rename_i o _ _ _ _ _ _ _
      have := fill (s.partFor o.region)
      generalize (if s.cached l then s else s.fill (s.partFor o.region) l) = u at this
      split
      · exact this.of_mem (State.loadEvent_mem ..)
      · exact this.atomicEvent ..
      · exact this
    · exact g

theorem State.Good.unitWrite {s : State} (g : s.Good) (p : Option Nat) (l : Nat) (dev through : Bool) (bytes : List Host.Cell) :
    (s.unitWrite p l dev through bytes).1.Good := (g.lineReady l).writeEvent ..

theorem State.Good.writeLines {s : State} (h : s.Good) (p : Option Nat) (dev through : Bool) (cells : List Host.Cell) :
    (s.writeLines p dev through cells).1.Good := by
  unfold State.writeLines
  suffices ∀ (l : List (Nat × List Host.Cell)) (a : State × List Nat), a.1.Good →
      (l.foldl (fun (a : State × List Nat) x => ((a.1.unitWrite p x.1 dev through x.2).1, a.2 ++ [(a.1.unitWrite p x.1 dev through x.2).2])) a).1.Good by
    exact this _ _ h
  intro l
  induction l with
  | nil => exact fun a h => h
  | cons x l ih => exact fun a h => ih _ (h.unitWrite p x.1 dev through x.2)

end Sys2Proof.Machine
end

