-- ==== Sys2Proof/Laws/PerInstr.lean ====
section
/-! SUPPORT. Statements on every instruction as syntax, one lemma a constructor. -/

namespace Sys2Proof.Laws.OneFormat

/-- The formats in which an instruction is written: a node's word, a control command, a queue entry, a strobe, an event, a packet. -/
def formats (i : Instr) : List Bool :=
  [i.opcode.isSome, (encodeCcw i).isSome, i.cmd.isSome, i.sk.isSome, i.event.isSome, i.pkind.isSome]

/-- Every instruction is written in exactly one format, so that its encoding is never taken for another's. -/
def Statement (i : Instr) : Prop := (formats i).count true = 1

theorem nop n : Statement (.nop n) := rfl
theorem add n : Statement (.add n) := rfl
theorem sub n : Statement (.sub n) := rfl
theorem addc n : Statement (.addc n) := rfl
theorem subb n : Statement (.subb n) := rfl
theorem mul n : Statement (.mul n) := rfl
theorem mulh n : Statement (.mulh n) := rfl
theorem mad n : Statement (.mad n) := rfl
theorem sad n : Statement (.sad n) := rfl
theorem dot4 n : Statement (.dot4 n) := rfl
theorem min n : Statement (.min n) := rfl
theorem max n : Statement (.max n) := rfl
theorem abs n : Statement (.abs n) := rfl
theorem neg n : Statement (.neg n) := rfl
theorem clamp n : Statement (.clamp n) := rfl
theorem and n : Statement (.and n) := rfl
theorem or n : Statement (.or n) := rfl
theorem xor n : Statement (.xor n) := rfl
theorem andn n : Statement (.andn n) := rfl
theorem not n : Statement (.not n) := rfl
theorem shl n : Statement (.shl n) := rfl
theorem shr n : Statement (.shr n) := rfl
theorem sar n : Statement (.sar n) := rfl
theorem rot n : Statement (.rot n) := rfl
theorem funnel n : Statement (.funnel n) := rfl
theorem clz n : Statement (.clz n) := rfl
theorem ctz n : Statement (.ctz n) := rfl
theorem popc n : Statement (.popc n) := rfl
theorem brev n : Statement (.brev n) := rfl
theorem bfe n : Statement (.bfe n) := rfl
theorem bfi n : Statement (.bfi n) := rfl
theorem perm n : Statement (.perm n) := rfl
theorem pack n : Statement (.pack n) := rfl
theorem unpk n : Statement (.unpk n) := rfl
theorem sel n : Statement (.sel n) := rfl
theorem cmp n : Statement (.cmp n) := rfl
theorem cmpm n : Statement (.cmpm n) := rfl
theorem mov n : Statement (.mov n) := rfl
theorem movi n : Statement (.movi n) := rfl
theorem moviHi n : Statement (.moviHi n) := rfl
theorem lea n : Statement (.lea n) := rfl
theorem lea2 n : Statement (.lea2 n) := rfl
theorem shfl n : Statement (.shfl n) := rfl
theorem bcast n : Statement (.bcast n) := rfl
theorem lred n : Statement (.lred n) := rfl
theorem lscan n : Statement (.lscan n) := rfl
theorem lpack n : Statement (.lpack n) := rfl
theorem cnt n : Statement (.cnt n) := rfl
theorem mand n : Statement (.mand n) := rfl
theorem mor n : Statement (.mor n) := rfl
theorem mxor n : Statement (.mxor n) := rfl
theorem mnot n : Statement (.mnot n) := rfl
theorem mpop n : Statement (.mpop n) := rfl
theorem mfirst n : Statement (.mfirst n) := rfl
theorem mset n : Statement (.mset n) := rfl
theorem tagrd n : Statement (.tagrd n) := rfl
theorem hash n : Statement (.hash n) := rfl
theorem fadd n : Statement (.fadd n) := rfl
theorem fsub n : Statement (.fsub n) := rfl
theorem fmul n : Statement (.fmul n) := rfl
theorem ffma n : Statement (.ffma n) := rfl
theorem ffms n : Statement (.ffms n) := rfl
theorem fnma n : Statement (.fnma n) := rfl
theorem fnms n : Statement (.fnms n) := rfl
theorem fmin n : Statement (.fmin n) := rfl
theorem fmax n : Statement (.fmax n) := rfl
theorem fminn n : Statement (.fminn n) := rfl
theorem fmaxn n : Statement (.fmaxn n) := rfl
theorem fmaxa n : Statement (.fmaxa n) := rfl
theorem fmed3 n : Statement (.fmed3 n) := rfl
theorem fabs n : Statement (.fabs n) := rfl
theorem fneg n : Statement (.fneg n) := rfl
theorem fcopysign n : Statement (.fcopysign n) := rfl
theorem fcmp n : Statement (.fcmp n) := rfl
theorem fcmpm n : Statement (.fcmpm n) := rfl
theorem fclass n : Statement (.fclass n) := rfl
theorem frint n : Statement (.frint n) := rfl
theorem ffrac n : Statement (.ffrac n) := rfl
theorem fscale n : Statement (.fscale n) := rfl
theorem fgetexp n : Statement (.fgetexp n) := rfl
theorem fgetman n : Statement (.fgetman n) := rfl
theorem fdot2 n : Statement (.fdot2 n) := rfl
theorem flerp n : Statement (.flerp n) := rfl
theorem fcvts n : Statement (.fcvts n) := rfl
theorem fred n : Statement (.fred n) := rfl
theorem cvt n : Statement (.cvt n) := rfl
theorem cvti n : Statement (.cvti n) := rfl
theorem cvtf n : Statement (.cvtf n) := rfl
theorem qnt n : Statement (.qnt n) := rfl
theorem dqnt n : Statement (.dqnt n) := rfl
theorem amaxb n : Statement (.amaxb n) := rfl
theorem rng n : Statement (.rng n) := rfl
theorem exp2 n : Statement (.exp2 n) := rfl
theorem log2 n : Statement (.log2 n) := rfl
theorem exp n : Statement (.exp n) := rfl
theorem ln n : Statement (.ln n) := rfl
theorem rcp n : Statement (.rcp n) := rfl
theorem rsq n : Statement (.rsq n) := rfl
theorem sqrt n : Statement (.sqrt n) := rfl
theorem div n : Statement (.div n) := rfl
theorem sinpi n : Statement (.sinpi n) := rfl
theorem cospi n : Statement (.cospi n) := rfl
theorem tanh n : Statement (.tanh n) := rfl
theorem sigm n : Statement (.sigm n) := rfl
theorem atanpi n : Statement (.atanpi n) := rfl
theorem erf n : Statement (.erf n) := rfl
theorem dfma n : Statement (.dfma n) := rfl
theorem dadd n : Statement (.dadd n) := rfl
theorem dmul n : Statement (.dmul n) := rfl
theorem ddiv n : Statement (.ddiv n) := rfl
theorem dsqrt n : Statement (.dsqrt n) := rfl
theorem idiv n : Statement (.idiv n) := rfl
theorem irem n : Statement (.irem n) := rfl
theorem alloc n : Statement (.alloc n) := rfl
theorem free n : Statement (.free n) := rfl
theorem emit n : Statement (.emit n) := rfl
theorem emitt n : Statement (.emitt n) := rfl
theorem iter n : Statement (.iter n) := rfl
theorem split n : Statement (.split n) := rfl
theorem merge n : Statement (.merge n) := rfl
theorem steer n : Statement (.steer n) := rfl
theorem gate n : Statement (.gate n) := rfl
theorem eos n : Statement (.eos n) := rfl
theorem joinp n : Statement (.joinp n) := rfl
theorem leavep n : Statement (.leavep n) := rfl
theorem barr n : Statement (.barr n) := rfl
theorem depth n : Statement (.depth n) := rfl
theorem ld n : Statement (.ld n) := rfl
theorem ldg n : Statement (.ldg n) := rfl
theorem ldl n : Statement (.ldl n) := rfl
theorem lda n : Statement (.lda n) := rfl
theorem ldb n : Statement (.ldb n) := rfl
theorem lds n : Statement (.lds n) := rfl
theorem ldsg n : Statement (.ldsg n) := rfl
theorem st n : Statement (.st n) := rfl
theorem stg n : Statement (.stg n) := rfl
theorem stm n : Statement (.stm n) := rfl
theorem str n : Statement (.str n) := rfl
theorem sts n : Statement (.sts n) := rfl
theorem stss n : Statement (.stss n) := rfl
theorem stz n : Statement (.stz n) := rfl
theorem sopen n : Statement (.sopen n) := rfl
theorem sseek n : Statement (.sseek n) := rfl
theorem sclose n : Statement (.sclose n) := rfl
theorem sbar n : Statement (.sbar n) := rfl
theorem sflush n : Statement (.sflush n) := rfl
theorem fence n : Statement (.fence n) := rfl
theorem probe n : Statement (.probe n) := rfl
theorem pfetch n : Statement (.pfetch n) := rfl
theorem scnt n : Statement (.scnt n) := rfl
theorem xwb n : Statement (.xwb n) := rfl
theorem xinv n : Statement (.xinv n) := rfl
theorem smap n : Statement (.smap n) := rfl
theorem cpy n : Statement (.cpy n) := rfl
theorem cpy2 n : Statement (.cpy2 n) := rfl
theorem cpy3 n : Statement (.cpy3 n) := rfl
theorem cpym n : Statement (.cpym n) := rfl
theorem cpyz n : Statement (.cpyz n) := rfl
theorem cpyx n : Statement (.cpyx n) := rfl
theorem cpya n : Statement (.cpya n) := rfl
theorem cpyb n : Statement (.cpyb n) := rfl
theorem cpyf n : Statement (.cpyf n) := rfl
theorem cpyc n : Statement (.cpyc n) := rfl
theorem cpyq n : Statement (.cpyq n) := rfl
theorem fpdecl n : Statement (.fpdecl n) := rfl
theorem mncfg n : Statement (.mncfg n) := rfl
theorem mncfgCheck n : Statement (.mncfgCheck n) := rfl
theorem mnldb n : Statement (.mnldb n) := rfl
theorem mnrun n : Statement (.mnrun n) := rfl
theorem mnrunP n : Statement (.mnrunP n) := rfl
theorem mnzero n : Statement (.mnzero n) := rfl
theorem mnout n : Statement (.mnout n) := rfl
theorem mnprog n : Statement (.mnprog n) := rfl
theorem mnaor n : Statement (.mnaor n) := rfl
theorem mnscl n : Statement (.mnscl n) := rfl
theorem mnsave n : Statement (.mnsave n) := rfl
theorem mnrest n : Statement (.mnrest n) := rfl
theorem mnchk n : Statement (.mnchk n) := rfl
theorem mnstat n : Statement (.mnstat n) := rfl
theorem mnswap n : Statement (.mnswap n) := rfl
theorem hadd n : Statement (.hadd n) := rfl
theorem hfadd n : Statement (.hfadd n) := rfl
theorem hmin n : Statement (.hmin n) := rfl
theorem hmax n : Statement (.hmax n) := rfl
theorem hfmin n : Statement (.hfmin n) := rfl
theorem hfmax n : Statement (.hfmax n) := rfl
theorem hand n : Statement (.hand n) := rfl
theorem hor n : Statement (.hor n) := rfl
theorem hxor n : Statement (.hxor n) := rfl
theorem hxchg n : Statement (.hxchg n) := rfl
theorem hcas n : Statement (.hcas n) := rfl
theorem hinc n : Statement (.hinc n) := rfl
theorem hred n : Statement (.hred n) := rfl
theorem hseq n : Statement (.hseq n) := rfl
theorem wlcfg n : Statement (.wlcfg n) := rfl
theorem wlpush n : Statement (.wlpush n) := rfl
theorem wlpushb n : Statement (.wlpushb n) := rfl
theorem wlpop n : Statement (.wlpop n) := rfl
theorem wldone n : Statement (.wldone n) := rfl
theorem wldoneSeed n : Statement (.wldoneSeed n) := rfl
theorem wlmin n : Statement (.wlmin n) := rfl
theorem wlstat n : Statement (.wlstat n) := rfl
theorem wldrain n : Statement (.wldrain n) := rfl
theorem lput n : Statement (.lput n) := rfl
theorem lputn n : Statement (.lputn n) := rfl
theorem lget n : Statement (.lget n) := rfl
theorem latom n : Statement (.latom n) := rfl
theorem lflush n : Statement (.lflush n) := rfl
theorem lchanOpen n : Statement (.lchanOpen n) := rfl
theorem lchanClose n : Statement (.lchanClose n) := rfl
theorem lstat n : Statement (.lstat n) := rfl
theorem lcfgBind n : Statement (.lcfgBind n) := rfl
theorem lcfgUnbind n : Statement (.lcfgUnbind n) := rfl
theorem trap n : Statement (.trap n) := rfl
theorem trapif n : Statement (.trapif n) := rfl
theorem flags n : Statement (.flags n) := rfl
theorem flagc n : Statement (.flagc n) := rfl
theorem poison n : Statement (.poison n) := rfl
theorem pchkMask n : Statement (.pchkMask n) := rfl
theorem pchkTrap n : Statement (.pchkTrap n) := rfl
theorem pchkCnt n : Statement (.pchkCnt n) := rfl
theorem beat n : Statement (.beat n) := rfl
theorem beatOff n : Statement (.beatOff n) := rfl
theorem tapmOn n : Statement (.tapmOn n) := rfl
theorem tapmOff n : Statement (.tapmOff n) := rfl
theorem seqCfg blk : Statement (.seqCfg blk) := rfl
theorem seqRun blk ic count : Statement (.seqRun blk ic count) := rfl
theorem seqSched blk m1 : Statement (.seqSched blk m1) := rfl
theorem seqLoop ic trips target : Statement (.seqLoop ic trips target) := rfl
theorem waitsBlk v : Statement (.waitsBlk v) := rfl
theorem waitsIc v : Statement (.waitsIc v) := rfl
theorem waitsTok v : Statement (.waitsTok v) := rfl
theorem seqNotify nfy v : Statement (.seqNotify nfy v) := rfl
theorem seqSlot blk k v : Statement (.seqSlot blk k v) := rfl
theorem cmdLaunch c : Statement (.cmdLaunch c) := rfl
theorem cmdWait c : Statement (.cmdWait c) := rfl
theorem cmdSignal c : Statement (.cmdSignal c) := rfl
theorem cmdBarrier c : Statement (.cmdBarrier c) := rfl
theorem cmdSnapshot c : Statement (.cmdSnapshot c) := rfl
theorem cmdRestore c : Statement (.cmdRestore c) := rfl
theorem cmdResume c : Statement (.cmdResume c) := rfl
theorem cmdDiscard c : Statement (.cmdDiscard c) := rfl
theorem cmdAbort c : Statement (.cmdAbort c) := rfl
theorem evDepthApply : Statement .evDepthApply := rfl
theorem mnditOn : Statement .mnditOn := rfl
theorem mnditOff : Statement .mnditOff := rfl
theorem waitsQuiet : Statement .waitsQuiet := rfl
theorem seqHalt : Statement .seqHalt := rfl
theorem evSchedDecision : Statement .evSchedDecision := rfl
theorem evSlotPatch : Statement .evSlotPatch := rfl
theorem evConfigPrefetch : Statement .evConfigPrefetch := rfl
theorem evSeqTokenAccept : Statement .evSeqTokenAccept := rfl
theorem evNodeDrained : Statement .evNodeDrained := rfl
theorem skStart : Statement .skStart := rfl
theorem skFinish : Statement .skFinish := rfl
theorem skDrained : Statement .skDrained := rfl
theorem skReopen : Statement .skReopen := rfl
theorem skClose : Statement .skClose := rfl
theorem skOpen : Statement .skOpen := rfl
theorem skCount : Statement .skCount := rfl
theorem skNotice : Statement .skNotice := rfl
theorem skCut : Statement .skCut := rfl
theorem skPark : Statement .skPark := rfl
theorem skReadmit : Statement .skReadmit := rfl
theorem skRetire : Statement .skRetire := rfl
theorem evTokenAccept : Statement .evTokenAccept := rfl
theorem evMarkerArrival : Statement .evMarkerArrival := rfl
theorem evMarkerPass : Statement .evMarkerPass := rfl
theorem evScaleTokenArrival : Statement .evScaleTokenArrival := rfl
theorem evVaultReturn : Statement .evVaultReturn := rfl
theorem evSpillReturn : Statement .evSpillReturn := rfl
theorem evOverflowDrain : Statement .evOverflowDrain := rfl
theorem evFiringSlotEntry : Statement .evFiringSlotEntry := rfl
theorem evTokenDepart : Statement .evTokenDepart := rfl
theorem evTapRecordWrite : Statement .evTapRecordWrite := rfl
theorem evCounterSourceRun : Statement .evCounterSourceRun := rfl
theorem evMintFrameRequest : Statement .evMintFrameRequest := rfl
theorem evFrameReturn : Statement .evFrameReturn := rfl
theorem evAFifoDiscard : Statement .evAFifoDiscard := rfl
theorem evLoadReply : Statement .evLoadReply := rfl
theorem evWalkComplete : Statement .evWalkComplete := rfl
theorem evWbIdleDrain : Statement .evWbIdleDrain := rfl
theorem evHsWriteEvent : Statement .evHsWriteEvent := rfl
theorem evHsReadEvent : Statement .evHsReadEvent := rfl
theorem evHsAtomicEvent : Statement .evHsAtomicEvent := rfl
theorem evLineFill : Statement .evLineFill := rfl
theorem evOperationPerformed : Statement .evOperationPerformed := rfl
theorem evCpInstanceStart : Statement .evCpInstanceStart := rfl
theorem evCpPiece : Statement .evCpPiece := rfl
theorem evAFifoAppend : Statement .evAFifoAppend := rfl
theorem evRowFiringAdmit : Statement .evRowFiringAdmit := rfl
theorem evRowFiringRetire : Statement .evRowFiringRetire := rfl
theorem evBBufferFree : Statement .evBBufferFree := rfl
theorem evDieWave : Statement .evDieWave := rfl
theorem evDieWaveDeliver : Statement .evDieWaveDeliver := rfl
theorem evPackageWave : Statement .evPackageWave := rfl
theorem evPackageWaveDeliver : Statement .evPackageWaveDeliver := rfl
theorem evTransferAccept : Statement .evTransferAccept := rfl
theorem evTransferAck : Statement .evTransferAck := rfl
theorem evRingRefill : Statement .evRingRefill := rfl
theorem evStealRequest : Statement .evStealRequest := rfl
theorem evStealHandover : Statement .evStealHandover := rfl
theorem evFlitReceive : Statement .evFlitReceive := rfl
theorem evLinkReplayRequest : Statement .evLinkReplayRequest := rfl
theorem evPacketTrim : Statement .evPacketTrim := rfl
theorem pkPut : Statement .pkPut := rfl
theorem pkPutn : Statement .pkPutn := rfl
theorem evPutnArrivalEnter : Statement .evPutnArrivalEnter := rfl
theorem pkGetq : Statement .pkGetq := rfl
theorem pkGetr : Statement .pkGetr := rfl
theorem pkAtomq : Statement .pkAtomq := rfl
theorem pkAtomr : Statement .pkAtomr := rfl
theorem pkAck : Statement .pkAck := rfl
theorem pkNack : Statement .pkNack := rfl
theorem pkTrimmedHeader : Statement .pkTrimmedHeader := rfl
theorem evRreqSend : Statement .evRreqSend := rfl
theorem pkRreq : Statement .pkRreq := rfl
theorem pkLinkClose : Statement .pkLinkClose := rfl
theorem pkCloseack : Statement .pkCloseack := rfl
theorem evMessageLifetimeExpiry : Statement .evMessageLifetimeExpiry := rfl
theorem evArrivalEmit : Statement .evArrivalEmit := rfl
theorem evFiringImageWrite : Statement .evFiringImageWrite := rfl
theorem evWithdrawnTokenMove : Statement .evWithdrawnTokenMove := rfl
theorem evFaultRingWrite : Statement .evFaultRingWrite := rfl
theorem evWatchdogExpiry : Statement .evWatchdogExpiry := rfl
theorem evBeatExpiry : Statement .evBeatExpiry := rfl
theorem evCutComplete : Statement .evCutComplete := rfl
theorem evBudgetPeriod : Statement .evBudgetPeriod := rfl
theorem evBudgetExhausted : Statement .evBudgetExhausted := rfl
theorem evQueueWindowWrite : Statement .evQueueWindowWrite := rfl
theorem evRegionGrant : Statement .evRegionGrant := rfl
theorem evCompletionWrite : Statement .evCompletionWrite := rfl
theorem evNfyArm : Statement .evNfyArm := rfl
theorem evHsSplitWrite : Statement .evHsSplitWrite := rfl
theorem evPartitionReset : Statement .evPartitionReset := rfl
theorem evPartitionEnable : Statement .evPartitionEnable := rfl
theorem evPartInv : Statement .evPartInv := rfl
theorem evFwLoad : Statement .evFwLoad := rfl
theorem evFwRaise : Statement .evFwRaise := rfl
theorem evFwAttest : Statement .evFwAttest := rfl
theorem evEtBufWrite : Statement .evEtBufWrite := rfl
theorem evEtGrantWrite : Statement .evEtGrantWrite := rfl
theorem evRegisterWrite : Statement .evRegisterWrite := rfl
theorem evHostMemAccess : Statement .evHostMemAccess := rfl
theorem evPowerOnReset : Statement .evPowerOnReset := rfl
theorem evInitComplete : Statement .evInitComplete := rfl
theorem evThrottleStep : Statement .evThrottleStep := rfl
theorem evThermalTrip : Statement .evThermalTrip := rfl
theorem evPatrolScrub : Statement .evPatrolScrub := rfl
theorem evHoldComplete : Statement .evHoldComplete := rfl
theorem evSliceElapsed : Statement .evSliceElapsed := rfl
theorem evPortUpChange : Statement .evPortUpChange := rfl
theorem evPowerLoss : Statement .evPowerLoss := rfl

end Sys2Proof.Laws.OneFormat
end

