-- ==== Sys2Proof/Laws/WellFormed.lean ====
section
/-! SUPPORT. What it says of an instruction that it passes the checks of its entry. -/

namespace Sys2Proof

theorem check_step {α : Type} {c : Bool} {e : α} {k : Option α} (h : (if c = true then some e else k) = none) :
    c = false ∧ k = none := by
  cases c <;> simp_all

/-- The checks of an entry, one by one: an instruction that passes them has every field in the entry's set. -/
theorem Niw.check_none (n : Niw) (r : Rule) (h : n.check r = none) :
    r.tys.contains n.ty = true ∧ r.d.has n.d = true ∧ r.a.has (!n.ty.isInt) n.a = true ∧ r.b.has (!n.ty.isInt) n.b = true ∧
    r.c.has (!n.ty.isInt) n.c = true ∧ r.imm.clash n = false ∧ (r.pm0 = true → n.pred = .token) ∧ r.rm.has n.rm = true ∧
    (n.sat = true → r.sat = true) ∧ (n.fz = true → r.fz = true) ∧ r.opt n.opt = true ∧ r.imm.ok n = true ∧ r.extra n = true := by
  obtain ⟨h1, h⟩ := check_step h
  obtain ⟨h2, h⟩ := check_step h
  obtain ⟨h3, h⟩ := check_step h
  obtain ⟨h4, h⟩ := check_step h
  obtain ⟨h5, h⟩ := check_step h
  obtain ⟨h6, h⟩ := check_step h
  obtain ⟨h7, h⟩ := check_step h
  obtain ⟨h8, h⟩ := check_step h
  obtain ⟨h9, h⟩ := check_step h
  obtain ⟨h10, h⟩ := check_step h
  obtain ⟨h11, h⟩ := check_step h
  obtain ⟨h12, h⟩ := check_step h
  obtain ⟨h13, _⟩ := check_step h
  simp only [Bool.not_eq_false', Bool.and_eq_false_iff, decide_eq_false_iff_not, ne_eq, Decidable.not_not] at *
  refine ⟨h1, h2, h3, h4, h5, h6, ?_, h8, ?_, ?_, h11, h12, h13⟩
  · intro hp; simpa [hp] using h7
  · intro hp; simpa [hp] using h9
  · intro hp; simpa [hp] using h10

/-- A node's instruction is well-formed exactly when it passes the checks of its entry. -/
theorem Instr.wf_niw (i : Instr) (n : Niw) (r : Rule) (hn : i.niw = some n) (hr : i.rule = some r) :
    i.wf = true ↔ n.check r = none := by
  simp [Instr.wf, Instr.wfError, hn, hr]

end Sys2Proof
end

