-- ==== Sys2Proof/Tests/Slice0.lean ====
section
/-! SUPPORT. Tests: ill-formed terms that the checks refuse, the manual's worked encodings, small steps with results worked out from the
manual, and for every statement that has hypotheses a state and operands that meet them. -/

set_option Elab.async false

open Sys2Proof Sys2Proof.Machine Sys2Proof.Claims

namespace Sys2Proof.Witness

/-! ## Small states -/

/-- What a port of a firing of two lanes holds. -/
def portOf (p : Nat) (v : List Word) : PortIn :=
  { port := p, wide := false, lanes := v, mask := 3, poison := 0, scales := [], arr := p, buf := .vault }

/-- A firing of two lanes in frame 0: its ports 0, 1 and 2 hold `a`, `b` and `c`. -/
def firingOn (w : Word) (a b c : List Word) : Firing :=
  { oneFiring 1 w with len := 2, tmask := 3, ports := [portOf 0 a, portOf 1 b, portOf 2 c], words := [w, 0] }

/-- The running device with region 1, one cluster of partition 1, as `g` leaves it. -/
def withRegion1 (g : Region → Region) : State := { State.reset.running with regions := [g (oneRegion 1)], nextRegion := 2 }

/-- The owner of the contexts below: block 0 of region 1. -/
def owner1 : Owner := { region := 1, blk := 0, vx := 0, vy := 0, nk := 0, fold := 0 }

/-- The node at `pos` executes the firing `f` of its context 0, in its slot 0, in region 1 as `g` leaves it. -/
def firingAt (pos : Coord) (f : Firing) (g : Region → Region := id) : State :=
  (({ withRegion1 g with cur := { pos := pos, region := 1 } } : State).modCtx pos 0 fun x => { x with owner := some owner1 }).modNode pos fun n =>
    n.setSlot 0 (some f)

def ce : Coord := elemCoord 0 0
def me : Coord := elemCoord 1 0
def nu : Coord := clusterNode 0 1
def mn : Coord := clusterNode 0 3
def cp : Coord := clusterNode 0 4
def till : Coord := clusterNode 0 5
def lk : Coord := linkNode 0

/-- A token of two lanes for port 1 of a node, of a kind. -/
def tok (k : TokKind) (dst : Coord) (port : Nat := 1) : Token :=
  { kind := k, dst := dst, ctx := 0, port := port, frame := 0, iter := 0, len := 2, aux := 0, mask := 3, poison := 0, wide := false, lanes := [6, 8] }
/-- Two lanes with small operands. -/
def two : Firing := firingOn 0 [5, 7] [3, 4] [2, 1]

/-- Ports 0, 1 and 2 of a type, into temporary 1. -/
def abc (ty : Ty) : Niw := bareNiw ty (.t 1) (.p 0) (.p 1) (.p 2)

end Sys2Proof.Witness

open Sys2Proof.Witness

/-! ## Ill-formed terms, one for each check -/

theorem test_wf_ty : (Instr.fadd (bareNiw .i32 (.t 0) (.p 0) (.p 1) .none)).wfError = some .ty := rfl
theorem test_wf_dest : (Instr.fence (bareNiw (Ty.ofCode 0) (.t 0) .none .none .none)).wfError = some .dest := rfl
theorem test_wf_selA : (Instr.add (bareNiw .i32 (.t 0) .none (.p 1) .none)).wfError = some .selA := rfl
theorem test_wf_selB : (Instr.add (bareNiw .i32 (.t 0) (.p 0) .none .none)).wfError = some .selB := rfl
theorem test_wf_selC : (Instr.add (bareNiw .i32 (.t 0) (.p 0) (.p 1) (.p 2))).wfError = some .selC := rfl
theorem test_wf_immSelected : (Instr.trapif { bareNiw .i32 .none (.p 0) .imm .none with opt := 2 }).wfError = some .immSelected := rfl
theorem test_wf_predicate : (Instr.cvt { bareNiw .f32 (.t 0) (.p 0) .none .none with opt := 11, pred := .mask 1 false }).wfError = some .predicate := rfl
theorem test_wf_form : (Instr.steer (bareNiw .f32 (.o 1) (.p 0) (.p 1) .none)).wfError = some .form := rfl
theorem test_wf_rounding : (Instr.add { bareNiw .i32 (.t 0) (.p 0) (.p 1) .none with rm := .rtz }).wfError = some .rounding := rfl
theorem test_wf_saturate : (Instr.and { bareNiw .n32 (.t 0) (.p 0) (.p 1) .none with sat := true }).wfError = some .saturate := rfl
theorem test_wf_flush : (Instr.add { bareNiw .i32 (.t 0) (.p 0) (.p 1) .none with fz := true }).wfError = some .flush := rfl
theorem test_wf_option : (Instr.add { bareNiw .i32 (.t 0) (.p 0) (.p 1) .none with opt := 1 }).wfError = some .option := rfl
theorem test_wf_imm16 : (Instr.add { bareNiw .i32 (.t 0) (.p 0) (.p 1) .none with imm := 1 }).wfError = some .imm16 := rfl
theorem test_wf_controlLimit : (Instr.seqRun 0 0 0).wfError = some .controlLimit := rfl
theorem test_wf_reservedField : (Instr.cmdBarrier { cen := false, cnfy := 0, lid := 0, cval := 0, w2 := 1, w3 := 0, w4 := 0, w5 := 0, w6 := 0, w7 := 0 }).wfError =
    some .reservedField := rfl

/-! ## Worked encodings of the manual, one or two of every family -/

theorem test_word_ce : reads 0x599423FF000A0000 (.fcvts { bareNiw .bf16 (.o 0) (.p 0) .none .none with opt := 10 }) ∧
    reads 0x5BA023FF00000000 (.fred (bareNiw .f32 (.t 0) (.p 0) .none .none)) := ⟨rfl, rfl⟩
theorem test_word_nu : reads 0x63C423FF001A0000 (.qnt { bareNiw .e4m3 (.o 0) (.p 0) .none .none with opt := 0x1A }) ∧
    reads 0x6FA4A13F06000000 (.div { bareNiw .f32 (.o 1) (.p 0) (.p 1) .none with rm := .rup }) := ⟨rfl, rfl⟩
theorem test_word_te : reads 0x8A6FF7FF00440002 (.joinp { bareNiw .n32 .none .imm .none .none with opt := 0x44, imm := 2 }) ∧
    reads 0x87A4213F00000000 (.steer (bareNiw .f32 (.o 0) (.p 0) (.p 1) .none)) := ⟨rfl, rfl⟩
theorem test_word_me : reads 0xA30FFFFF00460003 (.sbar { bareNiw (Ty.ofCode 0) .none .none .none .none with opt := 0x46, imm := 3 }) ∧
    reads 0x96AFA3FF00040000 (.ldsg { bareNiw .f32 .none (.p 0) .none .none with opt := 4 }) := ⟨rfl, rfl⟩
theorem test_word_cp : reads 0xB40FE31F00000000 (.cpyz (bareNiw (Ty.ofCode 0) .none .zero .zero .none)) := rfl
theorem test_word_mn : reads 0xC20FA19F00000000 (.mnrun (bareNiw (Ty.ofCode 0) .none (.p 0) (.k 0) .none)) ∧
    reads 0xC90FC31100460000 (.mnsave { bareNiw (Ty.ofCode 0) .none (.k 4) .zero (.k 5) with opt := 0x46 }) := ⟨rfl, rfl⟩
theorem test_word_hs : reads 0xD964330D00440004 (.hxchg { bareNiw .n32 (.o 0) (.k 0) .zero (.k 1) with opt := 0x44, imm := 4 }) ∧
    reads 0xDB64331900400000 (.hinc { bareNiw .n32 (.o 0) (.k 0) .zero .one with opt := 0x40 }) := ⟨rfl, rfl⟩
theorem test_word_wl : reads 0xE36FFFFF00000821 (.wlpop { bareNiw .n32 .none .none .none .none with imm := 0x0821 }) ∧
    reads 0xE26FBB3800000000 (.wlpushb (bareNiw .n32 .none (.k 2) .one .zero)) := ⟨rfl, rfl⟩
theorem test_word_le : reads 0xEA0FBB08006E01F9 (.lget { bareNiw (Ty.ofCode 0) .none (.k 2) .zero (.p 0) with opt := 0x6E, imm := 0x1F9 }) ∧
    reads 0xEB646F3F00640001 (.latom { bareNiw .n32 (.o 0) .iter .one .none with opt := 0x64, imm := 1 }) := ⟨rfl, rfl⟩
theorem test_word_esc : reads 0xFDAFA3FF00010101 (.pchkTrap { bareNiw .f32 .none (.p 0) .none .none with opt := 1, imm := 0x101 }) ∧
    reads 0xFF057FFF00000005 (.tapmOn { bareNiw (Ty.ofCode 0) (.o 2) .none .none .none with imm := 5 }) := ⟨rfl, rfl⟩
theorem test_word_sequencer : readsCcw 0xF000000000000000 (.seqCfg 0) ∧ readsCcw 0xF400000000000000 (.waitsBlk 0) := ⟨rfl, rfl⟩

/-- A reserved opcode is refused (R53). -/
theorem test_word_reserved : decode { src := .node, words := [0xB000000000000000 + 0x0C00000000000000] } = .error .opcode := rfl

/-! ## Witnesses: lanes -/

theorem witness_runs : Runs (firingAt ce two) two ∧ (firingAt ce two).region 1 = some (oneRegion 1) := by unfold Runs; decide +kernel
theorem witness_arithRows : ∀ row ∈ arithRows (abc .i32) ++ logicRows (abc .n32) ++ moveRows (abc .i64), Room (firingAt ce two) two (abc .i32) row.wide := by
  unfold Room; decide +kernel
/-- The sum of the smallest and the largest number of the type with 1: where saturation begins. -/
theorem witness_SaturationAndWrapping : Ty.i32.isInt = true ∧ ires .i32 true (2 ^ 31 - 1) = (0x7fffffff, 0) ∧ ires .i32 true (2 ^ 31) = (0x7fffffff, Flag.saturated) ∧
    (abc .n32).ty = .n32 ∧ (abc .n32).sat = false := by decide +kernel
/-- Well-formed logic instructions of one, two and three operands. -/
theorem witness_LogicAndShifts : (∃ x ∈ (logicRows { abc .n32 with b := .none, c := .none }).zip [2, 2, 2, 2, 1, 2, 2, 2, 2, 3], x.2 = 1 ∧ x.1.i.wf = true) ∧
    (∃ x ∈ (logicRows { abc .n32 with c := .none }).zip [2, 2, 2, 2, 1, 2, 2, 2, 2, 3], x.2 = 2 ∧ x.1.i.wf = true) ∧
    ∃ x ∈ (logicRows (abc .n32)).zip [2, 2, 2, 2, 1, 2, 2, 2, 2, 3], x.2 = 3 ∧ x.1.i.wf = true := by decide +kernel
/-- A lane whose predicate bit is poisoned, and one whose bit is not. -/
def predicated : Firing := { two with masks := [(0, 0), (2, 1), (0, 0), (0, 0)] }
theorem witness_EffectiveMask : Runs (firingAt ce predicated) predicated ∧ predicated.predPoison (.mask 1 true) 0 = true ∧
    predicated.active (.mask 1 true) = [0] ∧ predicated.active (.mask 1 false) = [1] ∧ predicated.active .token = [0, 1] ∧
    (∀ i ∈ fieldInsns (abc .n32) ++ floatInsns (abc .f32) ++ numericInsns (abc .f64), Room (firingAt ce predicated) predicated (abc .f32) (laneForm i).1) ∧
    (∀ i ∈ crossInsns (abc .i32), Room (firingAt ce predicated) predicated (abc .i32) (crossWide i)) ∧
    Instr.mand (abc .i32) ∈ crossInsns (abc .i32) ∧
    Instr.mand (abc .i32) ∉ [Instr.mset (abc .i32), .tagrd (abc .i32), .amaxb (abc .i32), .merge (abc .i32), .gate (abc .i32)] := by
  unfold Runs Room; decide +kernel
/-- ADDC with the mask bit that M1 gives; its form. -/
def carry : Niw := { abc .n32 with c := .m 1 }
theorem witness_CarryChains : Runs (firingAt ce predicated) predicated ∧ Room (firingAt ce predicated) predicated carry carry.ty.isWide ∧
    carry.c = .m 1 ∧ (Instr.addc carry).wf = true := by unfold Runs Room; decide +kernel
theorem witness_PoisonOfLanes : ∀ i ∈ fieldInsns (abc .n32) ++ floatInsns (abc .f32) ++ numericInsns (abc .f64) ++ crossInsns (abc .i32),
    Room (firingAt nu two) two (abc .f32) (laneForm i).1 ∧ Room (firingAt nu two) two (abc .i32) (crossWide i) := by unfold Room; decide +kernel
theorem witness_LaneValues : Runs (firingAt nu two) two ∧ Room (firingAt nu two) two (abc .f32) (abc .f32).ty.isWide ∧
    (∀ row ∈ fieldValues (abc .n32) ++ floatValues (firingAt nu two) two (abc .f32) ++ numericValues (firingAt nu two) two (abc .f32),
      Room (firingAt nu two) two (abc .f32) row.wide) ∧
    (∀ row ∈ crossValues (firingAt ce two) two (abc .i32), Room (firingAt ce two) two (abc .i32) (crossWide row.1)) ∧
    Room (firingAt ce two) two (abc .f32) false := by unfold Runs Room; decide +kernel
/-- F32's 1.5, −2, +0, ∞ and −∞, a quiet and a signalling NaN: the values that the clauses of `FloatArithmetic` ask for. -/
def single : Rounding := (firingAt ce two).rounding two (abc .f32) .f32 0
theorem witness_FloatArithmetic : let v := single.arg single.ty
    (∃ m e, v 0x3fc00000 = .fin false m e) ∧ (∃ m e, v 0xc0000000 = .fin true m e) ∧ (∃ e, v 0 = .fin false 0 e) ∧
    v 0x7f800000 = .inf false ∧ (v 0x7fc00000).isNan = true ∧ (v 0x7f800001).isSig = true ∧
    v 0xff800000 = .inf true := by
  refine ⟨⟨_, _, rfl⟩, ⟨_, _, rfl⟩, ⟨_, rfl⟩, ?_⟩; decide +kernel
theorem witness_ReductionAndPacking : Runs (firingAt ce two) two ∧ Room (firingAt ce two) two (abc .i32) (abc .i32).ty.isWide := by unfold Runs Room; decide +kernel
/-- QNT sends on port 0. -/
theorem witness_QuantisedBlock : (bareNiw .e4m3 (.o 0) (.p 0) .none .none).d = .o 0 ∧ Runs (firingAt nu two) two ∧
    (firingAt nu two).room nu two.ctx 0 2 = true := by unfold Runs; decide +kernel
theorem witness_CompletionWrites : (firingAt ce two).firing = some two ∧ two.ix + 1 < two.words.length ∧
    (([(0, { v := 1, psn := false }), (1, { v := 2, psn := true })] : List (Nat × Lane)).map (·.1)).Nodup ∧
    two.ctx < ((firingAt ce two).node (firingAt ce two).cur.pos).ctxs.length ∧ two.masks.length = 4 ∧
    two.due = none := by decide +kernel

/-! ## Witnesses: Token Engine -/

/-- Region 1 with four frames, three party sets, and a scratch window of 256 bytes. -/
def fourFrames (r : Region) : Region :=
  { r with hdr := [0, BitVec.ofNat 64 (3 * 2 ^ 22 + 3 * 2 ^ 11), BitVec.ofNat 64 (2 ^ 40 + 256 * 2 ^ 47)] }

/-- The firing's region. -/
def rg (s : State) : Region := (s.region 1).getD (oneRegion 1)

theorem witness_AllocTakesFrames : let s := firingAt ce two fourFrames
    Runs s two ∧ Room s two (abc .n32) false ∧ s.region two.region = some (rg s) ∧ two.active .token ≠ [] ∧ (rg s).requests = [] ∧
    (rg s).liveFrames + (two.active .token).length ≤ (rg s).budget ∧ (((rg s).grantMany 0 2).map (·.2)) = some [1, 2] := by unfold Runs Room; decide +kernel
/-- One frame is live of a budget of two: two more are one too many. -/
theorem witness_AllocRefused : let s := firingAt ce two fun r => { r with hdr := [0, 2 ^ 22] }
    Runs s two ∧ Room s two (abc .n32) false ∧ s.region two.region = some (rg s) ∧ two.active .token ≠ [] ∧
    (rg s).requests = [] ∧ (rg s).budget = 2 ∧ (rg s).budget < (rg s).liveFrames + (two.active .token).length := by unfold Runs Room; decide +kernel
theorem witness_GrantIsLowestFree : ((oneRegion 1).grant 0).map (·.2) = some 1 := by decide +kernel
/-- FREE of frame 0 by lane 0, and by lane 1 with a poisoned name. -/
theorem witness_FreeRetiresFrames : let f := { two with ports := [{ portOf 0 [0, 5] with poison := 2 }] }
    let s := firingAt ce f
    Runs s f ∧ s.region f.region = some (rg s) ∧ s.sinkMustWait f = false ∧
    let name := s.readSel s.cur.pos f (abc .n32) .n32 0 (.p 0)
    (f.active .token).filter (fun l => !((name l).2 || f.predPoison .token l)) = [0] ∧ (name 0).1 < 1024 ∧ ((rg s).frame (name 0).1).state = 1 := by
  unfold Runs; decide +kernel
/-- EMIT at displacement 1, to the last base that the tag space of 4,096 iterations takes. -/
theorem witness_EmitMovesTheTag : let f := { two with iter := 4093 }
    let s := firingAt ce f
    let n := { bareNiw .f32 (.o 1) (.p 0) .none .none with imm := 1 }
    n.d = .o 1 ∧ Runs s f ∧ s.region f.region = some (rg s) ∧ Room s f n n.ty.isWide ∧ ((4094 : Nat) : Int) = f.iter + sx n.imm.toNat 16 ∧
    4094 + f.len ≤ 2 ^ ((rg s).frame f.frame).s := by unfold Runs Room; decide +kernel
/-- EMITT with both lanes to frame 0, iterations 4,094 and 4,095: one run; and after it, none left. -/
def emitt : Niw := bareNiw .f32 (.o 0) (.p 0) (.p 1) (.p 2)
def named : Firing := firingOn 0 [5, 7] [0, 0] [4094, 4095]
theorem witness_EmittNamesTheTag : let s := firingAt ce named
    Runs s named ∧ s.region named.region = some (rg s) ∧ s.sinkMustWait named = false ∧
    (((named.active .token).map fun l => (l, s.named emitt named (rg s) l)).filter fun x => decide (named.part ≤ x.1) && decide (x.2 ≠ .sunk)) =
      (0, .to 0 4094) :: [(1, .to 0 4095)] ∧ s.room s.cur.pos named.ctx 0 1 = true := by unfold Runs; decide +kernel
/-- No lane is left: one has sent its token, and the other's name is poisoned. -/
theorem witness_EmittEnds : let f := { named with part := 1, ports := [portOf 0 [5, 7], { portOf 1 [0, 0] with poison := 2 }, portOf 2 [4094, 4095]] }
    let s := firingAt ce f
    Runs s f ∧ s.region f.region = some (rg s) ∧ s.sinkMustWait f = false ∧ (∀ l ∈ f.active .token, s.named emitt f (rg s) l = .sunk ∨ l < f.part) ∧
    s.named emitt f (rg s) 1 = .sunk := by unfold Runs; decide +kernel
/-- ITER of 5 iterations in runs of 4, at its second run, and at its end; and with its two lanes sent, one poisoned. -/
def iterOf (part : Nat) : Firing := { firingOn 0 [5, 0] [0, 0] [] with tmask := 1, part := part }
theorem witness_IterSendsTheSpace : ∀ k ∈ [1, 2], let f := iterOf k
    let s := firingAt ce f
    let n := { bareNiw .n32 (.o 0) (.p 0) (.p 1) .none with imm := 4 }
    Runs s f ∧ s.region f.region = some (rg s) ∧ s.sinkMustWait f = false ∧
    ((f.active n.pred).filter fun l => decide (f.part / 2 ^ 13 ≤ l) && !((s.readSel s.cur.pos f n .n32 0 n.a l).2 || f.predPoison n.pred l)) = [0] ∧
    s.room s.cur.pos f.ctx 0 1 = true ∧ s.readSel s.cur.pos f n .n32 0 n.a 0 = (5, false) ∧
    s.readSel s.cur.pos f n .n32 1 n.b 0 = (0, false) ∧ (rg s).live 0 = true ∧ 5 ≤ (rg s).space 0 := by unfold Runs; decide +kernel
theorem witness_IterSendsTheSpace_ends :
    let f := { two with part := 2 ^ 13, ports := [{ portOf 0 [5, 7] with poison := 2 }, portOf 1 [0, 0]] }
    let s := firingAt ce f
    let n := { bareNiw .n32 (.o 0) (.p 0) (.p 1) .none with imm := 4 }
    Runs s f ∧ s.region f.region = some (rg s) ∧ s.sinkMustWait f = false ∧
    ((f.active n.pred).filter fun l => decide (f.part / 2 ^ 13 ≤ l) && !((s.readSel s.cur.pos f n .n32 0 n.a l).2 || f.predPoison n.pred l)) = [] := by
  unfold Runs; decide +kernel
/-- Room for a token and for two runs; the first and the last piece of one lane, the one piece of a firing without an active lane, and the second piece
of a run of 20 lanes of 64 bits. -/
theorem witness_SplitSteerEos : let s := firingAt ce two
    let z := { two with tmask := 0 }
    Runs s two ∧ Runs (firingAt ce z) z ∧ (firingAt ce z).room ce z.ctx 0 1 = true ∧ s.room s.cur.pos two.ctx 0 1 = true ∧
    (splitRanges false 1 two.len)[0]? = some (0, 1) ∧ (splitRanges false 1 two.len)[1]? = some (1, 1) ∧ (splitRanges false z.len z.len)[0]? = some (0, 2) ∧
    (splitRanges true 20 20)[1]? = some (16, 4) ∧
    s.roomMany s.cur.pos two.ctx [(0, tokensOf false two.len), (1, tokensOf false two.len)] = true := by unfold Runs; decide +kernel
/-- JOINP on an empty party set; BARR and LEAVEP of a member that has not arrived and of one that has; BARR at elements with nothing
in their release set. -/
def party (arrived : List (Nat × Coord × Nat × Nat × Nat)) (r : Region) : Region :=
  { fourFrames r with psets := [(2, { scope := 2, members := [0, 1], arrived := arrived })] }
def joinp : Niw := { bareNiw .n32 .none .imm .none .none with opt := 0x44, imm := 2 }
theorem witness_PartyOperations : Runs (firingAt ce two (party [])) two ∧ (firingAt ce two (party [])).region two.region = some (rg (firingAt ce two (party []))) ∧
    ((firingAt ce two (party [])).readSel ce two joinp .n32 0 .imm 0).1 < (rg (firingAt ce two (party []))).parties ∧
    ((rg (firingAt ce two fourFrames)).pset 2).members = [] ∧ joinp.opt.toNat / 32 = ((rg (firingAt ce two (party []))).pset 2).scope ∧
    two.frame ∈ ((rg (firingAt ce two (party []))).pset 2).members ∧ (∀ a ∈ ((rg (firingAt ce two (party []))).pset 2).arrived, a.1 ≠ two.frame) ∧
    (∃ a ∈ ((rg (firingAt ce two (party [(0, ce, 0, 4, 0)]))).pset 2).arrived, a.1 = two.frame) ∧
    kindOf ce ≠ .me ∧ kindOf me = .me ∧ (firingAt me two (party [])).releaseReady two 2 = none ∧ (firingAt ce two (party [])).releaseReady two 2 = none := by
  unfold Runs; decide +kernel
/-- DEPTH to 4, on a cluster without reserved Chits. -/
theorem witness_DepthPends : let s := firingAt ce two
    let n := { bareNiw (Ty.ofCode 0) .none (.p 1) .none .none with opt := 5, imm := 4 }
    n.a = .p 1 ∧ Runs s two ∧ (s.cluster (clusterOf s.cur.pos)).resv + n.imm.toNat % 64 - (s.ctx s.cur.pos two.ctx).dep 1 ≤ 480 := by unfold Runs; decide +kernel

/-! ## Witnesses: Memory Element -/

/-- K0 is the scratchpad address 64, K1 the address 65,536 of G-space; the partition's page there lies at 1 MiB of HBM. -/
def page : Xlat := { part := 1, vpn := 16, lg := 12, spa := 0x100000, w := true, rd := true, dev := false, bad := none }
def accessing : Firing := { two with consts := [64, BitVec.ofNat 64 (2 ^ 62 + 65536)], xl := [page] }

/-- Stream 0 of context 0: open, 8 elements of 4 bytes from 64, in S-space when `g` is 0, with AMODE `am` (R75). -/
def streaming (f : Firing) (g am pos : Nat) : State :=
  let w0 : Word := BitVec.ofNat 64 (g * 2 ^ 62 + am * 2 ^ 53 + 64)
  let base : Nat := if g = 0 then 64 else 65536
  ((firingAt me f fourFrames).modCtx me 0 fun x => { x with streams := [[w0, 7, if am = 2 then 8 else 4, 0]] }).modMe me fun m =>
    { m with sst := m.sst.set (0, 0) (BitVec.ofNat 64 (2 ^ 63 + pos)), sad := m.sad.set (0, 0) (BitVec.ofNat 64 base) }

/-- The word of a memory instruction on constant `k`. -/
def memNiw (k : Fin 8) : Niw := bareNiw .n32 .none (.k k) (.p 1) (.p 2)

/-- The access is sound, through `page` in G-space. -/
def soundBy (s : State) (f : Firing) (r : Region) (g rd wr : Bool) (cls size align : Nat) (a : Int) : Bool :=
  decide (wrap a 48 % align = 0) && (g || decide (0 ≤ a ∧ a + size ≤ (r.scratch : Int))) &&
    (!g || (vasOf a size).all fun v => decide (s.xlatOf f (streamOf cls) r.part v = some page) && decide (page.fault s.dev rd wr v = none))

theorem sound_by {s f r g rd wr cls size align a} (h : soundBy s f r g rd wr cls size align a = true) : Sound s f r g rd wr cls size align a := by
  simp only [soundBy, Bool.and_eq_true, Bool.or_eq_true, Bool.not_eq_true', List.all_eq_true, decide_eq_true_eq] at h
  exact ⟨h.1.1, fun e => (h.1.2.resolve_left (by simp [e])), fun e v hv => ⟨page, (h.2.resolve_left (by simp [e])) v hv⟩⟩

/-- The premises of `LoadIssues` on a row. -/
def loadMet (s : State) (f : Firing) (r : Region) (row : LoadRow) : Bool :=
  let sz := row.n.ty.slot / 8
  decide (s.firing = some f) && decide (f.opid = 0) && decide (f.tmask % 2 ^ f.len ≠ 0) && decide (s.region f.region = some r) &&
  !s.stalled r.part && (row.lanes.all fun x => soundBy s f r row.g true false row.cls sz sz x.2) &&
  s.canReserve s.cur.pos f.ctx (row.n.opt.toNat % 8) (tokensOf row.n.ty.isWide f.len) &&
  (row.lanes.all fun x => !(s.me s.cur.pos).hurt (window s f r + wrap x.2 48) sz) &&
  !s.heldBack f s.cur.pos row.cls (if row.g then row.scope else 0)
    (if row.g then row.lanes.map fun x => lineOf (physical s f r row.cls x.2) else [])

/-- LD, LDG, LDA, LDB and LDL in S-space and in G-space. -/
theorem witness_LoadIssues : let s := firingAt me accessing fourFrames
    accessing.addrConst (.k 0) = some (false, 64) ∧ accessing.addrConst (.k 1) = some (true, 65536) ∧ accessing.len ≤ 16 ∧
    ((pointerLoad s accessing (bareNiw .n32 .none (.k 0) .zero .none) false 64 :: broadcastLoad accessing (memNiw 0) false 64 ::
      elemLoads s accessing (memNiw 0) false 64).all fun row => loadMet s accessing (rg s) row) = true ∧
    ((pointerLoad s accessing (bareNiw .n32 .none (.k 1) (.k 2) .none) true 65536 :: broadcastLoad accessing (memNiw 1) true 65536 ::
      elemLoads s accessing (memNiw 1) true 65536).all fun row => loadMet s accessing (rg s) row) = true := by decide +kernel
/-- LDS and LDSG of stream 0; LDS at its last two positions, and at its end, where its lanes become inactive. -/
theorem witness_LoadIssues_streams : ∀ pos ∈ [0, 6, 8], ∀ g ∈ [0, 1], let s := streaming accessing g 0 pos
    bit (s.sstOf accessing (stream (memNiw 0))) 63 = true ∧ (s.sd accessing 0).amode ≠ 2 ∧
    loadMet s accessing (rg s) (streamLoad s accessing (memNiw 0)) = true := by decide +kernel
theorem witness_LoadIssues_indexed : let s := streaming accessing 0 1 0
    bit (s.sstOf accessing 0) 63 = true ∧ loadMet s accessing (rg s) (indexedLoad s accessing (bareNiw .n32 .none (.p 0) .none .none)) = true ∧
    ∀ x ∈ sound s accessing (memNiw 0) .i32 0 (.p 0), 0 ≤ sx x.2 32 ∧ sx x.2 32 < ((s.sd accessing 0).cnt.getD 0 1 : Int) := by decide +kernel

/-- The premises of the stores' statements on a row. -/
def storeMet (s : State) (f : Firing) (r : Region) (row : StoreRow) : Bool :=
  let align := if row.size < 64 then row.size else 64
  let sc := if row.g then row.scope else 0
  let cells := row.lanes.flatMap fun x => cellsAt (wrap x.2.1 48) x.2.2
  let lines := byLine (cells.map fun c => ((xlat s f r row.cls c.1).pa c.1, c.2))
  decide (s.firing = some f) && decide (f.opid = 0) && decide (f.part = 0) && decide (f.tmask % 2 ^ f.len ≠ 0) &&
  decide (s.region f.region = some r) && !s.stalled r.part && !s.sinkMustWait f &&
  (row.lanes.all fun x => soundBy s f r row.g false true row.cls row.size align x.2.1) &&
  !s.heldBack f s.cur.pos row.cls sc (if row.g then lines.map (·.1) else []) && decide (s.releaseReady f sc = none) &&
  decide ((s.cluster (clusterOf s.cur.pos)).wb.length + lines.length ≤ 32) &&
  (s.cluster (clusterOf s.cur.pos)).wb.all fun e => lines.all fun l => e.line != l.1

/-- ST, STR and STM of two lanes, and STZ of 64 bytes on the lowest lane, in both spaces. -/
theorem witness_StoresComplete : let s := firingAt me accessing fourFrames
    (((elemStores s accessing (memNiw 0) false 64).take 2 ++ ((elemStores s accessing (memNiw 0) false 64).drop 3).take 1 ++
      (elemStores s accessing (bareNiw .n32 .none (.k 0) .zero (.p 2)) false 64).drop 4).all fun row => storeMet s accessing (rg s) row) = true ∧
    (((elemStores s accessing (memNiw 1) true 65536).take 2 ++ ((elemStores s accessing (memNiw 1) true 65536).drop 3).take 1 ++
      (elemStores s accessing (bareNiw .n32 .none (.k 1) .zero (.p 2)) true 65536).drop 4).all fun row => storeMet s accessing (rg s) row) = true := by
  decide +kernel
/-- STG with two lanes on two addresses: its rows are ST's, and no choice is open. -/
theorem witness_StoresComplete_groups : let s := firingAt me accessing fourFrames
    ((elemStores s accessing (memNiw 0) false 64).drop 2).head?.map (fun row => row.lanes.length) = some 2 := by decide +kernel
theorem witness_StoresComplete_streams : ∀ g ∈ [0, 1], ∀ pos ∈ [0, 6], let s := streaming accessing g 0 pos
    let n := bareNiw .n32 .none (.p 0) (.p 1) .none
    bit (s.sstOf accessing 0) 63 = true ∧ posOf s accessing n + (accessing.active n.pred).length ≤ (s.sd accessing 0).count ∧
    storeMet s accessing (rg s) (streamStore s accessing n) = true := by decide +kernel
theorem witness_StoresComplete_indexed : ∀ g ∈ [0, 1], let s := streaming accessing g 1 0
    let n := bareNiw .n32 .none (.p 0) (.p 1) .none
    bit (s.sstOf accessing 0) 63 = true ∧ storeMet s accessing (rg s) (indexedStore s accessing n) = true ∧
    ∀ l ∈ accessing.active n.pred, (s.readSel s.cur.pos accessing n .i32 0 n.a l).2 = false → (s.readSel s.cur.pos accessing n n.ty 1 n.b l).2 = false →
      0 ≤ sx (s.readSel s.cur.pos accessing n .i32 0 n.a l).1 32 ∧
      sx (s.readSel s.cur.pos accessing n .i32 0 n.a l).1 32 < ((s.sd accessing 0).cnt.getD 0 1 : Int) := by decide +kernel
/-- A write-buffer entry of a line that has not begun to drain. -/
def waitingEntry : WbEntry :=
  { id := 0, line := 0x2000, bytes := [(0x100000, 7)], last := 0, region := 1, dev := false, draining := false, sys := false, writers := [(me, 0, 0, 4)] }
theorem witness_StoreToWriteBuffer_joins : let s := (firingAt me accessing fourFrames).modCluster 0 fun c => { c with wb := [waitingEntry] }
    ((s.cluster 0).wb.filter fun x => x.line == 0x2000).getLast? = some waitingEntry ∧ waitingEntry.draining = false := by decide +kernel

/-- The stream instructions on an open stream, on a bad descriptor, and on a closed stream. -/
theorem witness_StreamControl : let s := streaming accessing 0 0 3
    let w := (s.ctx me 0).streams.getD 0 []
    Runs s accessing ∧ accessing.lane0 .token = some 0 ∧ sdOk w = true ∧ bit (s.sstOf accessing 0) 63 = true ∧
    s.awaited 0 (streamWrites me 0 0) = ([], []) ∧ s.midway me 0 0 = false ∧ (s.readSel me accessing (memNiw 0) .i32 0 .zero 0).1 % 2 ^ 32 ≤ (s.sd accessing 0).count ∧
    accessing.tmask % 2 ^ accessing.len ≠ 0 ∧ Room s accessing (abc .n32) false ∧
    (s.sd accessing 0).amode = 0 ∧ (s.sd accessing 0).count < (s.readSel me accessing (memNiw 0) .i32 0 (.k 0) 0).1 % 2 ^ 32 ∧
    ({ accessing with tmask := 0 } : Firing).lane0 .token = none ∧ sdOk (((streaming accessing 0 7 0).ctx me 0).streams.getD 0 []) = false ∧
    bit ((firingAt me accessing fourFrames).sstOf accessing 0) 63 = false := by unfold Runs Room; decide +kernel
/-- A linked stream of one element at 64, whose next link is 0 (R216), under way with nothing taken when `taken` is 0, and else at its end. -/
def linking (taken : Nat) : State :=
  let f := { accessing with tmask := 1, opid := 1 }
  let s := (streaming f 0 2 0).modMe me fun m => { m with spad := (List.range 16).map fun k => (64 + k, if k = 0 then 9 else 0) }
  { s with ops := [{ opOf s f .load Ty.n32 with id := 1, more := true, link := (if taken = 0 then 64 else 0, taken, taken) }] }
theorem witness_LinkedLoad_begins : let f := { accessing with tmask := 1 }
    let s := streaming f 0 2 0
    Runs s f ∧ s.region f.region = some (rg s) ∧ f.tmask % 2 ^ f.len ≠ 0 ∧ (s.sd f 0).amode = 2 ∧ f.opid = 0 ∧ bit (s.sstOf f 0) 63 = true ∧
    s.canReserve me f.ctx 4 (tokensOf false f.len) = true ∧ s.heldBack f me 0 0 [] = false := by unfold Runs; decide +kernel
theorem witness_LinkedLoad : ∀ taken ∈ [0, 1], let f := { accessing with tmask := 1, opid := 1 }
    let s := linking taken
    let o := s.ops.headD (opOf s f .load Ty.n32)
    let q := o.linked (f.active .token)
    let at' (x : Nat) : Nat := window s f (rg s) + x
    Runs s f ∧ s.region f.region = some (rg s) ∧ f.opid ≠ 0 ∧ (s.sd f 0).amode = 2 ∧ (s.ops.find? fun o => o.id == f.opid) = some o ∧ o.todo = [] ∧ o.waits = [] ∧
    decide ((s.sd f 0).cnt.getD 0 1 ≤ q.link.2.1 ∨ q.link.1 = 0) = decide (taken = 1) ∧
    (taken = 0 → q.link.2.2 < (f.active .token).length ∧ (s.sd f 0).g = false ∧
      soundBy s f (rg s) false true false 0 4 4 (q.link.1 + (s.sd f 0).std.getD 1 0 : Int) = true ∧
      soundBy s f (rg s) false true false 0 8 8 (q.link.1 + (s.sd f 0).std.getD 0 0 : Int) = true ∧
      s.barred me f.ctx 0 = false ∧ (s.me me).hurt (at' 64) 8 = false) := by unfold Runs; decide +kernel
theorem witness_LinkedLoad_waits : let f := { accessing with tmask := 1, opid := 1 }
    let s := { linking 0 with ops := [{ opOf (linking 0) f .load Ty.n32 with id := 1, more := true, waits := [4] }] }
    Runs s f ∧ (s.ops.find? fun o => o.id == f.opid).map (·.waits) = some [4] := by unfold Runs; decide +kernel
/-- XWB and XINV of two lanes; PROBE in G-space; PFETCH of one lane. -/
theorem witness_BarriersAndWriteBacks : let s := firingAt me accessing fourFrames
    let ls := (sound s accessing (memNiw 1) .i32 1 (.p 1)).map fun x => ((65536 : Nat) : Int) + sx x.2 32 * (Ty.n32.slot / 8 : Nat) + sx 0 16
    Runs s accessing ∧ accessing.tmask % 2 ^ accessing.len ≠ 0 ∧ s.region accessing.region = some (rg s) ∧ s.stalled (rg s).part = false ∧
    accessing.addrConst (.k 1) = some (true, 65536) ∧ (ls.all fun a => soundBy s accessing (rg s) true false true 4 4 4 a) = true ∧ ls ≠ [] ∧
    s.sinkMustWait accessing = false ∧
    s.heldBack accessing me 4 3 ((ls.map fun a => lineOf (physical s accessing (rg s) 4 a)).eraseDups) = false := by unfold Runs; decide +kernel
theorem witness_ProbesPrefetchesAndMaps : let f := { accessing with tmask := 1 }
    let s := firingAt me f fourFrames
    Runs s f ∧ s.region f.region = some (rg s) ∧ f.addrConst (.k 1) = some (true, 65536) ∧ f.addrConst (.k 0) = some (false, 64) ∧
    Room s f (memNiw 1) false ∧ f.tmask % 2 ^ f.len ≠ 0 ∧ s.stalled (rg s).part = false ∧ sound s f (memNiw 1) .i32 1 (.p 1) = [(0, 3)] ∧
    s.xlatOf f none (rg s).part (65536 + 12) = some page ∧ (xlat s f (rg s) 4 (65536 + 12)).fault s.dev true false (65536 + 12) = none ∧
    s.cacheable (lineOf (page.pa (65536 + 12))) false = true := by unfold Runs Room; decide +kernel

/-! ## Witnesses: Home Slices, Copy Engine, Escrow -/

/-- The premises of `HomeIssues` on a row. -/
def homeMet (s : State) (f : Firing) (r : Region) (n : Niw) (row : HomeRow) : Bool :=
  let sz := n.ty.slot / 8
  let sc := n.opt.toNat / 32
  let reqs := atomReqs (xlat s f r 4) (row.lanes.map fun l => (l.1, wrap l.2 48))
  decide (s.firing = some f) && decide (f.opid = 0) && decide (f.eff n.pred ≠ 0) && decide (s.region f.region = some r) && !s.stalled r.part &&
  (row.lanes.all fun x => soundBy s f r true true (row.kind != .hseq) 4 sz sz x.2) && !s.sinkMustWait f &&
  s.canReserve s.cur.pos f.ctx 0 (tokensOf n.ty.isWide f.len) && !s.heldBack f s.cur.pos 4 sc (reqs.map (·.line)).eraseDups &&
  decide (s.releaseReady f sc = none) && !row.lanes.isEmpty

/-- Every Home Slice instruction, on two lanes, with their third operands in port 0 and the compares in port 1. -/
def atomicNiw : Niw := { bareNiw .n32 (.o 1) (.k 1) (.p 1) (.p 0) with opt := 0x5D }
theorem witness_HomeIssues : let s := firingAt me accessing
    accessing.addrConst atomicNiw.a = some (true, 65536) ∧
    ((homeRows s accessing atomicNiw 65536).all fun row => homeMet s accessing (rg s) atomicNiw row) = true := by decide +kernel
/-- A poisoned operand lane at a home slice: the row suppresses it. -/
theorem witness_HomeIssues_sunk : let f : Firing := { accessing with ports := accessing.ports.map fun p => if p.port = 1 then { p with poison := 2 } else p }
    let s := firingAt me f
    (((homeRows s f atomicNiw 65536).take 11).all fun row => homeMet s f (rg s) atomicNiw row && decide (row.sunk = [1])) = true := by decide +kernel
theorem witness_AtomicResults : Ty.i32.isInt = true ∧ (5 : Nat) < 2 ^ Ty.i32.width := by decide

/-- A job card of an opcode (R76): elements of type code `ty`, one row of 4,096 bytes from G-space 0 to the place that `dst` names. -/
def cardFor (opc ty dst xarg : Nat) : List Word :=
  [BitVec.ofNat 64 (opc * 2 ^ 56 + ty * 2 ^ 52 + ty * 2 ^ 48), BitVec.ofNat 64 (2 ^ 62), BitVec.ofNat 64 dst, 4096, 0, 0, BitVec.ofNat 64 xarg,
   0xFFFFFFFF00000000]
def copyCard : List Word := cardFor 0xB0 6 (2 ^ 62 + 65536) 0
def copying (jobs : List Job) : State :=
  ((firingAt cp (firingOn 0 [0, 64] [0, 64] [64, 128])).modCtx cp 0 fun x => { x with slots := [copyCard] }).modCopy cp fun y => { y with jobs := jobs }
def copyNiw : Niw := bareNiw .n8 .none (.p 0) (.p 1) (.p 2)
/-- An instance in the queue. -/
def job1 : Job :=
  { id := 7, op := 0, region := 1, ctx := 0, frame := 0, iter := 0, len := 1, pmask := 0, lmask := 1, opc := 0xB0, seqix := 0, lane := 0, card := copyCard,
    src := 0, dst := 0, cnt := 64 }
/-- The queue takes the two instances up to 62 that stand in it. -/
theorem witness_CopyIssues : ∀ k ∈ [0, 62], let f := firingOn 0 [0, 64] [0, 64] [64, 128]
    let s := copying (List.replicate k job1)
    Runs s f ∧ f.opid = 0 ∧ f.part = 0 ∧ f.tmask % 2 ^ f.len ≠ 0 ∧ s.region f.region = some (rg s) ∧
    (∀ l ∈ f.active .token, (cardOf ((s.ctx cp 0).slots.getD 0 [])).issueFault
      { lane := l, src := 0, dst := 0, cnt := (s.readSel cp f copyNiw .n32 2 (.p 2) l).1, sunk := false } = none) ∧
    s.sinkMustWait f = false ∧ (s.copy cp).jobs.length + (f.active .token).length ≤ 64 := by unfold Runs; decide +kernel

/-- Escrow instructions where no lane traps: under an empty predicate, under a comparison that holds nowhere, and without poison. -/
theorem witness_EscrowCompletes : Runs (firingAt ce two) two ∧ two.tmask ≠ 0 ∧ Room (firingAt ce two) two (abc .n32) false ∧
    Room (firingAt ce two) two (abc .f32) true ∧ { two with masks := [(0, 0), (0, 0), (0, 0), (0, 0)] }.eff (.mask 0 false) = 0 ∧
    (∀ l ∈ two.active .token, compareAs .i32 false 2 ((firingAt ce two).readSel ce two (abc .i32) .i32 0 (.p 0) l).1
      ((firingAt ce two).readSel ce two (abc .i32) .i32 1 (.p 1) l).1 = false) ∧
    ∀ l ∈ two.active .token, ((firingAt ce two).readSel ce two (abc .i32) .i32 0 (.p 0) l).2 = false := by unfold Runs Room; decide +kernel
/-- A granted tap slot, bound and not; and a slot of another partition, bound. -/
def tapped (part : Nat) (v : Bool) : State := { firingAt ce two with taps := [((0, 5), { en := true, part := part, v := v })] }
theorem witness_TapBindings : (∀ p ∈ [1, 2], ∀ v ∈ [false, true], Runs (tapped p v) two ∧ (tapped p v).region two.region = some (rg (tapped p v))) ∧
    ((tapped 1 true).taps.get {} (ce.die.toNat, 5)).en = true ∧ ((tapped 1 true).taps.get {} (ce.die.toNat, 5)).part = (rg (tapped 1 true)).part ∧
    ((tapped 1 true).taps.get {} (ce.die.toNat, 5)).v = true ∧ ((tapped 1 false).taps.get {} (ce.die.toNat, 5)).v = false ∧
    ((tapped 2 true).taps.get {} (ce.die.toNat, 5)).part ≠ (rg (tapped 2 true)).part ∧ two.tmask ≠ 0 := by unfold Runs; decide +kernel
/-- TRAPIF.GT: a lane compares greater; PCHK.TRAP: a lane is poisoned. -/
theorem witness_Traps : let f : Firing := { two with ports := two.ports.map fun p => { p with poison := 2 } }
    Runs (firingAt ce f) f ∧ (∃ l ∈ f.active .token, compareAs .i32 false 0 ((firingAt ce f).readSel ce f (abc .i32) .i32 0 (.p 0) l).1
      ((firingAt ce f).readSel ce f (abc .i32) .i32 1 (.p 0) l).1 = true) ∧
    ∃ l ∈ f.active .token, ((firingAt ce f).readSel ce f (abc .i32) .i32 0 (.p 0) l).2 = true := by unfold Runs; decide +kernel
/-- A firing at its first instruction, whose port 0 came as a token; and one past it. -/
theorem witness_TakesFrameFault : let p := { portOf 0 [5, 7] with tok := some (tok .value ce) }
    ∀ ix ∈ [0, 1], let f := { two with ports := [p], ix := ix, gathered := decide (ix = 1) }
    let s := firingAt ce f
    (s.node ce).slot 0 = some f ∧ s.region f.region = some (rg s) ∧ s.canPost (rg s).part = true ∧ (s.infoOf ce f Cause.trap 0).frame = f.frame ∧
    f.untouched = decide (ix = 0) ∧ p.tok = some (tok .value ce) ∧ (tok .value ce).dst = ce ∧
    (s.modPart 1 fun p => { p with held := List.replicate 64 { words := [] } }).canPost (rg s).part = false := by decide +kernel
/-- A parked frame without an open record, and with one. -/
def record1 (h : Hold) : OpenRec := { recno := 0, region := 1, part := 1, frame := 0, cause := Cause.trap, detail := 0, hold := h, pos := ce, ctx := 0, words := [] }
def parked (opens : List OpenRec) : State :=
  (firingAt ce { two with held := true } fun r => { r with frames := [(0, { state := 1, parked := true, s := 12, tcnt := 1 })] }).modPart 1 fun p =>
    { p with opens := opens }
theorem witness_ReturnsFromFrameFault : (parked []).region (rg (parked [])).id = some (rg (parked [])) ∧ ((rg (parked [])).frame 0).parked = true ∧
    (parked []).opensOf (rg (parked [])) 0 = [] ∧ (parked [record1 .trap]).region (rg (parked [])).id = some (rg (parked [])) ∧
    (parked [record1 .trap]).opensOf (rg (parked [])) 0 ≠ [] := by decide +kernel
/-- A firing under SKIP, under PATCH or under neither, at three nodes: room for what the instructions send, and credit for a load's reply. -/
def Answered (skip : Bool) (patch : Option Word) : Prop :=
  let f : Firing := { two with skip := skip, patch := patch }
  (Acting (firingAt nu f) f ∧ Acting (firingAt ce f) f ∧ f.skipped = skip ∧ (firingAt ce f).region f.region = some (rg (firingAt ce f))) ∧
  (∀ i ∈ fieldInsns (abc .n32) ++ floatInsns (abc .f32) ++ numericInsns (abc .f64), Room (firingAt nu f) f (abc .f32) (laneForm i).1) ∧
  Room (firingAt ce f) f (abc .n32) false ∧ f.opid = 0 ∧ Acting (firingAt me f) f ∧
  (firingAt me f).canReserve me f.ctx 0 (tokensOf Ty.n32.isWide f.len) = true
theorem witness_ReturnsFromFrameFault_skip : Answered true none := by unfold Answered Acting Room; decide +kernel
theorem witness_ReturnsFromFrameFault_patch : Answered false (some 9) := by unfold Answered Acting Room; decide +kernel
theorem witness_ReturnsFromFrameFault_acts : Answered false none := by unfold Answered Acting Room; decide +kernel
/-- Firings that gave their inputs back and are admitted again. -/
theorem witness_ReturnsFromFrameFault_again : ∀ how ∈ [some Again.skipAll, some .skip, some (.patch 5), some .after, none],
    let s := firingAt ce two fun r => { r with skips := (how.map fun h => ((ce, 0, 0, 0, 2), h)).toList }
    s.region (s.regionOf ce 0) = some (rg s) ∧ Table.find (rg s).skips (ce, 0, 0, 0, 2) = how := by decide +kernel

/-! ## Witnesses: Matrix Node -/

/-- E4M3 by E4M3 to F32, 4 rows and 16 columns from row 0, no output word, no receipt (R79). -/
def cfgWords : List Word := [BitVec.ofNat 64 (12 * 2 ^ 60 + 12 * 2 ^ 56 + 3 * 2 ^ 18 + 15 * 2 ^ 11), BitVec.ofNat 64 (10 * 2 ^ 60)]
/-- A firing of one lane that holds those words in port 0 and 1 as 64-bit values, or a row and a count. -/
def mnFiring (a b c : Word) : Firing :=
  let port (p : Nat) (v : Word) : PortIn := { port := p, wide := true, lanes := [v], mask := 1, poison := 0, scales := [], arr := p, buf := .vault }
  { oneFiring 1 0 with ports := [port 0 a, port 1 b, port 2 c], words := [0, 0], consts := [BitVec.ofNat 64 (2 ^ 62 + 65536)] }
def atMatrix (f : Firing) : State := (firingAt mn f).modCtx mn 0 fun x => { x with slots := [cfgWords] }
theorem witness_MatrixConfiguration : let f := mnFiring (cfgWords.getD 0 0) (cfgWords.getD 1 0) 0
    let s := atMatrix f
    Runs s f ∧ f.tmask % 2 ^ f.len ≠ 0 ∧ s.region f.region = some (rg s) ∧ (s.ctx mn f.ctx).slots.getD 0 [] = cfgWords ∧ cfgWords ≠ [] ∧
    (laneA s f (abc .n64) .n64 0 (.p 0)).2 = false ∧ (laneA s f (abc .n64) .n64 1 (.p 1)).2 = false ∧
    mnCfgBad 0 (cfgWords.getD 0 0) (cfgWords.getD 1 0) = none ∧ mnCfgBad 0 (2 ^ 60) 0 = some 1 ∧ mnCfgBad 0 (cfgWords.getD 0 0) 0 = some 2 ∧
    BitVec.ofNat 64 (laneA s f (abc .n64) .n64 0 (.p 0)).1 = cfgWords.getD 0 0 := by unfold Runs; decide +kernel
/-- The last row, and as many rows as the configuration has. -/
theorem witness_MatrixIssues : let f := mnFiring 3 4 0
    let s := atMatrix f
    Runs s f ∧ (s.matrix mn).holder 0 = none ∧ ((s.matrix mn).buf 0).st ≠ 1 ∧
    (laneA s f (abc .n32) .n32 0 (.p 0)) = (3, false) ∧ (laneA s f (abc .n32) .n32 1 (.p 1)) = (4, false) ∧ (mnCfgOf cfgWords).nr = 4 ∧
    (mnCfgOf cfgWords).reach 4 ≤ (rg s).space f.frame ∧ (laneA s f (abc .i32) .i32 2 (.p 2)).2 = false ∧
    [0, 1, 2, 3].find? (fun k => !((s.matrix mn).ops.filterMap fun o => match o.work with | .run .. => some o.runSlot | _ => none).contains k) = some 0 := by
  unfold Runs; decide +kernel
/-- MNRUN.P of a run of 16 lanes. -/
theorem witness_MatrixIssues_port : let f : Firing := { mnFiring 3 0 0 with len := 16, tmask := 0xffff }
    let s := atMatrix f
    Runs s f ∧ (f.portIn 1).isSome = true ∧ f.len = 16 ∧ s.readSel mn f (abc .n32) .n32 0 (.p 0) 0 = (3, false) ∧
    (mnCfgOf cfgWords).reach 1 ≤ (rg s).space f.frame := by unfold Runs; decide +kernel
/-- A page table whose first GiB maps to itself (R493). -/
def mapped (s : State) : State :=
  ({ s with mem := [(0x1000, 1), (0x1001, 0x20), (0x2000, 0xF)] } : State).modPart 1 fun p => { p with ptrV := true, ptrRoot := 1 }
/-- MNSAVE and MNREST of slots 126 and 127, the last two. -/
theorem witness_MatrixIssues_moves : let f := mnFiring 0 126 2
    let s := mapped (atMatrix f)
    let lines := (List.range 8).map fun i => (65536 + 128 * i, false)
    Runs s f ∧ f.addrConst (.k 0) = some (true, 65536) ∧ 65536 % 128 = 0 ∧ laneA s f (abc .n32) .n32 0 (.p 1) = (126, false) ∧
    laneA s f (abc .n32) .n32 1 (.p 2) = (2, false) ∧ 126 + 2 ≤ 128 ∧ s.mnLines (rg s).part 65536 2 true = .inr lines ∧
    s.mnLines (rg s).part 65536 2 false = .inr lines := by unfold Runs; decide +kernel
theorem witness_MatrixQueries : let f := mnFiring 0 0 0
    let s := atMatrix f
    Runs s f ∧ Room s f (bareNiw .n32 (.o 1) .none .none .none) false := by unfold Runs Room; decide +kernel
/-- Rows of a node: zeroed, scaled, saved and restored, of instructions that a statement's `o` may be. -/
def rowOp (w : MnWork) : MnOp :=
  { id := 0, region := 1, ctx := 0, frame := 0, iter := 0, len := 1, pmask := 0, lmask := 1, opc := 0xC3, seqix := 0, slot := 0,
    cfg0 := cfgWords.getD 0 0, cfg1 := cfgWords.getD 1 0, work := w, rrw := 0 }
theorem witness_MatrixRows : let s := atMatrix (mnFiring 0 0 0)
    NoFills s ∧ (rowOp (.zero 0 1 0)).work = .zero 0 1 0 ∧ (rowOp (.scale 0 1 0 3)).work = .scale 0 1 0 3 ∧ (((s.matrix mn).accRow 0).length = 128) ∧
    (rowOp (.save 127 1 0 [[]] 0)).work = .save 127 1 0 [[]] 0 ∧ bit (s.matrix mn).apsn 127 = false ∧ Memory.wf s.mem = true ∧ 127 + 0 < 128 ∧
    s.stalled (s.mnPart (rowOp (.zero 0 1 0))) = false ∧ s.rowFull mn (rowOp (.rest 127 1 0 [[]] 0)) 0 = false ∧ (rowOp (.rest 127 1 0 [[]] 0)).work = .rest 127 1 0 [[]] 0 ∧
    (s.modPart 1 fun p => { p with budEn := true, lims := [0, 0, 0, 0, 3], uses := [0, 0, 0, 0, 3], stalled := true }).stalled (s.mnPart (rowOp (.save 127 1 0 [[]] 0))) = true := by
  unfold NoFills; decide +kernel

/-! ## Witnesses: Worklist Engine -/

/-- HIWM 4, LOWM 1, a ring of 1,024 entries; ports hold 64-bit values. -/
def wlWord : Word := BitVec.ofNat 64 (4 * 2 ^ 36 + 2 ^ 25 + 10 * 2 ^ 11)
def wlTill : Till := { cfg := wlWord, rbase := 65536, cfgd := true, hold := true, ldie := 9, lpkg := 9 }
def atTill (f : Firing) (t : Till) : State := { firingAt till f with tills := [(till, t)] }
theorem witness_WorklistConfiguration : let f := mnFiring wlWord (BitVec.ofNat 64 (2 ^ 62 + 65536)) 0
    let s := atTill f {}
    Runs s f ∧ f.tmask % 2 ^ f.len ≠ 0 ∧ s.region f.region = some (rg s) ∧ wlWordOk (low s f (abc .n64) .n64 0 (.p 0)).1 = true ∧
    wlRingOk (low s f (abc .n64) .n64 1 (.p 1)).1 = true ∧ bit (low s f (abc .n64) .n64 0 (.p 0)).1 16 = false ∧ (s.till till).openNow = false := by
  unfold Runs; decide +kernel
/-- A push of one lane to its own Till: the task is taken; and then no lane is left. -/
def pushNiw : Niw := bareNiw .n32 .none (.p 0) (.p 1) (.p 2)
theorem witness_PushesTasks : let f := mnFiring 9 5 6
    let s := atTill f wlTill
    let w := s.wlOpen f 0 0 false false
    let x : Task := { pri := 9, key := 5, pay := 6 }
    Runs s f ∧ (s.till till).cfgd = true ∧ (s.till till).term = false ∧ f.len ≤ 16 ∧
    (∀ l ∈ f.active .token, (s.readSel till f pushNiw .n32 0 (.p 0) l) = (9, false) ∧ (s.readSel till f pushNiw .n32 1 (.p 1) l) = (5, false) ∧
      (s.readSel till f pushNiw .n64 2 (.p 2) l) = (6, false)) ∧
    (f.active .token).find? (fun l => decide (f.part ≤ l)) = some 0 ∧ (w.1.pushTask (rg s) till till x w.2 true).2 = true ∧
    (s.till till).beyond x = false ∧ (s.till till).tasks.length < (s.till till).hiwm ∧
    (f.active .token).find? (fun l => decide (1 ≤ l)) = none := by unfold Runs; decide +kernel
theorem witness_PushesTasks_transfer : clusterNode 1 5 ≠ till ∧ (atTill (mnFiring 9 5 6) wlTill).transferCredit till (clusterNode 1 5) = true := by decide +kernel
/-- A zero-mask push, a push with a poisoned operand, and a task beyond the window, which goes to the ring. -/
theorem witness_PushesTasks_others : (let f := { mnFiring 9 5 6 with tmask := 0 }
      Runs (atTill f wlTill) f ∧ f.tmask % 2 ^ f.len = 0 ∧ (atTill f wlTill).region f.region = some (rg (atTill f wlTill))) ∧
    (let f : Firing := { mnFiring 9 5 6 with ports := (mnFiring 9 5 6).ports.map fun p => { p with poison := 1 } }
     let s := atTill f wlTill
     WlRuns s f (rg s) ∧ s.sinkMustWait f = false ∧ (pushLanes s f pushNiw).map (·.2.2) = [true]) ∧
    (let x : Task := { pri := 2 ^ 31, key := 0, pay := 0 }
     let s := mapped (atTill two wlTill)
     (s.till till).beyond x = true ∧ (s.ringWrite (rg s) till x).2 = true) := by unfold WlRuns Runs; decide +kernel
/-- WLPUSHB of two records from G-space 65,536: at its announcement, at its last record and behind it. -/
def pushB (opid part : Nat) : Firing := { mnFiring 0 2 0 with opid := opid, part := part }
theorem witness_PushesRecords : ∀ p ∈ [(0, 0), (1, 1), (1, 2)], let f := pushB p.1 p.2
    let s := mapped (atTill f wlTill)
    let n := bareNiw .n32 .none (.k 0) (.p 1) (.p 2)
    Runs s f ∧ f.addrConst (.k 0) = some (true, 65536) ∧ low s f n .n32 1 (.p 1) = (2, false) ∧ low s f n .n32 2 (.p 2) = (0, false) ∧
    s.stalled (rg s).part = false ∧ s.reach (rg s).part (65536 + 16 * (0 + f.part)) false = .inr (65536 + 16 * f.part, false) ∧
    (65536 + 16 * (0 + f.part)) % 16 = 0 := by unfold Runs; decide +kernel
/-- A zero-mask firing, a poisoned operand, a count of 0, and a record that has been read and waits. -/
theorem witness_PushesRecords_others : (let f := { pushB 0 0 with tmask := 0 }
      Runs (atTill f wlTill) f ∧ f.tmask % 2 ^ f.len = 0 ∧ (atTill f wlTill).region f.region = some (rg (atTill f wlTill))) ∧
    (let f : Firing := { pushB 0 0 with ports := (pushB 0 0).ports.map fun p => { p with poison := 1 } }
     let s := atTill f wlTill
     WlRuns s f (rg s) ∧ (s.till till).cfgd = true ∧ (s.till till).term = false ∧ s.sinkMustWait f = false ∧
     (low s f pushNiw .n32 1 (.p 1)).2 = true) ∧
    (let f := mnFiring 0 0 0
     let s := atTill f wlTill
     WlRuns s f (rg s) ∧ low s f pushNiw .n32 1 (.p 1) = (0, false) ∧ low s f pushNiw .n32 2 (.p 2) = (0, false)) ∧
    (let f := pushB 1 1
     let o : WlOp := { id := 1, region := 1, ctx := 0, frame := 0, iter := 0, rw := 0, left := 2, issued := false, poisoned := false, drain := false,
                       records := 1, record := some { pri := 1, key := 2, pay := 3 } }
     let s := atTill f { wlTill with ops := [o] }
     WlRuns s f (rg s) ∧ low s f pushNiw .n32 1 (.p 1) = (2, false) ∧
     ((s.till till).ops.find? fun o => o.id == f.opid).bind (·.record) = some { pri := 1, key := 2, pay := 3 }) := by
  unfold WlRuns Runs; decide +kernel
theorem witness_PushesRecords_task : let f := pushB 1 1
    let s := mapped (atTill f wlTill)
    (((s.readEvent (some 1) (lineOf 65552) false).pushTask (rg s) till till { pri := 0, key := 0, pay := 0 } 1 false).2) = true := by decide +kernel
/-- A pop source in context 0 of the Till, with one free frame and two tasks. -/
def popping : State :=
  { (firingAt till two).modCtx till 0 fun x => { x with niws := [0xE36FFFFF00000821], cw := BitVec.ofNat 64 (3 * 2 ^ 58 + 31 * 2 ^ 40 + 2 ^ 36) } with
    tills := [(till, { wlTill with tasks := [(0, { key := 1, pri := 2, pay := 3 }), (1, { key := 4, pri := 2, pay := 5 })], sources := [(0, { frames := [3] })] })] }
theorem witness_PopsBatches : ((List.range 8).map fun i => ((popping.till till).lastPop + 1 + i) % 8).find? (fun c => (popping.nextBatch till c).isSome) =
      some popping.cur.slot ∧ popping.cur.pos = till ∧ (popping.nextBatch till 0).map (fun b => (b.frame, b.run)) = some (3, 8) ∧
    popping.region (popping.regionOf till 0) = some (rg popping) := by decide +kernel
/-- WLDONE of iterations 2 and 3, the last two of a batch whose first two are covered. -/
theorem witness_WorklistProgress : let f : Firing := { two with frame := 3, iter := 2 }
    let b : Batch := { frame := 3, run := 4, fan := 1, bucket := 0, tasks := List.replicate 4 { key := 0, pri := 0, pay := 0 }, cov := 3 }
    let s := atTill f { wlTill with sources := [(0, { frames := [3], batches := [b] })] }
    Runs s f ∧ s.batchOf (rg s) f.frame = some (till, 0, b) ∧ (∀ i, i < 4 → 2 ≤ i → i < b.run ∧ bit b.cov i = false) ∧ f.iter + f.len = 4 ∧
    (s.till till).hold = true ∧ (s.till till).cfgd = true ∧ (s.till till).term = false ∧ Room s f (bareNiw .n32 (.o 0) .none .none .none) false ∧
    ((atTill f { wlTill with term := true }).till till).term = true := by unfold Runs Room; decide +kernel

/-! ## Witnesses: Link Engine -/

/-- Link node 0 with channel 0 open at offset 64 of the remote window, and window 3 of partition 1 on its port; region 1's pages are mapped. -/
def linkUp (c : Chan) (m : List Msg) : State :=
  { mapped (firingAt lk { two with consts := [BitVec.ofNat 64 (2 ^ 62 + 65536)] }) with
    links := [(0, { chans := [(0, c)], msgs := m, up := true })],
    windows := [(3, { en := true, part := 1, port := 0, gbase := 0x20000, len := 0x1000, rkey := 7 })] }
def linked : Firing := { two with consts := [BitVec.ofNat 64 (2 ^ 62 + 65536)] }
def openChan : Chan := { opened := true, base := 64 }
/-- LPUT and LGET of 64 bytes by both lanes. -/
def lputNiw : Niw := bareNiw (Ty.ofCode 0) .none (.k 0) .zero .zero
theorem witness_LinkMessages : let s := linkUp openChan []
    Runs s linked ∧ linked.opid = 0 ∧ linked.tmask % 2 ^ linked.len ≠ 0 ∧ s.region linked.region = some (rg s) ∧
    ((s.link 0).chan 0).opened = true ∧ s.sinkMustWait linked = false ∧ linked.addrConst (.k 0) = some (true, 65536) ∧
    s.pagesOf (rg s).part 65536 64 false = .inr [s.walk 1 65536] ∧ s.pagesOf (rg s).part 65536 64 true = .inr [s.walk 1 65536] ∧
    (65536 % 64 = 0 ∧ (((s.link 0).chan 0).cb : Int) + sx 0 32 = 64) ∧ s.linkWaits (rg s) 0 2 = false ∧ s.linkWaits (rg s) 0 1 = false ∧
    s.relWaits 0 = false ∧ s.relWaits 2 = false ∧ s.hurtFits (rg s).part [{ newMsg 0 0 0 64 65536 64 1 with xl := [s.walk 1 65536] }] = true := by
  unfold Runs; decide +kernel
/-- LPUTN of two elements, the last that fit below 2 to the 40. -/
theorem witness_LinkMessages_putn : let s := linkUp { openChan with base := BitVec.ofNat 64 (2 ^ 40 - 8) } []
    let n := bareNiw .n32 .none (.p 0) .zero .none
    (n.ty.isWide = true → linked.len ≤ 16) ∧ (s.readSel lk linked n .i32 1 .zero 0) = (0, false) ∧ bit n.imm.toNat 3 = false ∧
    (((s.link 0).chan 0).cb + linked.len * 4 = 2 ^ 40) ∧ (((s.link 0).chan 0).cb % 4 = 0) ∧ s.linkWaits (rg s) 0 1 = false := by decide +kernel
theorem witness_MessageNumbers : NoFills (linkUp openChan []) := by unfold NoFills; decide +kernel
theorem witness_LinkControl : ∀ k ∈ [openChan, {}], let s := linkUp k []
    Runs s linked ∧ s.region linked.region = some (rg s) ∧ linked.part = 0 ∧ ((s.link 0).outs 0 = 0) ∧ ((s.link 0).chan 0).closing = false ∧
    (s.win 3).en = true ∧ (s.win 3).part = (rg s).part ∧ (s.win 3).port = 0 ∧ (s.win 3).bound = false ∧ 5 ≤ ((rg s).frame linked.frame).s ∧
    Room s linked (bareNiw .n32 (.o 0) .none .none .none) false := by unfold Runs Room; decide +kernel
/-- LCHAN.OPEN with the words of the open channel, and with others. -/
theorem witness_LinkControl_open : ∀ k ∈ [1, 2], let b : Word := BitVec.ofNat 64 (64 * k)
    let f := mnFiring 0 b 0
    let s := { linkUp openChan [] with nodes := (firingAt lk f).nodes }
    Runs s f ∧ (s.readSel lk f (abc .n64) .n64 0 (.p 0) 0).1 = 0 ∧ (s.readSel lk f (abc .n64) .n64 1 (.p 1) 0).1 = b.toNat ∧ bits b.toNat 40 24 = 0 ∧
    b.toNat % 64 = 0 ∧ (((s.link 0).chan 0).base.toNat = b.toNat ↔ k = 1) := by unfold Runs; decide +kernel

/-- A packet of device 2 to window 3, of a kind, with its payload; alone in front of link node 0. -/
def request (kind len : Nat) (data : List Byte) : PktIn :=
  { port := 0, crossing := false, pkt := { data := data, hdr :=
    { kind := BitVec.ofNat 4 kind, trim := false, trims := 0, tc := 0, ddev := 0, sdev := 2, sport := 0, chan := 0, ord := false, msn := 0, dsn := 0,
      pidx := 0, npkm1 := 0, win := 3, rkey := 7, off := 0, tsite := 0, len := BitVec.ofNat 13 len, aop := 0, aty := 6, xtag := 0 } } }
def arriving (x : PktIn) (m : List Msg) : State := { linkUp openChan m with packets := [x] }
def dropped (x : PktIn) (m : List Msg) : State := { arriving x m with packets := [] }
/-- The state and the message in which a request's checks end. -/
def seen (x : PktIn) : State × RxMsg :=
  ((((dropped x []).rreqSeen 0 x.pkt.hdr).ownPacket x.pkt.hdr).rxOpen 0 x.pkt.hdr).getD (dropped x [], { msn := 1, dsn := 1, kind := 0, npk := 0, written := [], done := true, arrival := none, hdr := x.pkt.hdr })
theorem some_getD {α : Type} {o : Option α} {d : α} (h : o.isSome = true) : o = some (o.getD d) := by
  cases o <;> simp_all
theorem witness_Passes (x : PktIn) (h : x ∈ [request 0 64 (List.replicate 64 9), request 1 8 (List.replicate 8 0), request 2 64 [], request 4 16 (List.replicate 16 1)]) :
    Passes (arriving x []) x (seen x).1 (seen x).2 := by
  refine ⟨dropped x [], ⟨rfl, fun o h => absurd h (by simp [arriving, linkUp, mapped, firingAt]), rfl⟩, ?_, ?_⟩
  · have e : ((((dropped x []).rreqSeen 0 x.pkt.hdr).ownPacket x.pkt.hdr).rxOpen 0 x.pkt.hdr).isSome = true := by
      revert x; decide +kernel
    have p : x.port = 0 := by revert x; decide +kernel
    rw [p]; exact some_getD e
  · revert x; decide +kernel
/-- PUT writes its lines; GETQ reads them; ATOMQ's page can be written. -/
theorem witness_RequestsPerformed : let t := (seen (request 0 64 (List.replicate 64 9))).1
    (t.winWrite 1 (linePieces 0x20000 64) (List.replicate 64 9)).2 = none ∧
    (match (seen (request 2 64 [])).1.sendGetr 0 (request 2 64 []).pkt.hdr 0 with | .inr _ => true | .inl _ => false) = true ∧
    ((seen (request 4 16 (List.replicate 16 1))).1.walk 1 0x20000).fault t.dev true true 0x20000 = none ∧
    (seen (request 2 64 [])).1.winHurt 1 0x20000 64 = none ∧
    (seen (request 4 16 (List.replicate 16 1))).1.badLines.contains (lineOf (((seen (request 4 16 (List.replicate 16 1))).1.walk 1 0x20000).pa 0x20000)) = false := by
  decide +kernel
/-- PUTN of a run without an active lane writes nothing, whatever its NW. -/
theorem witness_RequestsPerformed_putn : let x := request 1 8 (List.replicate 8 0)
    ((seen x).1.win 3).arrivals.length < arrivalMax ∧ x.pkt.hdr.ord = false ∧
    (if nwOf x.pkt.hdr then [] else (arrivalOf x.pkt.data).writes) = [] := by
  have h : (arrivalOf (request 1 8 (List.replicate 8 0)).pkt.data).writes = [] := by decide +kernel
  refine ⟨by decide +kernel, by decide +kernel, ?_⟩
  rw [h]; split <;> rfl
/-- LINK_CLOSE without a record, and with one. -/
theorem witness_LinkClose : let x := request 9 0 []
    (((dropped x []).link 0).recOf x.pkt.hdr) = none ∧
    (({ (dropped x []).link 0 with recs := [{ sdev := 2, sport := 0, chan := 0 }] } : LinkNode).recOf x.pkt.hdr) ≠ none := by decide +kernel
/-- A message of 64 bytes that waits for its answer from device 2. -/
def message (kind : Nat) : Msg := { newMsg 0 kind 0 0 65536 64 1 with id := 1, op := 1, ddev := 2, win := 3, rkey := 7, npk := 1, region := 1 }
theorem witness_Answers (kind : Nat) (h : kind ∈ [3, 5, 6, 7, 8]) : let x := request kind 64 (List.replicate 64 1)
    Answers (arriving x [message (if kind = 3 then 2 else 0)]) x
      ((dropped x [message (if kind = 3 then 2 else 0)]).modMsg 0 1 fun m => { m with last := (arriving x [message (if kind = 3 then 2 else 0)]).cyc })
      (message (if kind = 3 then 2 else 0)) := by
  refine ⟨dropped _ _, ⟨rfl, fun o h => absurd h (by simp [arriving, linkUp, mapped, firingAt]), rfl⟩, ?_, rfl⟩
  revert kind; decide +kernel
theorem witness_AnswersComplete : let x := request 8 64 []
    let s := dropped x [message 0]
    s.region (message 0).region = some (rg s) ∧ s.canPost (rg s).part = true ∧ s.rreqOfPut x.pkt.hdr = true ∧ s.hurtFits (message 0).part [message 0] = true ∧ x.pkt.hdr.aop.toNat ≠ 6 ∧
    x.pkt.hdr.trims.toNat + 1 ≠ 8 ∧ (request 3 64 []).pkt.hdr.kind.toNat = 3 ∧
    (((dropped (request 3 64 []) [message 2]).rreqSeen 0 (request 3 64 []).pkt.hdr).link 0).msgOf (request 3 64 []).pkt.hdr = some (message 2) ∧
    ((linkUp { openChan with closing := true } []).link 0).chan 0 = { openChan with closing := true } := by decide +kernel

/-! ## Witnesses: Sequencer, queues, strobes -/

/-- The control stream of region 1 executes. -/
def controlling (g : Region → Region) : State := withRegion1 (fun r => { g r with ccws := [0, 0] }) |> fun s => { s with cur := { pos := ce, region := 1 } }
/-- Block 0 resident with its counter 0 idle, and a frame granted to it. -/
def resident (r : Region) : Region := { r with blks := [(0, { resident := true })], granted := some (0, 1) }
theorem witness_ControlRuns : let s := controlling resident
    s.region s.cur.region = some (rg s) ∧ ((rg s).blk 0).resident = true ∧ ((rg s).blk 0).draining = false ∧ ((rg s).ics.getD 0 {}).act = false ∧
    (rg s).granted = some (0, 1) ∧ (rg s).ics.length = 4 ∧ (rg s).trips.length = 4 ∧
    ((rg s).trips.getD 0 0 + 1) % 2 ^ 16 < 2 ∧ 1 ≤ ((rg s).trips.getD 0 0 + 1) % 2 ^ 16 := by decide +kernel
/-- A counter that is active, and one whose RUN asks for a frame; a block that drains, and one that is not resident and that waits for its turn. -/
theorem witness_ControlRuns_others : let s := controlling fun r =>
      { resident r with granted := none, ics := [{ act := true }, {}, {}, {}], blks := [(0, { resident := true }), (1, { resident := true, draining := true })] }
    s.region s.cur.region = some (rg s) ∧ ((rg s).ics.getD 0 {}).act = true ∧ ((rg s).ics.getD 1 {}).act = false ∧ (rg s).granted = none ∧
    (rg s).requests = [] ∧ ((rg s).blk 0).resident = true ∧ ((rg s).blk 0).draining = false ∧ ((rg s).blk 1).resident = true ∧
    ((rg s).blk 1).draining = true ∧ ((rg s).blk 2).resident = false := by decide +kernel
/-- Every wait, when it holds and when it does not; WAITS.TOK at its count and one above it. -/
theorem witness_ControlWaits : let s := controlling fun r => { resident r with tokc := 2, frames := [], ics := [{ act := true }, {}, {}, {}] }
    let q := controlling fun r => { r with frames := [] }
    s.region s.cur.region = some (rg s) ∧ ((rg s).blk 0).resident = true ∧ ((rg s).blk 1).resident = false ∧ ((rg s).ics.getD 0 {}).act = true ∧
    ((rg s).ics.getD 1 {}).act = false ∧ 2 ≤ (rg s).tokc ∧ (rg s).tokc < 3 ∧ s.quiescent (rg s) = false ∧ q.region q.cur.region = some (rg q) ∧
    q.quiescent (rg q) = true := by decide +kernel
theorem witness_ControlSlotAndHalt : let s := controlling resident
    let h : State := s.modRegion 1 fun q => { q with sched := none, stat := 5 }
    let b := controlling fun r => { resident r with ics := [{ act := true }, {}, {}, {}] }
    let u := controlling fun r => { resident r with slotSent := true }
    (rg s).slotSent = false ∧ (∀ c ∈ (rg s).allNodes, ∀ x ∈ (s.node c).ctxs, x.ofBlock (rg s).id 0 = true → x.slotm 2 = false) ∧
    (rg u).slotSent = true ∧ ((rg u).blk 0).patching = [] ∧
    ((rg s).ics.any (·.act) || ((rg s).residents.any fun b => h.armed (rg s) b) || h.linkBusy (rg s)) = false ∧
    (rg b).ics.any (·.act) = true := by decide +kernel
/-- SLOT where a context of the block reads slot 2 from the slot table, and where its node has still to acknowledge. -/
theorem witness_ControlSlotAndHalt_patches : let s := (controlling resident).modCtx ce 0 fun x => { x with owner := some owner1, cw := 2 ^ 6 }
    let w := controlling fun r => { r with slotSent := true, blks := [(0, { resident := true, patching := [ce] })] }
    (rg s).slotSent = false ∧ ((rg s).allNodes.filter fun c => (s.node c).ctxs.any fun x => x.slotm 2 && x.ofBlock (rg s).id 0) ≠ [] ∧
    (rg w).slotSent = true ∧ ((rg w).blk 0).patching ≠ [] := by decide +kernel

/-- A command at the head of queue 0, which partition 1 owns, as it owns notify register 12. -/
def cmd (w2 w3 : Word) : Cmd := { cen := true, cnfy := 12, lid := 0x21, cval := 5, w2 := w2, w3 := w3, w4 := 0, w5 := 0, w6 := 0, w7 := 0 }
def queued (g : Region → Region) : State :=
  { withRegion1 g with queues := [(0, { en := true, owner := 1, fifo := [[0]] })], notify := [(12, { owner := 1, value := 4 })] }
theorem witness_Starts : Starts (queued id) (cmd 12 4) ∧ (cmd 12 4).cen = true := by unfold Starts; decide +kernel
/-- WAIT at the register's value; the first command; ABORT and SNAPSHOT of a launch that runs, and of one that waits. -/
theorem witness_QueueCommands : let s := queued fun r => { r with lid := 0x21 }
    s.ownsNfy 1 ((cmd 12 4).w2.toNat % 256) = true ∧ ¬ (s.nfy 12).value < (cmd 12 4).w3 ∧ (s.queue 0).started.all (·.done) = true ∧
    s.launchOf 1 0x21 = some (rg s) ∧ (rg s).waiting = false ∧
    (rg (queued fun r => { r with lid := 0x21, waiting := true })).waiting = true := by decide +kernel
/-- RESUME and DISCARD of an open record, in a region under a cut and in one that is not. -/
theorem witness_QueueCommands_answers : ∀ cut ∈ [none, some (.freeze true)], let s := (queued fun r => { r with cut := cut }).modPart 1 fun p => { p with opens := [record1 .firing] }
    s.openRec 1 0 = some (record1 .firing) ∧ s.region 1 = some (rg s) ∧ (rg s).aborting = false ∧ (rg s).cut = cut ∧ resumeOk (cmd 0 1) = true ∧
    s.accepts (record1 .firing) 1 = true := by decide +kernel

/-- A code object at 65,536: one block of one node, a counter source without words, and a control stream of HALT (R91 to R94). -/
def objectWords : List Word :=
  [0x424B4F5901200000, 0x0404040400000000, 0x0000010000000001, 0x0000004000000040, 0x0000004000000060, 0x0000004000000000, 0x0000004000000000,
   0x0000006800000040, 0x0000005000010000, 0x0000001000000000, 2, 0xC00000000000000, 0xF700000000000000]
/-- Memory that holds words from an address on, behind the page table. -/
def holding (s : State) (l : List (Nat × List Byte)) : State :=
  let s := mapped s
  { s with mem := s.mem ++ l.flatMap fun x => (x.2.zipIdx.filter fun b => b.1 != 0).map fun b => (x.1 + b.2, b.1) }
def objectBytes : List Byte := objectWords.flatMap wordBytes
/-- LAUNCH reads the object. -/
theorem witness_QueueCommands_launch : let s := holding (queued id) [(65536, objectBytes)]
    s.asked 0 = false ∧ s.launchOf 1 0x21 = none ∧
    (match s.readObject (s.newLaunch (cmd 65536 0x0101000000000000) 0 1) with | .inr _ => true | .inl _ => false) = true := by decide +kernel

/-- The SHA-256 digests of the area's body and of the object, worked out outside the model. -/
def bodyDigest : List Word := [0xAE2AEA54EDE63EF1, 0x6EDAB5AE9F9AC49F, 0x0DD3D52EE1F0DE8D, 0x85043E81AE24A635]
def objectDigest : List Word :=
  [0xBC1EB7F2A68BC47E, 0xF3E11815C3BC29AB, 0x528A5FA23DF72391, 0x8798C0D39E827525]
/-- A saved launch of that object, and its area at 131,072: the header of R464 with both digests, and a body of 8 bytes. -/
def savedOne : Saved :=
  { serial := 5, part := 1, save := 131072, digest := bodyDigest.flatMap wordBytes, region := oneRegion 1, nodes := [], stores := [], clusters := [], mes := [],
    copies := [], matrices := [], tills := [], clearing := {}, transfers := [], images := [], opens := [], chans := [], windows := [] }
def areaBytes : List Byte :=
  ([BitVec.ofNat 64 (0x59524b45 * 2 ^ 32 + 2 ^ 24), BitVec.ofNat 64 (2 ^ 28 + 2 ^ 14 + 2 ^ 6), 65536, 136, 136, 0, 0, 0] ++ bodyDigest ++ objectDigest ++ [5]).flatMap wordBytes
/-- RESTORE passes its checks. -/
theorem witness_QueueCommands_restore : let s : State := { holding (queued id) [(65536, objectBytes), (131072, areaBytes)] with saved := [savedOne] }
    s.asked 0 = false ∧ s.launchOf 1 0x21 = none ∧
    (match s.restoreRequest (cmd 131072 0) 0 1 with | .inr _ => true | .inl _ => false) = true := by decide +kernel

/-- The strobe at place 0, of a region 1, with its argument. -/
def strobing (src dst : Peer) (a : BitVec 48) : State :=
  { firingAt ce two with strobes := [{ src := src, dst := dst, region := 1, word := 0 }], cur := { pos := ce, region := 1, arg := .strobe a } }
theorem witness_Strobes (src dst : Peer) (a : BitVec 48) :
    Strobes (strobing src dst a) { src := src, dst := dst, region := 1, word := 0 } a.toNat { strobing src dst a with strobes := [] } :=
  ⟨rfl, ⟨a, rfl, rfl⟩, fun o h => absurd h (by simp [strobing]), rfl⟩
/-- CLOSE with no token on its way into block 0, and with one. -/
theorem witness_TeardownStrobes : let s := strobing (.anchor 1) (.node ce) 0
    let tok : Token := { kind := .value, dst := ce, ctx := 0, port := 0, frame := 0, iter := 0, len := 1, aux := 0, mask := 1, poison := 0, wide := false, lanes := [1] }
    s.region 1 = some (rg s) ∧ s.wireInto 1 0 = false ∧ ({ s with wire := [{ tok := tok, region := 1, credit := true }] } : State).wireInto 1 0 = true ∧
    Strobe.from? { src := .node me, dst := .anchor 1, region := 1, word := 0 } = some me := by decide +kernel
/-- A routing word to port 1 of the Memory Element beside node `ce`, on edge 5, which 3 tokens have left on. -/
def edge : RWord :=
  { obj := BitVec.ofNat 64 (2 ^ 41 + 5 * 2 ^ 28 + 2 ^ 12 + 2 ^ 11), res := BitVec.ofNat 64 (2 ^ 54 + 2 ^ 14), closed := false, sent := [3] }
/-- CUT where the node has nothing left to perform and where a firing still runs; NOTICE of that edge. -/
theorem witness_NoticeStrobes : let s := strobing (.anchor 1) (.node nu) 0
    let cutting (r : Region) : Region := { r with cut := some (.freeze false) }
    let t : State := { firingAt ce { two with words := [0x000FFFFF00000000] } cutting with cur := { pos := ce, region := 1, arg := .strobe 0 } }
    let u := s.modCtx ce 0 fun x => { x with rws := [edge] }
    (rg s).cut = none ∧ (rg t).cut ≠ none ∧ (t.cutHere (rg t) nu).cutReady (rg t) nu = true ∧ (t.cutHere (rg t) ce).cutReady (rg t) ce = false ∧
    ((u.outEdges (rg u) ce).find? fun e => e.1.edge == 5 && e.2.1 == me && e.1.ctx == 0 && e.2.2 == 3) = some (edge, me, 3) := by decide +kernel

/-! ## Witnesses: tokens, markers, counters, frames -/

/-- The event of a step: its node and its numbers. -/
def evAt (pos : Coord) (i j : Nat) (v : Nat := 0) (data : List Byte := []) : Ev :=
  { pos := pos, i := BitVec.ofNat 32 i, j := BitVec.ofNat 32 j, v := BitVec.ofNat 64 v, data := data }
/-- The step acts on an event. -/
def eventing (e : Ev) (s : State) : State := { s with cur := { pos := mkCoord 0 0 0, arg := .ev e } }
theorem witness_At (e : Ev) (s : State) : At (eventing e s) e := rfl

/-- It travels alone towards a context whose CW is `cw`, in region 1. -/
def travelling (t : Token) (cw : Nat) : State :=
  eventing (evAt t.dst 0 0) { (firingAt t.dst two).modCtx t.dst 0 (fun x => { x with cw := BitVec.ofNat 64 cw }) with
    wire := [{ tok := t, region := 1, credit := true }] }
/-- Exact mode on ports 0 and 1; mode any-one; a marker; a scale token at a Matrix Node and at another node; the Sequencer's port. -/
theorem witness_Lands : ∀ t ∈ [tok .value ce, tok .receipt ce, tok .marker ce, tok .scale mn, tok .scale nu, tok .value till 3],
    ∀ cw ∈ [3 * 2 ^ 60, 2 * 2 ^ 58 + 3 * 2 ^ 60], let s := travelling t cw
    Lands s (evAt t.dst 0 0) { tok := t, region := 1, credit := true } := by unfold Lands At; decide +kernel
def pieceOf (t : Token) : Piece := { tok := t, arr := 4, buf := .chit }
/-- The state behind the arrival at port 1, in exact mode (0) or run-overlap mode (1), where port 0 holds `t`. -/
def meeting (mode : Nat) (t : List Token) : State :=
  let s := (travelling (tok .value ce) (mode * 2 ^ 58 + 3 * 2 ^ 60)).modStore ce fun y => { y with entries := t.map pieceOf }
  (s.landed 0 { tok := tok .value ce, region := 1, credit := true }).1
/-- Exact mode with its one partner present; run-overlap mode with no iteration covered, and with the second one covered. -/
theorem witness_TokensArrive_partners : let p := tok .value ce 0
    let q : Token := { p with iter := 1 }
    (∀ m ∈ [0, 1], ((meeting m []).ctx ce 0).mode = m ∧ ((meeting m []).ctx ce 0).reqPorts.filter (· != 1) = [0] ∧
      (meeting m [p]).parkSeen (clusterOf ce) 1 0 = false ∧ (meeting m [p]).cutAt ce 0 = false) ∧
    ((meeting 0 [p]).candidates ce ce 0 0 0).find? (fun x => x.tok.iter == 0) = some (pieceOf p) ∧
    (∀ i < 2, ((meeting 1 []).candidates ce ce 0 0 0).find? (fun x => decide (x.tok.iter ≤ i ∧ i < x.tok.iter + x.tok.len)) = none) ∧
    ((meeting 1 [q]).candidates ce ce 0 0 0).find? (fun x => decide (x.tok.iter ≤ 0 ∧ 0 < x.tok.iter + x.tok.len)) = none ∧
    ((meeting 1 [q]).candidates ce ce 0 0 0).find? (fun x => decide (x.tok.iter ≤ 1 ∧ 1 < x.tok.iter + x.tok.len)) = some (pieceOf q) := by decide +kernel
/-- A held scale token of the tag: the next takes its place. -/
def scaled : State := (travelling (tok .scale nu) 0).modStore nu fun y => { y with scales := [{ tok := tok .scale nu }] }
theorem witness_TokensArrive : let s := travelling (tok .value ce) (3 * 2 ^ 60)
    let b := (s.landed 0 { tok := tok .value ce, region := 1, credit := true }).1
    b.parkSeen (clusterOf ce) 1 0 = false ∧ b.cutAt ce 0 = false ∧ (b.ctx ce 0).mode = 0 ∧
    (∃ q ∈ (b.ctx ce 0).reqPorts, q ≠ 1 ∧ ∀ p ∈ b.candidates ce ce 0 0 q, p.tok.iter ≠ 0) ∧
    ((travelling (tok .value ce) (2 * 2 ^ 58 + 3 * 2 ^ 60)).ctx ce 0).mode = 2 ∧
    (b.modCluster (clusterOf ce) fun x => { x with parkSeen := [(1, 0)] }).parkSeen (clusterOf ce) 1 0 = true ∧
    kindOf mn = .mn ∧ kindOf nu ≠ .mn ∧ isSeqPort till 3 = true ∧ isSeqPort ce 1 = false ∧
    (scaled.store nu).scales.findIdx? (fun h => h.into.isNone && sameTag h.tok (tok .scale nu)) = some 0 ∧
    (scaled.store nu).scales.length = 1 ∧ ((scaled.store nu).scales.getD 0 { tok := tok .scale nu }).arr ≤ (scaled.landed 0 { tok := tok .scale nu, region := 1, credit := true }).2.arr ∧ scaled.sharedFree nu = true ∧ b.sharedFree ce = true := by decide +kernel

/-- A marker waits at port 0 of the node, the one port that it requires. -/
def passing : State :=
  eventing (evAt ce 0 0) (((withRegion1 id).modCtx ce 0 fun x => { x with owner := some owner1, cw := BitVec.ofNat 64 (2 ^ 60 + 2 ^ 58) }).modStore ce
    fun y => { y with entries := [pieceOf (tok .marker ce 0)] })
theorem witness_TokensGoOn_marker : (passing.ctx ce 0).reqPorts.map (fun p => passing.markerAt ce 0 p 0) = [some (pieceOf (tok .marker ce 0))] ∧
    passing.scaleWaits ce 0 0 0 4 = false ∧ (∀ p ∈ passing.waiting ce 0 0 0, p.arr < 4 → p.tok.kind = .marker) ∧ passing.firingOf ce 0 0 = false ∧
    (∀ o ∈ passing.ops, ¬ (o.pos = ce ∧ o.ctx = 0 ∧ o.frame = 0)) ∧ passing.cutAt ce 0 = false ∧
    (passing.matrix ce).sends 0 0 = false ∧
    passing.roomMany ce 0 ((passing.ctx ce 0).outPorts.map fun o => (o, 1)) = true := by decide +kernel
/-- Tokens in the Vault, in the spill map, in the overflow register and in the Chits. -/
def stashed : Stashed := { store := ce, piece := pieceOf (tok .value ce) }
theorem witness_TokensGoOn_stashed : let s := eventing (evAt ce 0 0) ((firingAt ce two).modCluster 0 fun c => { c with vault := [stashed], spill := [] })
    let p := eventing (evAt ce 0 0) ((firingAt ce two).modCluster 0 fun c => { c with spill := [stashed] })
    let o := eventing (evAt ce 0 0) ((firingAt ce two).modStore ce fun y => { y with overflow := [stashed.piece] })
    let h := eventing (evAt ce 0 0) ((firingAt ce two).modStore ce fun y => { y with held := [stashed.piece] })
    (s.cluster 0).vault[0]? = some stashed ∧ (s.store ce).entries.length < storeSize ce ∧ (s.cluster 0).shared < sharedMax ∧
    (∀ w ∈ (s.cluster 0).vault ++ (s.cluster 0).spill, ¬ (w.store = ce ∧ w.piece.arr < stashed.piece.arr)) ∧
    (p.cluster 0).spill[0]? = some stashed ∧ (p.cluster 0).vault.length < vaultMax ∧
    (∀ w ∈ (p.cluster 0).spill, ¬ (w.store = ce ∧ w.piece.arr < stashed.piece.arr)) ∧
    s.sharedFree stashed.piece.tok.dst = true ∧ stashed.piece.tok.kind ≠ .scale ∧ stashed.piece.tok.kind ≠ .marker ∧
    (o.store ce).overflow = [stashed.piece] ∧ ¬ storeSize ce ≤ (o.store ce).entries.length ∧
    (h.store ce).overflow = [] ∧ (h.store ce).held = [stashed.piece] ∧ h.cutAt ce 0 = false := by decide +kernel
/-- An admitted firing whose word passes its check, and one whose second word fails it. -/
def admitted (w : Word) : State :=
  eventing (evAt ce 0 0) ((firingAt ce two).modNode ce fun n => { n with slots := [], admitted := [{ two with words := [0x000FFFFF00000000, w] }] })
/-- A scale token kept in its Chit, which a shared buffer can take. -/
theorem witness_TokensGoOn_scale : let p := pieceOf (tok .scale nu)
    let s := eventing (evAt nu 0 0) ((firingAt nu two).modStore nu fun y => { y with held := [p] })
    (s.store nu).overflow = [] ∧ (s.store nu).held = [p] ∧ p.tok.kind = .scale ∧ s.cutAt nu 0 = false ∧ s.sharedFree nu = true := by decide +kernel
theorem witness_TokensGoOn_entry : ∀ w ∈ [0x000FFFFF00000000, 0xBC], let s := admitted (BitVec.ofNat 64 w)
    let f : Firing := { two with words := [0x000FFFFF00000000, BitVec.ofNat 64 w] }
    s.freeSlots ce = [0, 1, 2, 3] ∧ s.images = [] ∧ s.chooseFiring ce false = some 0 ∧ (s.node ce).admitted[0]? = some f ∧ s.cutAt ce f.ctx = false ∧
    f.skipAll = false ∧ f.entry = 0 ∧ f.ix < f.words.length ∧ (s.ctx ce f.ctx).firstBad ce f.words = if w = 0xBC then some 1 else none := by decide +kernel
/-- A queued token that may depart along `edge`, which holds a credit. -/
def departing : OutTok := { rw := 0, ctx := 0, tok := tok .value me, todo := [0], uncredited := false, reply := false, prepaid := true, tap := [] }
theorem witness_TokensGoOn_depart : let s := eventing (evAt ce 0 0) ((firingAt ce two).modCtx ce 0 fun x => { x with rws := [edge] })
    let s := s.modNode ce fun n => { n with outq := [departing] }
    (s.node ce).outq[0]? = some departing ∧ 0 ∈ departing.todo ∧ s.noticedAt ce 0 = false ∧ s.mayDepart ce departing 0 = true ∧
    (∀ p ∈ (s.node ce).outq.take 0, ¬ (p.ctx = departing.ctx ∧ p.rw = departing.rw ∧ 0 ∈ p.todo)) := by decide +kernel

/-- A counter source before its last run, and behind it. -/
def counting (next : Nat) : State :=
  eventing (evAt ce 0 0) ((withRegion1 id).modCtx ce 0 fun x => { x with owner := some owner1, cw := BitVec.ofNat 64 (3 * 2 ^ 58 + 31 * 2 ^ 40), source := some { ic := 0, frame := 0, count := 40, next := next, closing := false } })
theorem witness_CountersAndFrames : ∀ k ∈ [0, 32, 40], let s := counting k
    ((s.ctx ce 0).source.map fun c => (c.count, c.next)) = some (40, k) ∧ (s.ctx ce 0).owner = some owner1 ∧ s.region 1 = some (rg s) ∧ (s.node ce).cut = false ∧
    (rg s).stopped = false ∧ s.stalled (rg s).part = false ∧ ((rg s).frame 0).parked = false ∧ s.firingOf ce 0 0 = false ∧
    (s.matrix ce).sends 0 0 = false ∧ s.roomMany ce 0 ((s.ctx ce 0).outPorts.map fun o => (o, 1)) = true := by decide +kernel
/-- The Mint: RUN's request and a pop source's at the head of its order, with a frame to spare. -/
theorem witness_CountersAndFrames_mint : ∀ q ∈ [[MintReq.run 0 0], [MintReq.pop ce 0]],
    let s := eventing (evAt ce 1 0) (firingAt ce two fun r => { fourFrames r with requests := q })
    s.region 1 = some (rg s) ∧ (rg s).requests = q ∧ (rg s).liveFrames < (rg s).budget ∧ (((rg s).grant 0).map (·.2)) = some 1 ∧
    (s.ctx ce 0).owner = some owner1 := by decide +kernel
/-- A retiring frame with nothing left, and one with two unclaimed A FIFO entries. -/
def retiring (k : Nat) : State :=
  let e : FifoEntry := { region := 1, frame := 0, tile := [] }
  eventing (evAt ce 1 0) ((withRegion1 fun r => { r with frames := [(0, { state := 2, s := 12, tcnt := k })] }).modCopy cp fun y =>
    { y with fifo := List.replicate k e })
theorem witness_CountersAndFrames_return : ∀ k ∈ [0, 2], let s := retiring k
    s.region 1 = some (rg s) ∧ ((rg s).frame 0).state = 2 ∧ ((rg s).frame 0).parked = false ∧ ((rg s).frame 0).tcnt = k ∧
    (k = 0 → ((rg s).frame 0).tcnt ≤ s.looseScales (rg s) 0 ∧ s.frameBusy (rg s) 0 = false) ∧
    (((rg s).clusters.map fun g => clusterNode g 4).foldl (fun n c => n + s.fifoOf c (rg s).id 0) 0) = k := by decide +kernel
theorem witness_CountersAndFrames_depth : let s := eventing (evAt ce 0 1) ((firingAt ce two).modCtx ce 0 fun x => { x with depth := [(1, 6, 0, 0, 0)] })
    ((s.ctx ce 0).depth.filter fun y => y.1 == 1) = [(1, 6, 0, 0, 0)] ∧ s.edgeTokens ce 0 1 = false ∧ (s.ctx ce 0).used.getD 1 0 = 0 := by decide +kernel

/-! ## Witnesses: memory -/

/-- An operation of the Memory Element with one event on one lane, in a device page. -/
def oneReq : LineReq := { line := 0x2000, lanes := [(0, 0x100000)], dev := true }
def oneOp (k : OpKind) : Op :=
  { id := 1, kind := k, pos := me, region := 1, ctx := 0, frame := 0, iter := 0, len := 1, base := 0, mask := 1, ty := .n32, reply := 1, receipt := 5,
    niw := some atomicNiw, todo := [oneReq], args := [(0, 1, 0)] }
def operating (o : Op) : State := eventing (evAt me 0 0) { firingAt me two with ops := [o] }
/-- A walk; an idle and a draining entry at 1,024 cycles; a fill; a load, an HSEQ, write-backs and an atomic; a full reply; a performed operation. -/
theorem witness_MemoryActs : let w : Walk := { pos := me, slot := 0, part := 1, va := 65536, stream := none, region := 1 }
    let s := eventing (evAt me 0 0) { firingAt me two with walks := [w] }
    let b := eventing (evAt me 0 0) { (firingAt me two).modCluster 0 (fun c => { c with wb := [waitingEntry] }) with cyc := 1024 }
    let d := eventing (evAt me 0 0) ((firingAt me two).modCluster 0 fun c => { c with wb := [{ waitingEntry with draining := true }] })
    s.walks[0]? = some w ∧ ((s.walks.take 0).filter fun v => clusterOf v.pos == clusterOf w.pos).length < 4 ∧
    (b.cluster 0).wb[0]? = some waitingEntry ∧ waitingEntry.draining = false ∧ waitingEntry.last + 1024 ≤ b.cyc ∧
    (d.cluster 0).wb[0]? = some { waitingEntry with draining := true } ∧ (∀ v ∈ (d.cluster 0).wb.take 0, v.line ≠ waitingEntry.line) ∧
    (∀ o ∈ d.ops, ∀ q ∈ o.todo, q.line = waitingEntry.line → q.filling = false) ∧ Memory.wf d.mem = true := by decide +kernel
theorem witness_MemoryActs_ops : ∀ k ∈ [OpKind.load, .hseq, .writeBack false, .writeBack true, .atomic 0xd0], let s := operating (oneOp k)
    s.ops[0]? = some (oneOp k) ∧ (oneOp k).todo[0]? = some oneReq ∧ (oneOp k).waits = [] ∧ s.lineHeld 1 oneReq = false ∧
    s.cacheable oneReq.line oneReq.dev = false ∧ (evAt me 0 0).v.toNat ≠ 2 ∧ oneReq.line ∉ s.badLines ∧ (oneOp k).niw = some atomicNiw ∧ (oneOp k).eccs = [] := by decide +kernel
/-- An operation that owes a record. -/
theorem witness_MemoryActs_owes : let o := { oneOp .load with eccs := [65536] }
    (operating o).ops[0]? = some o ∧ (operating o).region o.region = some (rg (operating o)) ∧ (operating o).canPost (rg (operating o)).part = true := by
  decide +kernel
theorem witness_MemoryActs_ends : let f := operating { oneOp .load with todo := [{ oneReq with filling := true, dev := false }] }
    let r := operating { oneOp .load with todo := [], receipt := 0 }
    let p := operating { oneOp .store with todo := [], reply := 0 }
    (f.ops[0]?.map fun o => o.todo[0]?.map (·.filling)) = some (some true) ∧ f.cached oneReq.line = false ∧
    (r.ops[0]?.map fun o => (o.reply, o.todo, o.waits)) = some (1, [], []) ∧ (p.ops[0]?.map fun o => (o.receipt, o.performed)) = some (5, true) := by decide +kernel

/-! ## Witnesses: engines -/

/-- A running instance of a card at the Copy Engine, with the address space mapped or not. -/
def jobFor (opc ty dst xarg : Nat) : Job := { job1 with card := cardFor opc ty dst xarg, opc := opc }
def copyStep (m : Bool) (j : Job) : State :=
  let s := eventing (evAt cp 7 0) (withRegion1 fun r => { fourFrames r with hdr := [0, BitVec.ofNat 64 (0x0404 * 2 ^ 48), BitVec.ofNat 64 (2 ^ 40 + 256 * 2 ^ 47)] })
  let s := if m then mapped s else s
  (s.modCtx cp 0 fun x => { x with owner := some owner1 }).modCopy cp fun y => { y with jobs := [j] }
/-- The instance starts; it has pieces, or none. -/
theorem witness_CopyEngineActs_start : ∀ j ∈ [job1, jobFor 0xBB 0 0 0], let s := copyStep true j
    (s.copy cp).freeSlot = some 0 ∧
    ((s.copy cp).jobs.findSome? fun j => (s.region j.region).bind fun r =>
      if s.eligible cp r j && s.engineGoes cp r && (j.c.pieces == 0 || ((s.copy cp).freeSlot.isSome && !s.stalled r.part)) then some (r, j)
      else none) = some (rg s, j) := by decide +kernel
/-- Pieces of CPY, CPYM, CPYA and CPYB that can be performed, and one of CPY that faults. -/
def runs (j : Job) : Job := { j with running := true }
def performs {α : Type} (x : Sum LocFault α) : Bool := match x with | .inr _ => true | .inl _ => false
theorem witness_CopyEngineActs : let c := runs job1
    let m := runs (jobFor 0xB3 6 0 1)
    let a := runs (jobFor 0xB6 12 (2 ^ 63) 0)
    let b := runs (jobFor 0xB7 12 (2 ^ 63) 0)
    (∀ j ∈ [c, m, a, b], let s := copyStep true j
      ((s.copy cp).jobs.find? fun j => j.id == (evAt cp 7 0).i.toNat && j.running) = some j ∧ j.due = none ∧ s.region j.region = some (rg s) ∧ s.engineGoes cp (rg s) = true) ∧
    performs ((copyStep true c).pieceOf cp (rg (copyStep true c)) c) = true ∧ performs ((copyStep false c).pieceOf cp (rg (copyStep false c)) c) = false ∧
    m.mcastFails (rg (copyStep true m)) = [] ∧ performs ((copyStep true m).pieceOf cp (rg (copyStep true m)) m) = true ∧
    (∀ j ∈ [a, b], performs ((copyStep true j).tileIn (rg (copyStep true j)) j) = true) ∧
    m.lastMcast = true ∧ (copyStep true m).canPost 1 = true ∧ (∀ j ∈ [c, m, a, b], (copyStep true j).hurtWaits (rg (copyStep true j)) none = false) ∧ a.c.opc = 0xb6 ∧ b.c.opc = 0xb7 ∧ m.c.opc = 0xb3 ∧ c.c.opc = 0xb0 ∧ ((copyStep true a).copy cp).fifo.length < fifoMax ∧
    (((copyStep true b).matrices.get {} mn).bufs.getD (b2n (bit b.c.opt 0)) {}).st = 0 := by decide +kernel

/-- A Matrix Node with a checked buffer and a run from the FIFO or a port, whose next tile is `t`. -/
def running (w : MnWork) (t : List Word) : State :=
  ((eventing (evAt mn 0 0) (atMatrix (mnFiring 0 0 0))).modMatrix mn fun m =>
    { m with ops := [rowOp w], bufs := [{ st := 2, chk := 16, tyb := 12 }, {}] }).modCopy cp fun y => { y with fifo := [{ region := 1, frame := 0, tile := t }] }
def badTile : List Word := [1, 0, 0, 0]
theorem witness_MatrixNodeActs_rows : let i : PortIn := { port := 0, wide := false, lanes := [], mask := 0, poison := 0, scales := [], arr := 0, buf := .vault }
    (∀ t ∈ [zfTile, badTile], let s := running (.run none false false 0 4 3 3) t
      (s.matrix mn).ops.find? (s.rowReady mn) = some (rowOp (.run none false false 0 4 3 3)) ∧
      (s.aRow mn (rowOp (.run none false false 0 4 3 3)) none).map (·.1) = some t ∧ s.fifoPlace mn (rowOp (.run none false false 0 4 3 3)) = some 0) ∧
    tileFault (mnCfgOf cfgWords).tya zfTile = none ∧ tileFault (mnCfgOf cfgWords).tya badTile = some 1 ∧
    (let s := running (.run (some i) false false 0 1 0 0) zfTile
     (s.matrix mn).ops.find? (s.rowReady mn) = some (rowOp (.run (some i) false false 0 1 0 0)) ∧
     (s.aRow mn (rowOp (.run (some i) false false 0 1 0 0)) (some i)).isSome = true) := by decide +kernel
/-- A row of a run that is not its last, in the last row of the accumulator: E4M3 values, and I8 values. -/
theorem witness_MatrixNodeActs_retires : ∀ ty ∈ [12, 0], let o := { rowOp (.run none false false 0 4 3 1) with
      cfg0 := BitVec.ofNat 64 (ty * 2 ^ 60 + ty * 2 ^ 56 + 3 * 2 ^ 18 + 15 * 2 ^ 11) }
    let w : MnRow := { op := 0, j := 2, slot := 127, tile := zfTile, scales := [], psn := false, left := [0, 0] }
    let s := (running (.zero 0 1 0) zfTile).modMatrix mn fun m => { m with ops := [o], window := [w] }
    (s.matrix mn).op w.op = some o ∧ o.work = .run none false false 0 4 3 1 ∧ 1 + 1 ≠ 4 ∧ ((s.matrix mn).accRow w.slot).length = 128 ∧ w.slot < 128 ∧
    o.cfg.nc = 16 ∧ (∀ x ∈ w.left, x = 0) ∧ (o.cfg.tya = .i8 ↔ ty = 0) := by decide +kernel
/-- A hold whose columns pass their check, and one whose last column fails it. -/
theorem witness_MatrixNodeActs_holds : ∀ k ∈ [0, 1], let s := (running (.hold 0 true) zfTile).modMatrix mn fun m =>
      { m with bufs := [{ st := 1, cols := if k = 0 then [] else [(15, badTile)] }, {}] }
    (s.matrix mn).holder 0 = some (rowOp (.hold 0 true)) ∧ ((s.matrix mn).buf 0).st = 1 ∧ s.region 1 = some (rg s) ∧ s.canPost (rg s).part = true ∧
    (s.matrix mn).window = [] ∧ (∀ i < 15, tileFault .e4m3 (((s.matrix mn).buf 0).col i) = none) ∧
    tileFault .e4m3 (((s.matrix mn).buf 0).col 15) = if k = 0 then none else some 1 := by decide +kernel

/-! ## Witnesses: the worklist's events -/

/-- The Till of the region, as the event's node. -/
def waving (t : Till) (c : Clearing) : State := { eventing (evAt till 0 0) (atTill (mnFiring 0 0 0) t) with clearings := [(1, c)], cyc := 2048 }
/-- A die wave that starts when it is due, at the 256th cycle, and one that the Till has not joined; a package wave likewise; and waves that hold every Till. -/
theorem witness_WorklistActs_waves : let s := waving wlTill { dieStart := [(0, 1792)], pkgStart := some 1024 }
    let other : Wave := { samples := [(clusterNode 1 5, 3)] }
    let full : Wave := { samples := [(till, 3)] }
    s.waves till = some (rg s) ∧ kindOf till = .till ∧ (s.clearing 1).die.find 0 = none ∧
    waveDue (s.clearing 1) ((s.clearing 1).dieStart.find 0) 256 s.cyc = true ∧ (s.clearing 1).pkg = none ∧
    waveDue (s.clearing 1) (s.clearing 1).pkgStart 1024 s.cyc = true ∧
    ((waving wlTill { die := [(0, other)], pkg := some other }).clearing 1).die.find 0 = some other ∧ (∀ x ∈ other.samples, x.1 ≠ till) ∧
    ((waving wlTill { die := [(0, full)], pkg := some full }).clearing 1).die.find 0 = some full ∧
    ((rg s).tills.filter fun c => c.die.toNat == 0).length ≤ full.samples.length ∧ (rg s).tills.length ≤ full.samples.length := by decide +kernel
/-- The second pass of the termination test, and the first. -/
theorem witness_WorklistActs_passes : let c : Clearing := { pass := 1, lastSent := 4, lastPops := 2 }
    c.passAfter false [4, 4, 2, 2, 0] = 2 ∧ c.passAfter true [4, 4, 2, 2, 0] ≠ 2 ∧
    ((waving { wlTill with hold := false } c).till (rg (waving wlTill c)).seqCoord).term = false := by decide +kernel
/-- A transfer that arrives at the Till, and one that is acknowledged. -/
def carried (k : Carry) : Transfer :=
  { id := 0, src := clusterNode 1 5, dst := till, region := 1, task := { key := 1, pri := 2, pay := 3 }, steal := false, op := 0, carry := k }
theorem witness_WorklistActs_transfers : ∀ k ∈ [Carry.sent, .acked], let s : State := { waving wlTill {} with transfers := [carried k] }
    (s.transfers.find? fun x => x.id == (evAt till 0 0).i.toNat) = some (carried k) ∧ s.region 1 = some (rg s) ∧ (rg s).frozen = false ∧
    (s.tillAccept (rg s) till (carried k).task).2 = true := by decide +kernel
/-- A refill under way, a low Till, and a Till whose tasks lie above the ring's. -/
theorem witness_WorklistActs_ring : let high : List (Nat × Task) := [(0, { key := 0, pri := 99, pay := 0 }), (1, { key := 0, pri := 99, pay := 0 })]
    (∀ t ∈ [{ wlTill with refill := some (3, 0) }, { wlTill with rTail := 5, tasks := [] }, { wlTill with rTail := 5, tasks := high, spmin := 2 }],
      let s := waving t {}
      s.regionAt till = some (rg s) ∧ (s.till till).ringStop = false ∧ s.stalled (rg s).part = false ∧ (rg s).frozen = false ∧ (s.node till).cut = false ∧
      (s.till till).openNow = true) ∧
    ({ wlTill with rTail := 5 } : Till).tasks.length < wlTill.lowm ∧ 0 < ({ wlTill with rTail := 5 } : Till).ringCount ∧ wlTill.lowm ≤ high.length ∧
    ({ wlTill with rTail := 5, spmin := 99 } : Till).eligible 99 = false ∧
    ({ wlTill with spmin := 2 } : Till).eligible 2 = true ∧ ∀ x ∈ high, wlTill.eligible x.2.pri = false := by decide +kernel
/-- A Till that asks another, on what a die wave or a package wave shows; a victim without tasks, one with an eligible task, and one without. -/
theorem witness_WorklistActs_steals : let v := clusterNode 1 5
    let s (t : Till) : State := { waving t {} with nodes := popping.nodes }
    let thief : Till := { wlTill with sources := [(0, { frames := [3, 4] })] }
    let a := s { thief with seenDie := [(v, 2)] }
    let p := s { thief with seenPkg := [(v, 2)] }
    (∀ u ∈ [a, p], u.regionAt till = some (rg u) ∧ (u.till till).openNow = true ∧ (u.till till).asking = none ∧ u.mayTake till (rg u) (wlTill.bkt 2) = true ∧ (u.node till).cut = false ∧ (rg u).stopped = false ∧ (u.till till).tasks = []) ∧
    stealFrom (a.till till) (rg a) till (a.till till).seenDie = some (v, wlTill.bkt 2) ∧ stealFrom (p.till till) (rg p) till (p.till till).seenDie = none ∧
    stealFrom (p.till till) (rg p) till (p.till till).seenPkg = some (v, wlTill.bkt 2) := by decide +kernel
def asked (ts : List (Nat × Task)) : State :=
  { waving { wlTill with asking := some (clusterNode 1 5) } {} with
    tills := [(till, { wlTill with asking := some (clusterNode 1 5) }), (clusterNode 1 5, { wlTill with tasks := ts })] }
theorem witness_WorklistActs_handover : let v := clusterNode 1 5
    (∀ ts ∈ [[], [(0, { key := 0, pri := 2, pay := 0 })], [(0, ({ key := 0, pri := 99, pay := 0 } : Task))]], let s := asked ts
      (s.till till).asking = some v ∧ (rg s).stopped = false ∧ (s.node v).cut = false ∧ (s.till v).giving = [] ∧ (s.till v).tasks = ts) ∧
    wlTill.eligible 2 = true ∧ wlTill.eligible 99 = false ∧
    ((asked [(0, { key := 0, pri := 2, pay := 0 })]).handOver (rg (asked [])) v till (wlTill.bkt 2) 1).2 = 0 := by decide +kernel

/-! ## Witnesses: the link layer, the Sequencer, Escrow -/

/-- A flit on port 35, as its sender frames it with number `q`. -/
def flitOn (q : Nat) : Ev := evAt ce 35 0 0 (wireFlit q 0 0 0 (List.replicate 64 9))
def portUp (l : LinkNode) : State := { withRegion1 id with links := [(35, { l with up := true })] }
/-- The trailer's second half, with number `q`. -/
def trailer (q : Nat) : List Byte := toBytes 4 (pack [(8, 0), (2, 0), (8, 0), (2, 0), (12, q)])
theorem ofBytes_toBytes : ∀ (k n : Nat), ofBytes (toBytes k n) = n % 256 ^ k
  | 0, n => by simp [toBytes, ofBytes, Nat.mod_one]
  | k + 1, n => by
    rw [toBytes, ofBytes, ofBytes_toBytes k, BitVec.toNat_ofNat, Nat.add_comm k 1, Nat.pow_add, Nat.mod_mul]
theorem crcBit_lt (r : Bool) (c : Nat) (b : Bool) (h : c < 2 ^ 32) : crcBit r c b < 2 ^ 32 := by
  have : c / 2 < 2 ^ 32 := by omega
  have : c * 2 % 2 ^ 32 < 2 ^ 32 := Nat.mod_lt _ (by decide)
  unfold crcBit
  repeat' split
  all_goals first | assumption | exact Nat.xor_lt_two_pow ‹_› (by decide)
theorem crcFold_lt (r : Bool) (b : Byte) : ∀ (o : List Nat) (c : Nat), c < 2 ^ 32 → o.foldl (fun c i => crcBit r c (bit b.toNat i)) c < 2 ^ 32
  | [], _, h => h
  | _ :: o, _, h => crcFold_lt r b o _ (crcBit_lt _ _ _ h)
theorem crcBytes_lt (r : Bool) (o : List Nat) : ∀ (bs : List Byte) (c : Nat), c < 2 ^ 32 →
    bs.foldl (fun c b => o.foldl (fun c i => crcBit r c (bit b.toNat i)) c) c < 2 ^ 32
  | [], _, h => h
  | _ :: bs, _, h => crcBytes_lt r o bs _ (crcFold_lt _ _ _ _ h)
theorem crc32_lt (bs : List Byte) : crc32 bs < 2 ^ 32 := Nat.xor_lt_two_pow (crcBytes_lt _ _ _ _ Config.crcStart.isLt) Config.crcEnd.isLt
/-- A flit as it is framed: its CRC holds, and its trailer's number is `q` for 0 and 4,095, due or not. -/
theorem witness_LinkLayerActs_good : ∀ q ∈ [0, 4095], let e := flitOn q
    let flit := e.data.take 64
    e.data.length = 72 ∧ e.i.toNat < 36 ∧ crc32 (flit ++ e.data.drop 68) = ofBytes ((e.data.drop 64).take 4) ∧ flit.take 8 ≠ List.replicate 8 255 ∧
    bits (ofBytes (e.data.drop 68)) 20 12 = q ∧ ((portUp { rxSeq := q }).link 35).up = true ∧ ((portUp { rxSeq := q }).link 35).rxSeq = q ∧
    ((portUp { rxSeq := 7 }).link 35).rxSeq ≠ q := by
  intro q hq
  have h : (flitOn q).data = List.replicate 64 9 ++ toBytes 4 (crc32 (List.replicate 64 9 ++ trailer q)) ++ trailer q := rfl
  have d : (flitOn q).data.drop 68 = trailer q := rfl
  have t : (flitOn q).data.take 64 = List.replicate 64 9 := rfl
  have c : ((flitOn q).data.drop 64).take 4 = toBytes 4 (crc32 (List.replicate 64 9 ++ trailer q)) := rfl
  refine ⟨rfl, show 35 < 36 by decide, ?_⟩
  simp only [d, t, c]
  refine ⟨?_, ?_⟩
  · rw [ofBytes_toBytes]
    exact (Nat.mod_eq_of_lt (show _ < 256 ^ 4 from crc32_lt _)).symm
  · clear h d t c; revert q; decide +kernel
/-- Two flits that differ in their CRC alone: one of them is bad. -/
theorem witness_LinkLayerActs_bad : ∃ k ∈ [0, 1], let d := List.replicate 64 (9 : Byte) ++ toBytes 4 k ++ trailer 0
    d.length = 72 ∧ ¬ crc32 (d.take 64 ++ d.drop 68) = ofBytes ((d.drop 64).take 4) := by
  by_cases h : crc32 (List.replicate 64 9 ++ trailer 0) = 0
  · exact ⟨1, by simp, rfl, fun g => by have : (0 : Nat) = 1 := h ▸ g; omega⟩
  · exact ⟨0, by simp, rfl, h⟩
/-- A replay asked for, and credits owed. -/
theorem witness_LinkLayerActs_replay : ∀ l ∈ [({ awaiting := true } : LinkNode), { owedCred := [1, 0, 0, 0] }],
    ((portUp l).link 35).up = true ∧ (((portUp l).link 35).awaiting = true ∨ ((portUp l).link 35).credit.1 ≠ 0) := by decide +kernel
/-- A crossing packet of two lines behind another one, where every waiting flit is over the limit: the last output port and destination. -/
theorem witness_LinkLayerActs_trim : let y := request 0 64 (List.replicate 64 9)
    let x := { y with crossing := true }
    let s := eventing (evAt ce 1 15 9) ({ withRegion1 id with packets := [x, x] } |> fun s => { s with dev := { s.dev with tq := 0 } })
    s.packets[1]? = some x ∧ x.pkt.hdr.trim = false ∧ 32 < x.pkt.hdr.len.toNat ∧ x.pkt.hdr.kind.toNat = 0 ∧ s.dev.tq < s.crossingFlits 1 ∧
    (evAt ce 1 15 9).j.toNat < 16 ∧ (evAt ce 1 15 9).v.toNat < 10 := by decide +kernel
/-- A window's record whose next ordered arrival is due, and a bound window's arrival of a wide run for a node that takes it. -/
def arrival1 : Arrival := { ty := 6, run := 2, mask := 3, slots := [1, 2] }
theorem witness_LinkLayerActs_arrivals :
    (let m : RxMsg := { msn := 4, dsn := 2, kind := 1, npk := 1, written := [0], done := false, arrival := some (3, arrival1), hdr := (request 1 8 []).pkt.hdr }
     let r : RxRec := { sdev := 2, sport := 0, chan := 0, msgs := [m], next := 2 }
     let s := { linkUp openChan [] with links := [(0, { recs := [r] })] }
     (s.link 0).recs[(evAt ce 0 0).j.toNat]? = some r ∧ (r.msgs.find? fun m => m.arrival.isSome && !m.done && m.dsn == r.next) = some m ∧
     (s.win 3).arrivals.length < arrivalMax) ∧
    (let w : RxWin := { en := true, part := 1, bound := true, bregion := 1, arrivals := [arrival1] }
     let s := { linkUp openChan [] with windows := [(3, w)] }
     (s.win 3).arrivals = [arrival1] ∧ s.cutAt (linkNode w.port) w.bctx = false ∧ s.canRun w.bregion = true ∧
     s.canReserve (linkNode w.port) w.bctx w.bport (tokensOf (Ty.isWide (Ty.ofCode arrival1.ty)) arrival1.run) = true) := by decide +kernel
/-- An eligible re-request, and a message whose packets have not come back for 2 to the (CAPE + 3) cycles. -/
theorem witness_LinkLayerActs_rreq : let q : Rreq := { hdr := (request 2 64 []).pkt.hdr, t := 1, eligible := 0, sent := false }
    let s := { linkUp openChan [message 0] with links := [(0, { msgs := [message 0], rreqs := [q] })], cyc := 2 ^ 20 }
    let all := (s.links.flatMap fun l => l.2.rreqs).filter fun x => x.hdr.sdev = q.hdr.sdev
    (s.link 0).rreqs[(evAt ce 0 0).j.toNat]? = some q ∧ q.eligible ≤ s.cyc ∧ all = [q] ∧ ¬ (rreqKey q < rreqKey q) ∧ 2 ≤ q.hdr.kind.toNat ∧
    (all.filter (·.sent)).length ≤ s.dev.wm1 ∧
    ((s.link 0).msgs.find? fun m => m.id == 1) = some (message 0) ∧ 2 ^ (s.dev.cape + 3) ≤ (s.cyc + 2 ^ 64 - (message 0).last) % 2 ^ 64 ∧
    (match s.msgFail 0 (message 0) true (s.msgInfo 0 (message 0) Cause.trimLimit ((message 0).lane + 0x8000)) with
      | .inr _ => true | .inl _ => false) = true := by decide +kernel

/-- An armed block whose node has nothing left. -/
theorem witness_SequencerActs_drained : let s := (firingAt nu two).modCtx nu 0 fun x => { x with cw := 3, armed := true }
    let s := s.modNode nu fun n => { n with slots := [] }
    (s.ctx nu 0).owner = some owner1 ∧ s.region owner1.region = some (rg s) ∧ (s.ctx nu 0).cw ≠ 0 ∧ (s.ctx nu 0).drained = false ∧
    s.cutAt nu 0 = false ∧ s.armed (rg s) 0 = true ∧ s.drainedHere (rg s) 0 nu = true := by decide +kernel
/-- Block 0 of the object above, which a token on an unresolved edge waits for. -/
def scheduling : State :=
  let s := firingAt ce two fun r => { r with obj := 65536, hdr := objectWords.take 8, blkTab := [(0x5000010000, 0x1000000000)], sched := some (0, 1) }
  let s := holding s [(65536, objectBytes)]
  (s.modCtx ce 0 fun x => { x with rws := [{ edge with obj := 2 ^ 11, res := 0 }] }).modNode ce fun n => { n with outq := [departing] }
theorem witness_SequencerActs_sched : let s := scheduling
    let r := rg s
    let u := s.modRegion 1 fun q => q.passes (s.candidatesOf r) 0
    s.region 1 = some r ∧ r.stat = 2 ∧ r.stopped = false ∧ s.schedStuck r = false ∧ s.freeBase r ≠ none ∧ s.candidatesOf r = [0] ∧
    s.overcommits r 0 = none ∧ r.pick ((s.candidatesOf r).map fun y => (y, s.waitingFor r y)) = some 0 ∧ s.canPost r.part = true ∧
    u.region 1 = some (rg u) ∧ (match u.loadBlock (rg u) 0 with | .loaded _ => true | _ => false) = true := by decide +kernel
/-- CFG and RUN of that block load it, and wait while all eight contexts are taken. -/
theorem witness_ControlRuns_loads : let s := scheduling
    let t := (rg s).nodes.foldl (fun s c => s.modNode c fun n => { n with ctxs := n.ctxs.map fun x => { x with owner := some { owner1 with blk := 9 } } }) s
    s.region s.cur.region = some (rg s) ∧ ((rg s).blk 0).resident = false ∧ (match s.loadBlock (rg s) 0 with | .loaded _ => true | _ => false) = true ∧
    t.region t.cur.region = some (rg t) ∧ ((rg t).blk 0).resident = false ∧ (match t.loadBlock (rg t) 0 with | .wait => true | _ => false) = true := by
  decide +kernel
theorem witness_SequencerActs_slots : ((firingAt ce two).ctx ce 0).owner = some owner1 ∧
    (let s := scheduling
     let r := rg s
     r.stopped = false ∧ s.stalled r.part = false ∧ max r.prefetched r.demanded / 128 * 128 < r.seglim ∧
     max r.prefetched r.demanded / 128 * 128 < r.demanded + 16384 ∧ s.reach r.part (r.obj + 0) false = .inr (65536, false)) := by decide +kernel

/-- A withdrawn token in a Chit. -/
def withdrawn1 : Withdrawn := { region := 1, store := ce, piece := { tok := tok .value ce, arr := 0, buf := .chit } }
theorem witness_EscrowActs_moves : let s := (withRegion1 id).modCluster 0 fun c => { c with withdrawn := [withdrawn1] }
    (s.cluster 0).withdrawn[0]? = some withdrawn1 ∧ withdrawn1.piece.buf.inPool = true ∧ (s.withdrawnPlace 1 0).isSome = true := by decide +kernel
/-- The image of a firing, to be written to a cell; a node with a beat counter at 0. -/
theorem witness_EscrowActs_images : let im : Image := { region := 1, pos := ce, firing := two, recno := none, cell := none }
    let s : State := { firingAt ce { two with held := true } with images := [im] }
    let s := s.modPart 1 fun p => { p with escArea := BitVec.ofNat 64 (2 ^ 63 + 2 ^ 20) }
    let b := s.modCtx ce 0 fun x => { x with beat := { arm := true, k := 4 } }
    s.images[0]? = some im ∧ s.region im.region = some (rg s) ∧ im.ready = false ∧ s.freeEscrowCell (rg s).part = some 0 ∧
    (b.ctx ce 0).owner = some owner1 ∧ (b.ctx ce 0).beat.arm = true ∧ (b.ctx ce 0).beat.left = 0 ∧ (rg b).stopped = false ∧
    b.canPost (rg b).part = true ∧ NoFills s ∧ Memory.wf s.mem = true ∧ bits (s.partOf 1).escArea.toNat 0 48 = 2 ^ 20 := by
  unfold NoFills; decide +kernel
/-- A region without progress; cuts of a freeze and of a snapshot that are complete. -/
def snap1 : Snap := { queue := 0, entry := 3, region := 1, save := 4096, saveLen := 65536 }
theorem witness_EscrowActs_cuts : let s := (firingAt ce two fun r => { r with wdog := 2 ^ 21 }).modPart 1 fun p => { p with wdEn := true }
    (∀ k ∈ [CutFor.freeze false, .snapshot 0 3], let t : State := { withRegion1 fun r => { r with cut := some k } with snaps := [snap1] }
      let t := ((rg t).allNodes.foldl (fun t c => t.modNode c fun n => { n with cut := true, noticed := true }) t)
      t.region 1 = some (rg t) ∧ (rg t).cut = some k ∧ t.cutDone (rg t) = true ∧ (t.snaps.find? fun x => decide (x.queue = 0 ∧ x.entry = 3)) = some snap1) ∧
    (s.partOf (rg s).part).wdEn = true ∧ (rg s).stopped = false ∧ (rg s).waiting = false ∧ s.stalled (rg s).part = false ∧ (rg s).stat ≠ 4 ∧
    s.liveWork (rg s) = true ∧ s.hangAt (rg s).part ≤ (rg s).wdog ∧
    (let t := s.modRegion 1 fun r => { r with cut := some (.snapshot 0 3) }
     t.region 1 = some (rg t) ∧ (rg t).frozen = false ∧ (rg t).aborting = false ∧ (rg t).cut = some (.snapshot 0 3) ∧ (rg t).stat ≠ 4 ∧
     (rg t).waiting = false ∧ t.stalled (rg t).part = false ∧ t.liveWork (rg t) = true ∧ t.hangAt (rg t).part ≤ (rg t).wdog) := by decide +kernel
/-- A request at the head of its order, on a partition that owns the last cluster alone. -/
theorem witness_EscrowActs_grant : let c : Instr := .cmdLaunch { cmd 65536 0x0101000000000000 with }
    let s := queued fun r => { r with waiting := true, rgw := 1, rgh := 1, w := 0, h := 0, hdr := objectWords.take 8 }
    let s : State := { s with dev := { s.dev with owner := [((767 : Nat), (true, 1))] },
                              queues := [(0, { en := true, owner := 1, fifo := [(encode { instr := c }).words] })] }
    (rg s).waiting = true ∧ s.partRuns (rg s).part = true ∧ (s.nextRequest (rg s).part).map (·.id) = some (rg s).id ∧
    s.findRect (rg s).part (rg s).wanted.1 (rg s).wanted.2 = some (47, 15) ∧ (s.headCmd (rg s).queue).isSome = true ∧ (rg s).fromSave = none := by decide +kernel
/-- A record of a partition with an enabled ring; a tap's record. -/
theorem witness_EscrowActs_records : let s := (withRegion1 id).modPart 1 fun p => { p with fqBase := BitVec.ofNat 64 (2 ^ 63 + 5), held := [{ words := List.replicate 8 3 }] }
    let x : TapRec := { slot := 2, words := [1, 2, 3, 4] }
    let t : State := { s with collectors := [(7, [x])], taps := [((7, 2), { en := true, base := 0x3000 })] }
    (s.partOf 1).held = [{ words := List.replicate 8 3 }] ∧ (s.partOf 1).ringRoom = true ∧ s.dev.backed (s.partOf 1).ringAt = true ∧
    (t.collectors.get [] 7)[0]? = some x ∧
    (t.taps.get {} (7, 2)).full = false ∧ ({ en := true, wp := 128 } : Tap).full = true ∧
    t.dev.backed ((t.taps.get {} (7, 2)).base + 32 * ((t.taps.get {} (7, 2)).wp % (2 ^ (t.taps.get {} (7, 2)).lgsz * 128))) = true := by decide +kernel
/-- Started commands, done and not; a partition over its limit, and one in whose next period the device is. -/
theorem witness_EscrowActs_budgets : let c : Started := { entry := 0, cmd := 1, cen := true, cnfy := 12, cval := 9, done := true, lid := 0x21 }
    (∀ d ∈ [true, false], let s := (queued id).modQueue 0 fun q => { q with started := [{ c with done := d }] }
      (s.queue 0).started = [{ c with done := d }] ∧ s.ownsNfy (s.queue 0).owner c.cnfy = true) ∧
    (let s := State.reset.modPart 15 fun p => { p with budEn := true, lims := [0, 0, 0, 0, 3], uses := [0, 0, 0, 0, 3] }
     (s.partOf 15).exhausted = true) ∧
    (let s := { State.reset.modPart 15 (fun p => { p with budEn := true, period := 6 }) with usec := 7000 }
     (s.partOf 15).budEn = true ∧ s.usec / (s.partOf 15).budPer = (s.partOf 15).period + 1) := by decide +kernel

/-! ## Witnesses: host accesses and the platform -/

/-- A host write in a device that is READY, to queue or partition `i` at `j`. -/
def hostWrite (i j v : Nat) (data : List Byte) (s : State := State.reset.running) : State := eventing (evAt ce i j v data) s
/-- A write of 64 bytes to the last queue with 63 commands and with 64, to one that is disabled, and writes of another size or place. -/
theorem witness_HostWrites_queue : let q (n : Nat) : Queue := { en := true, fifo := List.replicate n [] }
    let s (n : Nat) := hostWrite 63 64 0 (List.replicate 64 1) { State.reset.running with queues := [(63, q n)] }
    (s 63).ready = true ∧ (evAt ce 63 64).i.toNat % 64 = 63 ∧ (evAt ce 63 64).j.toNat % 64 = 0 ∧ ((s 63).queue 63).fifo.length < 64 ∧
    ((s 63).queue 63).en = true ∧
    ((s 63).modQueue 63 (fun q => { q with en := false })).ready = true ∧ (((s 63).modQueue 63 (fun q => { q with en := false })).queue 63).en = false ∧
    (((s 63).modQueue 63 (fun q => { q with en := false })).queue 63).fifo.length < 64 ∧ 64 ≤ ((s 64).queue 63).fifo.length ∧ (evAt ce 63 8).j.toNat % 64 ≠ 0 ∧ (List.replicate 63 (1 : Byte)).length ≠ 64 := by
  decide +kernel
/-- HS_SPLIT of 8 and of 9, with every partition in reset and with one that runs; a tap slot that is on, and off; registers' last place and size. -/
theorem witness_HostWrites_registers :
    (let s : State := { State.reset with dev := { State.reset.dev with state := 3 } }
     s.ready = true ∧ s.allReset = true ∧ bits (evAt ce 0 0 (8 * 2 ^ 60)).v.toNat 60 4 = 8 ∧ 8 < bits (evAt ce 0 0 (9 * 2 ^ 60)).v.toNat 60 4) ∧
    State.reset.running.ready = true ∧ State.reset.running.allReset = false ∧
    (let s : State := { State.reset.running with taps := [((7, 15), { en := true })] }
     (s.taps.get {} (7, 15)).en = true ∧ (s.taps.get {} (7, 14)).en = false) ∧
    (let w := evAt ce 0 8 0x7FFFF8 (List.replicate 8 1)
     w.data ≠ [] ∧ w.v.toNat < 0x800000 ∧ w.data.length = 8 ∧ w.v.toNat % 8 = 0) ∧
    (evAt ce 0 0 4 (List.replicate 8 1)).v.toNat % 8 ≠ 0 ∧ (evAt ce 0 8 8).data = [] := by decide +kernel
/-- Host accesses to the first and the last bytes of HBM and to the H aperture, and to an address that is not backed. -/
theorem witness_HostMemory : let s : State := { State.reset.running with dev := { State.reset.running.dev with ws := 1 } }
    NoFills s ∧ s.ready = true ∧ Memory.wf s.mem = true ∧ s.badLines = [] ∧
    inHbm 0 = true ∧ inHbm (hbmEnd - 1) = true ∧ s.dev.inH s.dev.hb = true ∧ s.hostSees (2 ^ 48 - 1) = false := by
  unfold NoFills; decide +kernel
/-- The conditions of the device's events, each at its boundary. -/
theorem witness_DeviceEvents : (∀ op ∈ [1, 2, 3], let s : State := { State.reset.running with dev := { State.reset.running.dev with
        fwCtl := BitVec.ofNat 64 (op * 2 ^ 60), fwBusy := true } }
      s.dev.fwBusy = true ∧ s.dev.fwOp = op ∧ 0 < s.dev.leaves ∧ s.dev.fwAddrOk = true ∧
      ({ s with dev := { s.dev with leaves := 0 } } : State).dev.leaves = 0) ∧
    ({ State.reset with dev := { State.reset.dev with state := 2 } } : State).dev.state = 2 ∧ 110 ≤ (evAt ce 110 0).i.toNat ∧
    bit (evAt ce 0 0 (2 ^ 35)).v.toNat 35 = true ∧ bit (evAt ce 0 0 0).v.toNat 35 = false ∧
    State.reset.running.ready = true ∧ (State.reset.running.partOf 15).rst = false ∧
    (evAt ce 1 0).i = 1 ∧ (evAt ce 2 0).i = 2 ∧ (evAt ce 7 0).i = 7 := by decide +kernel

/-! ## Witnesses: the whole machine -/

/-- A table word, behind the byte that says where it stands, stands where the next step fetches it: a firing's, a control command, and a queue's entry. -/
theorem witness_StepRunsTheDecoded : ∀ w ∈ [0x012423BF4000FFFD, 0xF700000000000000], let s := State.reset.withFetchWord 72 (w * 256)
    (s.turns.map fun t => ((s.begin t []).fetch t.act).map fun x => (x.1.words, match decode x.1 with | .ok f => f.wf | .error _ => false)) =
      [some ([BitVec.ofNat 64 w], true)] := by decide +kernel
theorem witness_StepRunsTheDecoded_idle : State.reset.turns = [] ∧ State.reset.fetch (.command 0) = none := by decide +kernel
/-- A firing, a queue's oldest entry and a control command. -/
theorem witness_StepRunsTheDecoded_units : Fetches (firingAt ce two) ce 0 two ∧ (firingAt ce two).ready = true ∧
    ((queued id).queue 0).fifo = [[0]] ∧ (queued id).ready = true ∧
    (let s := controlling id
     s.ready = true ∧ s.region 1 = some (rg s) ∧ (rg s).stat = 2 ∧ (rg s).cut = none ∧ (rg s).frozen = false ∧ (rg s).aborting = false ∧
     (rg s).ccws[(rg s).cc]? = some 0) := by unfold Fetches; decide +kernel
/-- Two firings of a node, which issue in turn, and one alone; a firing without an active lane, of a Compute Element and of a Matrix Node. -/
theorem witness_StepRunsTheDecoded_turns : let z : Firing := { two with tmask := 0, words := [0x000FFFFF00000000, 0] }
    let s := (firingAt ce { two with entry := 1 }).modNode ce fun n => n.setSlot 1 (some { two with ctx := 1, entry := 2 })
    s.yields (.fire ce 0) = false ∧ s.yields (.fire ce 1) = true ∧ (s.fetch (.fire ce 1)).isSome = true ∧ (firingAt ce two).yields (.fire ce 0) = false ∧
    ((firingAt ce two).node ce).slot 0 = some two ∧ ((firingAt ce z).node ce).slot 0 = some z ∧ (firingAt ce z).zeroRun (.fire ce 0) = some (ce, 0, 0, 1) ∧
    ((firingAt ce z).fetch (.fire ce 0)).isSome = true ∧ (firingAt mn z).zeroRun (.fire mn 0) = none ∧
    (match (firingAt ce z).fetch (.fire ce 0) with
      | some x => (match decode x.1 with | .ok i => i.wf | .error _ => false)
      | none => false) = true := by decide +kernel
/-- Well-formed: a firing's instruction, a strobe with its argument. -/
theorem witness_DecodeReadsEncode : ({ instr := .add { abc .i32 with c := .none } } : Fetched).wf = true ∧
    ({ instr := .skPark, arg := .strobe (2 ^ 40) } : Fetched).wf = true := by decide +kernel
theorem witness_StepKeepsMemory : State.reset.Good := by unfold State.Good; decide +kernel
theorem witness_StepKeepsMemory_steps : step State.reset = .next State.reset := rfl
theorem witness_EveryInstructionRuns : (Instr.add (abc .i32)) ≠ .evHostMemAccess := by decide
theorem witness_FiringFrame : (Instr.st (abc .n32)) ∈ firingInsns (abc .n32) ∧ ce ≠ me ∧
    (match exec (.add (abc .i32)) (firingAt ce two) with | .next _ => true | _ => false) = true := by decide +kernel
theorem witness_MemoryReadsBack : Memory.wf [] = true ∧ Memory.wf [(3, 1), (9, 2)] = true := by decide

/-! ## Small steps, with results worked out from the manual -/

namespace Sys2Proof.Witness

/-- What two lanes of temporary 1 hold when the node at `pos` has executed an instruction on `a`, `b` and `c`. -/
def lanesAfter (pos : Coord) (i : Instr) (a b c : List Word) : List Nat :=
  let f := firingOn 0 a b c
  match exec i (firingAt pos f) with
  | .next t => match (t.node pos).slot 0 with
    | some g => [0, 1].map fun l => ((g.temps.find (1, l)).map fun x => x.1.toNat).getD 0
    | none => []
  | _ => []

end Sys2Proof.Witness

open Sys2Proof.Witness

/-- R187: the sum wraps, or saturates with SAT. -/
theorem test_add_wraps : lanesAfter ce (.add (abc .i32)) [0x7fffffff, 5] [1, 0xfffffffe] [0, 0] = [0x80000000, 3] := by decide +kernel
theorem test_add_saturates : lanesAfter ce (.add { abc .i32 with sat := true }) [0x7fffffff, 0x80000000] [1, 0xffffffff] [0, 0] =
    [0x7fffffff, 0x80000000] := by decide +kernel
/-- R187: the high half of a signed product. -/
theorem test_mulh : lanesAfter ce (.mulh (abc .i32)) [0xffffffff, 0x40000000] [2, 8] [0, 0] = [0xffffffff, 2] := by decide +kernel
/-- R190: a shift by the width or more. -/
theorem test_shl_past_width : lanesAfter ce (.shl (abc .n32)) [1, 1] [31, 32] [0, 0] = [0x80000000, 0] := by decide +kernel
theorem test_sar_past_width : lanesAfter ce (.sar (abc .n32)) [0x80000000, 0x40000000] [40, 40] [0, 0] = [0xffffffff, 0] := by decide +kernel
/-- R191: bits counted, and a word without any. -/
theorem test_clz : lanesAfter ce (.clz (abc .n32)) [0, 1] [0, 0] [0, 0] = [32, 31] := by decide +kernel
/-- R201: 1.5 + 2.25; and 2 to the 24 plus 1, a tie to even. -/
theorem test_fadd : lanesAfter ce (.fadd (abc .f32)) [0x3FC00000, 0x4B800000] [0x40100000, 0x3F800000] [0, 0] = [0x40700000, 0x4B800000] := by
  decide +kernel
/-- R201: one rounding of (1 + 2^-23)(1 - 2^-23) - 1 = -2^-46. -/
theorem test_ffma_one_rounding : lanesAfter ce (.ffma (abc .f32)) [0x3F800001, 0x40000000] [0x3F7FFFFE, 0x40400000] [0xBF800000, 0x3F800000] =
    [0xA8800000, 0x40E00000] := by decide +kernel
/-- R266: the square root of 2, and of 4. -/
theorem test_sqrt : lanesAfter nu (.sqrt (abc .f32)) [0x40000000, 0x40800000] [0, 0] [0, 0] = [0x3FB504F3, 0x40000000] := by decide +kernel
/-- R53, R82, R442: a reserved opcode parks its frame with ILLEGAL_INSN. -/
theorem test_reserved_opcode_parks :
    (match step (State.reset.withFetchWord 72 0xBC0000000000000000) with
     | .next t => t.regions.map fun r => r.frames.map fun f => f.2.parked
     | _ => []) = [[true]] := by decide +kernel
/-- The digest of "abc" that FIPS 180-4 gives (R499). -/
theorem test_sha256 : sha256 [0x61, 0x62, 0x63] =
    [0xBA7816BF, 0x8F01CFEA, 0x414140DE, 0x5DAE2223, 0xB00361A3, 0x96177A9C, 0xB410FF61, 0xF20015AD].flatMap fun w => bigBytes 4 w := by decide +kernel
end

section
/-! SUPPORT. What an instruction does for the firing that executes it: the rules that the statements on instructions share (R173, R178 to R181). -/

open Sys2Proof Sys2Proof.Machine

namespace Sys2Proof.Claims

section
variable {s : State} {f : Firing} {n : Niw} {wide : Bool}

theorem Runs.withFiring (h : Runs s f) (k : Firing → Out) : s.withFiring k = k f := by
  obtain ⟨hf, hheld, hdue, -, -⟩ := h
  simp [State.withFiring, hf, hheld, hdue]

theorem Runs.not_skipped (h : Runs s f) : f.skipped = false := by
  obtain ⟨-, -, -, hskip, -⟩ := h
  exact hskip

theorem Runs.resultLanes (h : Runs s f) (w : Nat) (g : Firing → List (Nat × Lane)) : f.resultLanes n w g = g f := by
  obtain ⟨-, -, -, hskip, hpatch⟩ := h
  simp [Firing.resultLanes, hskip, hpatch]

/-- With room for its result, an instruction whose only effect is its result completes with the lanes that it computes. -/
theorem Runs.result (h : Runs s f) (room : Room s f n wide) (w : Nat) (g : Firing → List (Nat × Lane)) :
    s.result n wide w g = .next (s.complete f n.d wide (f.eff n.pred) (g f)) := by
  have hroom : s.roomFor s.cur.pos f n.d wide = true := room
  simp [State.result, h.withFiring, h.resultLanes, h.not_skipped, hroom]

theorem Runs.laneWise (h : Runs s f) (room : Room s f n wide) (w : Nat) (srcs : List (Ty × Sel)) (g : List Nat → Nat × Nat) :
    s.laneWise n wide w srcs (fun _ _ => g) = .next (s.complete f n.d wide (f.eff n.pred) (lanesOf s f n srcs g)) :=
  h.result room w _

end

end Sys2Proof.Claims
end

section
/-! SUPPORT. Integer arithmetic, moves and comparisons (R65, R187, R194, R195). -/

open Sys2Proof Sys2Proof.Machine

namespace Sys2Proof.Claims

/-- The row says how the model executes its instruction: lane by lane, by the row's function on the row's operands. -/
def LaneRow.Executes (n : Niw) (row : LaneRow) : Prop :=
  ∃ w, ∀ s, exec row.i s = s.laneWise n row.wide w row.srcs fun _ _ => row.g

theorem LaneRow.Executes.ends {n : Niw} {row : LaneRow} (hrow : row.Executes n) {s : State} {f : Firing} (h : Runs s f)
    (room : Room s f n row.wide) : Ends row.i s f n row.wide (lanesOf s f n row.srcs row.g) := by
  obtain ⟨w, hexec⟩ := hrow
  unfold Ends
  rw [hexec, h.laneWise room]

theorem executes_of_mem_arithRows (n : Niw) : ∀ row ∈ arithRows n, row.Executes n := by
  simp only [arithRows, List.forall_mem_cons, List.not_mem_nil, false_imp_iff, implies_true, and_true]
  refine ⟨?_, ?_, ?_, ?_, ?_, ?_, ?_, ?_, ?_, ?_, ?_, ?_, ?_⟩ <;> exact ⟨n.ty.width, fun _ => rfl⟩

theorem executes_of_mem_moveRows (n : Niw) : ∀ row ∈ moveRows n, row.Executes n := by
  simp only [moveRows, List.forall_mem_cons, List.not_mem_nil, false_imp_iff, implies_true, and_true]
  exact ⟨⟨n.ty.width, fun _ => rfl⟩, ⟨32, fun _ => rfl⟩, ⟨32, fun _ => rfl⟩, ⟨32, fun _ => rfl⟩, ⟨32, fun _ => rfl⟩⟩

/-- Settles O2: the instructions of both tables execute lane by lane, and such an instruction completes when its result has room. -/
theorem integerOperations : Obligations.IntegerOperations :=
  ⟨fun n row _ _ hrow h room => (executes_of_mem_arithRows n row hrow).ends h room,
   fun n row _ _ hrow h room => (executes_of_mem_moveRows n row hrow).ends h room⟩

end Sys2Proof.Claims
end

section
/-! SUPPORT. A Matrix Node's settings: what its instructions share (R321), MNCFG (R323) and the queries (R333). -/

open Sys2Proof Sys2Proof.Machine

namespace Sys2Proof.Claims

section
variable {n : Niw} {s : State} {f : Firing} {r : Region} {ws : List Word}

/-- With an active lane and no poisoned operand, an instruction of a Matrix Node acts on its operands. -/
theorem Runs.mnInsn (h : Runs s f) (hr : s.region f.region = some r) (hact : f.tmask % 2 ^ f.len ≠ 0) {ops : List (Ty × Sel)}
    (hsound : (operands s f n ops f.laneA).any (·.2) = false) (rw scope : Nat) (k : Firing → Region → List Nat → Out) :
    s.mnInsn ops n rw scope false none k = k f r ((operands s f n ops f.laneA).map (·.1)) := by
  have hvs : (ops.zipIdx.map fun q => s.readSel s.cur.pos f n q.1.1 q.2 q.1.2 f.laneA).any (·.2) = false := hsound
  simp only [State.mnInsn, State.withRegion, h.withFiring, hr, h.not_skipped, beq_eq_false_iff_ne.mpr hact, Bool.not_false, Bool.and_false,
    Bool.false_eq_true, if_false, hvs]
  rfl

theorem MnRuns.runs (h : MnRuns s f r n ws) : Runs s f := by
  obtain ⟨hruns, -⟩ := h
  exact hruns

theorem MnRuns.region (h : MnRuns s f r n ws) : s.region f.region = some r := by
  obtain ⟨-, -, hr, -⟩ := h
  exact hr

theorem MnRuns.active (h : MnRuns s f r n ws) : f.tmask % 2 ^ f.len ≠ 0 := by
  obtain ⟨-, hact, -⟩ := h
  exact hact

theorem MnRuns.mnWords (h : MnRuns s f r n ws) : s.mnWords n f = ws := by
  obtain ⟨-, -, -, hws, -⟩ := h
  exact hws.symm

theorem MnRuns.isEmpty_words (h : MnRuns s f r n ws) : ws.isEmpty = false := by
  obtain ⟨-, -, -, -, hne⟩ := h
  exact List.isEmpty_eq_false_iff.mpr hne

/-- MNCFG with sound operands writes its slot, or refuses the word that fails R79. -/
theorem MnRuns.exec_mncfg (h : MnRuns s f r n ws) (ha : (laneA s f n .n64 0 n.a).2 = false) (hb : (laneA s f n .n64 1 n.b).2 = false) :
    let w0 : Word := BitVec.ofNat 64 (laneA s f n .n64 0 n.a).1
    let w1 : Word := BitVec.ofNat 64 (laneA s f n .n64 1 n.b).1
    exec (.mncfg n) s = (mnCfgBad r.aor w0 w1).elim
      (.next (((s.modCtx s.cur.pos f.ctx fun x => { x with slots := setNth x.slots (n.imm.toNat % 8) [w0, w1] }).mnReceipt f
        (mnCfgOf [w0, w1]).rrw 0 false).goOn))
      fun d => s.mnCfgFault f d (if d = 1 then w0.toNat else w1.toNat) := by
  have hsound : (operands s f n [(.n64, n.a), (.n64, n.b)] f.laneA).any (·.2) = false := by
    change ((laneA s f n .n64 0 n.a).2 || ((laneA s f n .n64 1 n.b).2 || false)) = false
    simp [ha, hb]
  have hvals : (operands s f n [(.n64, n.a), (.n64, n.b)] f.laneA).map (·.1) = [(laneA s f n .n64 0 n.a).1, (laneA s f n .n64 1 n.b).1] := rfl
  refine (h.runs.withFiring _).trans ((h.runs.mnInsn h.region h.active hsound _ _ _).trans ?_)
  simp only [hvals, List.getD_cons_zero, List.getD_cons_succ]
  cases mnCfgBad r.aor (BitVec.ofNat 64 (laneA s f n .n64 0 n.a).1) (BitVec.ofNat 64 (laneA s f n .n64 1 n.b).1) <;> rfl

/-- MNCFG without operands judges the slot as it stands. -/
theorem MnRuns.exec_mncfgCheck (h : MnRuns s f r n ws) :
    exec (.mncfgCheck n) s = (mnCfgBad r.aor (ws.getD 0 0) (ws.getD 1 0)).elim
      (.next ((s.mnReceipt f (mnCfgOf ws).rrw 0 false).goOn))
      fun d => s.mnCfgFault f d (ws.getD (d - 1) 0).toNat := by
  refine (h.runs.withFiring _).trans ?_
  simp only [h.mnWords, h.isEmpty_words, Bool.false_eq_true, if_false]
  refine (h.runs.mnInsn h.region h.active rfl _ _ _).trans ?_
  simp only [h.mnWords]
  cases mnCfgBad r.aor (ws.getD 0 0) (ws.getD 1 0) <;> rfl

/-- A query with room for its token completes with its value in every active lane. -/
theorem Runs.mnQuery (h : Runs s f) {o : Fin 4} (hd : n.d = .o o) (room : Room s f n false) (g : Firing → Nat) :
    s.mnQuery n g = .next (s.complete f n.d false (f.eff n.pred)
      ((f.active n.pred).map fun l => (l, { v := g f % 2 ^ 32, psn := false }))) := by
  have hroom : s.room s.cur.pos f.ctx o 1 = true := by simpa [Room, State.roomFor, hd, tokensOf] using room
  rw [State.mnQuery, h.withFiring]
  simp only [hd, hroom, Bool.not_true, Bool.false_eq_true, if_false]
  rw [h.result room, hd]

theorem MnRuns.setDit (h : MnRuns s f r n ws) (on : Bool) :
    s.setDit on = .next ((s.modMatrix s.cur.pos fun m => { m with dit := setBits m.dit f.ctx 1 (b2n on) }).goOn) := by
  simp [State.setDit, h.runs.withFiring, h.runs.not_skipped, h.active]

end

theorem matrixConfiguration : MatrixConfiguration := by
  intro n s f r ws h
  refine ⟨fun ha hb hok => ?_, fun ha hb d hbad => ?_, fun hok => ?_, fun d hbad => ?_⟩
  · exact (h.exec_mncfg ha hb).trans (congrArg (Option.elim · _ _) hok)
  · exact (h.exec_mncfg ha hb).trans (congrArg (Option.elim · _ _) hbad)
  · exact h.exec_mncfgCheck.trans (congrArg (Option.elim · _ _) hok)
  · exact h.exec_mncfgCheck.trans (congrArg (Option.elim · _ _) hbad)

theorem matrixQueries : MatrixQueries := by
  intro n s f r ws h
  have query {o : Fin 4} (hd : n.d = .o o) (room : Room s f n false) := h.runs.mnQuery hd room
  refine ⟨fun o hd room => ⟨?mnprog, ?mnaor, ?mnchk, ?mnstat⟩, h.setDit true, h.setDit false⟩
  case mnprog => exact query hd room _
  case mnaor =>
    refine (query hd room _).trans ?_
    simp only [h.region]
    rfl
  case mnchk =>
    refine (h.runs.withFiring _).trans ?_
    simp only [h.mnWords, h.isEmpty_words, Bool.false_and, Bool.false_eq_true, if_false]
    exact query hd room _
  case mnstat => exact query hd room _

/-- Settles O26: MNCFG by the outcome of R79's check, each query by the rule for queries. -/
theorem matrixSettings : Obligations.MatrixSettings := ⟨matrixConfiguration, matrixQueries⟩

end Sys2Proof.Claims
end

section
/-! SUPPORT. What a step does: what a turn fetches, who issues (R173, R222), and what is executed. -/

open Sys2Proof Sys2Proof.Machine

namespace Sys2Proof.Machine

/-! ## The turn -/

/-- A fold whose every step leaves the state as it is leaves it so. -/
theorem foldl_of_fixed {α : Type} (f : State → α → State) (l : List α) (s : State) (h : ∀ x ∈ l, f s x = s) : l.foldl f s = s := by
  induction l with
  | nil => rfl
  | cons x l ih =>
    rw [List.foldl_cons, h x List.mem_cons_self]
    exact ih fun y hy => h y (List.mem_cons_of_mem x hy)

/-- Where no access of Escrow is under way, none is performed (R443). -/
theorem State.performCells_of_idle (s : State) (h : ∀ p ∈ s.parts, p.2.cellOps = []) : s.performCells = s :=
  foldl_of_fixed _ _ s fun p hp => by rw [h p hp, List.isEmpty_nil, if_pos rfl]

theorem State.execute_of_decode {s : State} {r : Raw} {i : Fetched} (hdec : decode r = .ok i) (hwf : i.wf = true) :
    s.execute r = exec i.instr { s with cur := { s.cur with arg := i.arg } } := by
  simp [State.execute, State.run, hdec, hwf]

theorem step_of_no_turns {s : State} (hturns : s.turns = []) : step s = .next s := by
  simp [step, hturns]

section
variable {s : State} {t : Turn} {rest : List Turn} (hturns : s.turns = t :: rest)
include hturns

theorem step_of_fetch_none (hfetch : (s.begin t rest).fetch t.act = none) : step s = .next (s.begin t rest) := by
  simp [step, hturns, hfetch]

theorem step_of_yields {r : Raw} {c : Cur} (hfetch : (s.begin t rest).fetch t.act = some (r, c))
    (hyields : (s.begin t rest).yields t.act = true) : step s = .next (s.begin t rest) := by
  simp [step, hturns, hfetch, hyields]

theorem step_of_fetch {r : Raw} {c : Cur} (hfetch : (s.begin t rest).fetch t.act = some (r, c))
    (hyields : (s.begin t rest).yields t.act = false) :
    step s = zeroAfter ((s.begin t rest).zeroRun t.act) (State.execute { s.begin t rest with cur := c } r) := by
  simp [step, hturns, hfetch, hyields]

end

theorem zeroAfter_none (o : Out) : zeroAfter none o = o := by cases o <;> rfl

/-! ## Who issues -/

theorem State.yields_of_not_fire (s : State) {a : Act} (h : ∀ c slot, a ≠ .fire c slot) : s.yields a = false := by
  cases a with
  | fire c slot => exact absurd rfl (h c slot)
  | _ => rfl

theorem State.zeroRun_of_not_fire (s : State) {a : Act} (h : ∀ c slot, a ≠ .fire c slot) : s.zeroRun a = none := by
  cases a with
  | fire c slot => exact absurd rfl (h c slot)
  | _ => rfl

section
variable {s : State} {c : Coord} {slot : Nat} {f : Firing}

/-- A firing alone at its node has no rival. -/
theorem State.rivals_of_alone (f : Firing) (h : ∀ k g, k ≠ slot → (s.node c).slot k ≠ some g) : s.rivals c slot f = [] := by
  have hothers : ((s.node c).slots.zipIdx.filterMap fun x => if x.2 = slot then none else x.1.map fun g => (g, x.2)) = [] := by
    rw [List.filterMap_eq_nil_iff]
    rintro ⟨o, k⟩ hmem
    by_cases hk : k = slot
    · simp [hk]
    · have hslot : (s.node c).slot k = o := by
        simp [Node.slot, List.getD_eq_getElem?_getD, List.mem_zipIdx_iff_getElem?.mp hmem]
      cases o with
      | none => simp
      | some g => exact absurd hslot (h k g hk)
  unfold State.rivals
  simp only [hothers]
  split <;> rfl

theorem State.yields_of_alone (hslot : (s.node c).slot slot = some f) (h : ∀ k g, k ≠ slot → (s.node c).slot k ≠ some g) :
    s.yields (.fire c slot) = false := by
  simp [State.yields, hslot, State.rivals_of_alone f h]

theorem State.zeroRun_of_slot (hslot : (s.node c).slot slot = some f) :
    s.zeroRun (.fire c slot) = if f.tmask = 0 ∧ (kindOf c = .ce ∨ kindOf c = .nu) then some (c, slot, f.entry, f.ix + 1) else none := by
  simp [State.zeroRun, hslot]

end

/-! ## What a turn fetches -/

section
variable {s : State} (hready : s.ready = true)
include hready

theorem State.fetch_fire {c : Coord} {slot : Nat} {f : Firing} (h : Claims.Fetches s c slot f) :
    s.fetch (.fire c slot) = some ({ src := .node, words := [f.words.getD f.ix 0] }, { pos := c, slot := slot, region := f.region }) := by
  obtain ⟨hslot, hheld, hrun⟩ := h
  simp [State.fetch, hready, hslot, hheld, hrun]

theorem State.fetch_command {q : Nat} {ws : List Word} {more : List (List Word)} (hq : (s.queue q).fifo = ws :: more) :
    s.fetch (.command q) = some ({ src := .queue, words := ws }, { pos := mkCoord 0 0 0, queue := q }) := by
  simp [State.fetch, hready, hq]

theorem State.fetch_control {k : Nat} {r : Region} {w : Word} (hr : s.region k = some r) (hstat : r.stat = 2 ∨ r.stat = 3 ∨ r.stat = 5)
    (hcut : r.cut = none) (hfrozen : r.frozen = false) (habort : r.aborting = false) (hw : r.ccws[r.cc]? = some w) :
    s.fetch (.control k) = some ({ src := .control, words := [w] }, { pos := r.seqCoord, region := k }) := by
  simp [State.fetch, hready, hr, hstat, hcut, hfrozen, habort, hw]

end

/-- Settles O53: `step` by what its turn fetches, with a lemma for each clause. -/
theorem stepRunsTheDecoded : Obligations.StepRunsTheDecoded := by
  refine ⟨fun s => step_of_no_turns, fun s t rest hturns =>
    ⟨?idle, step_of_fetch_none hturns, ?decoded, fun r c => step_of_yields hturns,
     fun h => ⟨State.yields_of_not_fire _ h, State.zeroRun_of_not_fire _ h⟩, ?slot, ?zeroRest, ?fire, ?command, ?control⟩⟩
  case idle => exact fun hidle => congrArg (State.tick · t.cycles t.usec) (State.performCells_of_idle _ hidle)
  case decoded =>
    intro r c i hfetch hdec hwf hyields
    have hstep := step_of_fetch hturns hfetch hyields
    rw [State.execute_of_decode hdec hwf] at hstep
    exact ⟨hstep, fun hz => by rw [hstep]; exact (congrArg (zeroAfter · _) hz).trans (zeroAfter_none _)⟩
  case slot =>
    intro c slot f hact hslot
    rw [hact]
    exact ⟨State.yields_of_alone hslot, State.zeroRun_of_slot hslot⟩
  case zeroRest =>
    intro fuel u c slot f r x i hslot hfetch hdec hwf
    simp only [State.zeroRest, hslot, hfetch, and_self, if_true, State.execute_of_decode hdec hwf] <;> rfl
  case fire =>
    intro c slot f hact hready h
    rw [hact]
    exact State.fetch_fire hready h
  case command =>
    intro q ws more hact hready hq
    rw [hact]
    exact State.fetch_command hready hq
  case control =>
    intro k r w hact hready hr hstat hcut hfrozen habort hw
    rw [hact]
    exact State.fetch_control hready hr hstat hcut hfrozen habort hw

end Sys2Proof.Machine
end

section
/-! SUPPORT. Two statements that the model refutes, each by one firing: how POISON reads an IMMF (R59, R471), and the writes that a close receipt
certifies (R353). -/

open Sys2Proof Sys2Proof.Machine Sys2Proof.Claims

namespace Sys2Proof.Refutations

/-- The machine at reset, but that the node at `pos` executes `f` in its slot 0. -/
def executing (pos : Coord) (f : Firing) : State :=
  ({ State.reset with cur := { pos := pos, region := f.region } } : State).modNode pos fun n => n.setSlot 0 (some f)

/-- A firing of one active lane at the word `w`, with a word behind it, so that it keeps its slot. -/
def oneLane (w : Word) : Firing := { oneFiring 1 w with words := [w, 0] }

/-! ## POISON of an IMMF -/

/-- POISON.F64 T0, ZERO, IMMF, where IMM16 is F16's 1. -/
def poisonByImmf : Niw := { bareNiw .f64 (.t 0) .zero .immf .none with imm := 0x3C00 }

/-- Its firing. -/
def poisonFiring : Firing := oneLane 0xFCB063DF00003C00

/-- A Compute Element executes it. -/
def poisoning : State := executing (elemCoord 0 0) poisonFiring

/-- The instruction is one that CFG accepts, and the firing's word encodes it. -/
theorem poisonFiring_reads : reads (poisonFiring.words.getD 0 0) (.poison poisonByImmf) ∧ (Instr.poison poisonByImmf).wf = true := ⟨rfl, rfl⟩

/-- The poison of the lanes of temporaries that the firing in the current slot has written. -/
def poisonWritten : Out → List Bool
  | .next t => (t.firing.map fun f => f.temps.map (·.2.2)).getD []
  | _ => []

/-- Refutes O21: POISON reads B as the N32 slot, which of an IMMF is bits 31 to 0 of TY's pattern (R471, log 69): of F64's 1 they are 0, and the
lane stays sound. The statement reads B as a value of N32, which is F32's pattern of 1 here, and asks for a poisoned lane. -/
theorem not_escrowInstructions : ¬ Obligations.EscrowInstructions := by
  rintro ⟨hcompletes, -⟩
  have hruns : Runs poisoning poisonFiring := by unfold Runs; decide +kernel
  have hroom : Room poisoning poisonFiring poisonByImmf poisonByImmf.ty.isWide := rfl
  obtain ⟨-, -, -, -, hpoison, -⟩ := hcompletes poisonByImmf poisoning poisonFiring hruns
  have hsame := congrArg poisonWritten (hpoison hroom)
  have hexec : poisonWritten (exec (.poison poisonByImmf) poisoning) = [false] := by decide +kernel
  rw [hexec] at hsame
  exact absurd hsame (by decide +kernel)

/-! ## The writes that SCLOSE's receipt certifies -/

/-- SCLOSE #0. -/
def closeFirst : Niw := bareNiw (Ty.ofCode 0) .none .none .none .none

/-- Its firing. -/
def closeFiring : Firing := oneLane 0xA20FFFFF00000000

theorem closeFiring_reads : reads (closeFiring.words.getD 0 0) (.sclose closeFirst) ∧ (Instr.sclose closeFirst).wf = true := ⟨rfl, rfl⟩

/-- A stream of one element of G-space at scope CL, with its receipts on RW4 (R74). -/
def clStream : List Word := [BitVec.ofNat 64 (2 ^ 62 + 4 * 2 ^ 48 + 65536), 0, 0, 0]

theorem clStream_ok : sdOk clStream = true := by decide +kernel

/-- A line that stream 0 of the element's context 0 has written: at CL it is performed in the write buffer, and drains later (R226, log 91). -/
def streamEntry : WbEntry :=
  { id := 0, line := 0x2000, bytes := [(0x100000, 7)], last := 0, region := 1, dev := false, draining := false, sys := false,
    writers := [(elemCoord 1 0, 0, 0, 0)] }

/-- A Memory Element closes its open stream 0, and the line stands in its cluster's write buffer. -/
def closing : State :=
  let me := elemCoord 1 0
  (((executing me closeFiring).modCtx me 0 fun x => { x with streams := [clStream] }).modMe me fun m =>
    { m with sst := m.sst.set (0, 0) (BitVec.ofNat 64 (2 ^ 63)) }).modCluster 0 fun c => { c with wb := [streamEntry] }

/-- Which entries of cluster 0's write buffer a sent receipt has certified. -/
def certifiedEntries : Out → List Bool
  | .next t => (t.cluster 0).wb.map (·.seen)
  | _ => []

/-- Refutes O17: sending its receipt, SCLOSE marks the writes of its context that are not yet at SYS as certified, for later releases (R353, log 90);
the state that the statement gives leaves them unmarked. -/
theorem not_streamInstructions : ¬ Obligations.StreamInstructions := by
  rintro ⟨hcontrol, -⟩
  have hruns : Runs closing closeFiring := by unfold Runs; decide +kernel
  obtain ⟨-, -, hclose, -⟩ := hcontrol closeFirst closing closeFiring hruns
  have hsame := congrArg certifiedEntries (hclose (by decide +kernel) (by decide +kernel) (by decide +kernel))
  have hexec : certifiedEntries (exec (.sclose closeFirst) closing) = [true] := by decide +kernel
  rw [hexec] at hsame
  exact absurd hsame (by decide +kernel)

end Sys2Proof.Refutations
end

section
/-! SUPPORT. The instructions whose lanes depend on other lanes or on masks (R162, R163, R194 to R200, R209, R263). -/

open Sys2Proof Sys2Proof.Machine

namespace Sys2Proof.Claims

/-! ## Operand columns -/

theorem find_map_pair {α : Type} (ls : List Nat) (g : Nat → α) (l : Nat) :
    Table.find (ls.map fun j => (j, g j)) l = if ls.contains l then some (g l) else none := by
  induction ls with
  | nil => rfl
  | cons j js ih =>
    rw [List.map_cons, Table.find, List.contains_cons, ih]
    by_cases hj : j = l
    · simp [hj]
    · simp [hj, Ne.symm hj]

theorem column_eq_map_opA (s : State) (f : Firing) (n : Niw) :
    s.column n f n.ty 0 n.a = (f.active n.pred).map fun l => (l, opA s f n l) := rfl

section
variable {s : State} {f : Firing} {n : Niw}

/-! ## Values -/

/-- The lane that a lane move writes in lane `l`, when it takes lane `j` and its lane number carries the poison `psn` (R180, R196). -/
def movedLane (s : State) (f : Firing) (n : Niw) (j : Int) (psn : Bool) (l : Nat) : Lane :=
  let pp := f.predPoison n.pred
  if 0 ≤ j ∧ j < f.len then
    if bit (f.eff n.pred) j.toNat then { v := (opA s f n j.toNat).1, psn := (opA s f n j.toNat).2 || psn || pp l || pp j.toNat }
    else { v := 0, psn := psn || pp l || pp j.toNat }
  else { v := 0, psn := psn || pp l }

theorem movedLane_eq (j : Int) (psn : Bool) (l : Nat) :
    (if 0 ≤ j ∧ j < f.len then
      let p := psn || f.predPoison n.pred l || f.predPoison n.pred j.toNat
      if bit (f.eff n.pred) j.toNat then (l, ({ v := (opA s f n j.toNat).1, psn := (opA s f n j.toNat).2 || p } : Lane))
      else (l, { v := 0, psn := p })
    else (l, { v := 0, psn := psn || f.predPoison n.pred l })) = (l, movedLane s f n j psn l) := by
  simp only [movedLane, Bool.or_assoc, apply_ite (Prod.mk l)]

/-- The model computes the row's instruction as a result, which is the row's lane in every active lane. -/
def CrossComputes (s : State) (f : Firing) (n : Niw) (row : Instr × (Nat → Lane)) : Prop :=
  ∃ w g, exec row.1 s = s.result n (crossWide row.1) w g ∧ g f = (f.active n.pred).map fun l => (l, row.2 l)

theorem CrossComputes.ends {row : Instr × (Nat → Lane)} (hrow : CrossComputes s f n row) (h : Runs s f) (room : Room s f n (crossWide row.1)) :
    Ends row.1 s f n (crossWide row.1) ((f.active n.pred).map fun l => (l, row.2 l)) := by
  obtain ⟨w, g, hexec, hlanes⟩ := hrow
  rw [← hlanes]
  exact hexec.trans (h.result room w g)

/-- Each row is its instruction's own definition; the instructions that fold over an operand's column read it at the active lanes. -/
theorem crossComputes_of_mem_crossValues : ∀ row ∈ crossValues s f n, CrossComputes s f n row := by
  simp only [crossValues, List.forall_mem_cons, List.not_mem_nil, false_imp_iff, implies_true, and_true]
  refine ⟨⟨_, _, rfl, rfl⟩, ⟨_, _, rfl, ?shfl⟩, ⟨_, _, rfl, ?bcast⟩, ⟨_, _, rfl, ?lred⟩, ⟨_, _, rfl, ?lscan⟩, ⟨_, _, rfl, ?cnt⟩,
    ⟨_, _, rfl, rfl⟩, ⟨_, _, rfl, rfl⟩, ⟨_, _, rfl, rfl⟩, ⟨_, _, rfl, rfl⟩, ⟨_, _, rfl, rfl⟩, ⟨_, _, rfl, rfl⟩, ⟨_, _, rfl, rfl⟩,
    ⟨_, _, rfl, rfl⟩, ⟨_, _, rfl, ?amaxb⟩, ⟨_, _, rfl, rfl⟩, ⟨_, _, rfl, rfl⟩⟩
  case shfl | bcast => exact List.map_congr_left fun l _ => movedLane_eq _ _ l
  case lred | lscan | cnt | amaxb =>
    simp [column_eq_map_opA, List.filter_map, List.foldl_map, Function.comp_def]

theorem crossComputes_fred : CrossComputes s f n (.fred n, fun _ => fredLane s f n) := by
  refine ⟨_, _, rfl, ?_⟩
  simp only [column_eq_map_opA, fredLane, find_map_pair, List.map_map, List.any_map, Function.comp_def, apply_ite (Option.map _),
    Option.map_some, Option.map_none] <;> rfl

theorem crossLaneValues : CrossLaneValues :=
  ⟨fun _ _ _ row hrow h room => (crossComputes_of_mem_crossValues row hrow).ends h room,
   fun _ _ _ h room => crossComputes_fred.ends h room⟩

/-! ## Completion -/

/-- The table has a row for every cross-lane instruction but FRED, whose lane stands by itself. -/
theorem eq_fred_or_mem_crossValues {i : Instr} (hi : i ∈ crossInsns n) : i = .fred n ∨ ∃ row ∈ crossValues s f n, row.1 = i := by
  have hperm : List.Perm (crossInsns n) (.fred n :: (crossValues s f n).map (·.1)) :=
    List.perm_middle (l₁ := (crossInsns n).take 14) (l₂ := (crossInsns n).drop 15)
  exact (List.mem_cons.mp (hperm.mem_iff.mp hi)).imp_right List.mem_map.mp

theorem crossLaneCompletes : CrossLaneCompletes := by
  intro n i s f hi h room
  obtain ⟨row, hrow, rfl⟩ : ∃ row, CrossComputes s f n row ∧ row.1 = i := by
    rcases eq_fred_or_mem_crossValues hi with rfl | ⟨row, hrow, hi⟩
    · exact ⟨_, crossComputes_fred, rfl⟩
    · exact ⟨row, crossComputes_of_mem_crossValues row hrow, hi⟩
  exact ⟨_, hrow.ends h room, by simp [Function.comp_def]⟩

/-! ## LPACK -/

/-- LPACK with room for its result writes as many of the lowest lanes as there are active lanes (R198). -/
theorem Runs.exec_lpack (h : Runs s f) (room : Room s f n n.ty.isWide) :
    exec (.lpack n) s = .next (s.complete f n.d n.ty.isWide (2 ^ (f.active n.pred).length - 1)
      ((f.active n.pred).zipIdx.map fun x => (x.2, {
        v := (opA s f n x.1).1
        psn := (opA s f n x.1).2 || f.predPoison n.pred x.1 ||
          f.anyPredPoison n.pred fun j => !bit (f.eff n.pred) j && popcount (f.eff n.pred) j == x.2 }))) := by
  have hroom : s.roomFor s.cur.pos f n.d n.ty.isWide = true := room
  refine (h.withFiring _).trans ?_
  simp [hroom, h.not_skipped, column_eq_map_opA, List.zipIdx_map, Function.comp_def]

theorem reductionAndPacking : ReductionAndPacking := by
  refine ⟨fun n s f h room => ?lred, fun n s f h => h.withFiring _, fun n s f h room => ?lpack⟩
  case lred =>
    have hrow : (crossValues s f n)[3]'(by simp [crossValues]) ∈ crossValues s f n := List.getElem_mem _
    refine ⟨_, (crossComputes_of_mem_crossValues _ hrow).ends h room, by simp [Function.comp_def], ?_⟩
    simp only [List.forall_mem_map]
    exact fun l _ => rfl
  case lpack =>
    refine ⟨_, h.exec_lpack room, ?_, ?_⟩ <;> rw [List.map_map]
    · exact (List.zipIdx_map_snd 0 _).trans (List.range_eq_range' ..).symm
    · have hvals := congrArg (List.map fun l => (opA s f n l).1) (List.zipIdx_map_fst 0 (f.active n.pred))
      rw [List.map_map] at hvals
      exact hvals

end

/-- Settles O7: each row of the table is what its instruction computes. -/
theorem crossLaneInstructions : Obligations.CrossLaneInstructions :=
  ⟨crossLaneCompletes, crossLaneValues, reductionAndPacking⟩

end Sys2Proof.Claims
end

section
/-! SUPPORT. The Mint and the frames: what a grant gives (R146), ALLOC (R155) and FREE (R156). -/

open Sys2Proof Sys2Proof.Machine

namespace Sys2Proof.Claims

section
variable {s : State} {f : Firing} {n : Niw} {r : Region}

/-! ## The region of a firing -/

theorem withRegion_of_region (hr : s.region f.region = some r) (k : Region → Out) : s.withRegion f k = k r := by
  rw [State.withRegion, hr]

/-- An instruction that acts in its region acts on the firing and on the firing's region. -/
theorem Runs.withRegion (h : Runs s f) (hr : s.region f.region = some r) (k : Firing → Region → Out) :
    s.withFiring (fun f => s.withRegion f (k f)) = k f r :=
  (h.withFiring _).trans (withRegion_of_region hr _)

theorem region_id_of_region {k : Nat} (hr : s.region k = some r) : s.region r.id = some r := by
  have hid : r.id = k := by simpa using List.find?_some hr
  rw [hid, hr]

theorem Runs.not_patched (h : Runs s f) : f.patch = none := by
  obtain ⟨-, -, -, -, hpatch⟩ := h
  exact hpatch

theorem sinkNamesWait_of_not_mustWait (hwait : s.sinkMustWait f = false) (ls : List Nat) : s.sinkNamesWait f ls = false := by
  rw [State.sinkNamesWait, hwait, Bool.and_false]

/-! ## The Mint -/

/-- The Mint grants nothing where no request stands or the budget is spent (R146). -/
theorem serveHead_eq_none (hidle : r.requests = [] ∨ r.budget ≤ r.liveFrames) : s.serveHead r = none := by
  unfold State.serveHead
  rcases hidle with hnone | hspent
  · rw [hnone]
    split <;> rfl
  · rw [if_pos hspent]

theorem serveMint_of_idle (hr : s.region r.id = some r) (hidle : r.requests = [] ∨ r.budget ≤ r.liveFrames) (fuel : Nat) :
    s.serveMint r.id fuel = s := by
  cases fuel with
  | zero => rfl
  | succ fuel => rw [State.serveMint, hr, Option.bind_some, serveHead_eq_none hidle]

/-! ## ALLOC -/

/-- ALLOC whose earlier requests the Mint cannot serve: it is refused past the budget or behind a request, and takes its frames all or none. -/
theorem Runs.exec_alloc (h : Runs s f) (room : Room s f n false) (hr : s.region f.region = some r) (hact : f.active n.pred ≠ [])
    (hidle : r.requests = [] ∨ r.budget ≤ r.liveFrames) :
    exec (.alloc n) s =
      let k := (f.active n.pred).length
      let refused := s.teFault f n Cause.frameBudget 1 (r.liveFrames + k)
      if !r.requests.isEmpty || decide (r.budget < r.liveFrames + k) then refused
      else match r.grantMany n.imm.toNat k with
        | none => refused
        | some (r', fs) => .next ((s.modRegion r.id fun _ => r').complete f n.d false (f.eff n.pred)
            ((f.active n.pred).zipIdx.map fun x =>
              (x.1, { v := fs.getD x.2 0, psn := f.predPoison n.pred ((f.active n.pred).getD x.2 0) }))) := by
  have hroom : s.roomFor s.cur.pos f n.d false = true := room
  refine (h.withRegion hr _).trans ?_
  simp only [hroom, h.not_skipped, h.not_patched, List.isEmpty_eq_false_iff.mpr hact, serveMint_of_idle (region_id_of_region hr) hidle,
    withRegion_of_region hr, Bool.not_true, Bool.false_eq_true, if_false] <;> rfl

theorem allocTakesFrames : AllocTakesFrames := by
  intro n s f r r' fs h room hr hact hnone hbudget hgrants
  rw [h.exec_alloc room hr hact (.inl hnone)]
  simp [hnone, hgrants, Nat.not_lt.mpr hbudget]

theorem allocRefused : AllocRefused := by
  intro n s f r h room hr hact hbudget hidle
  rw [h.exec_alloc room hr hact hidle]
  simp [hbudget, State.teFault]

end

/-- Settles O10: both outcomes of ALLOC, where the Mint serves no earlier request. -/
theorem allocGrantsOrRefuses : Obligations.AllocGrantsOrRefuses := ⟨allocTakesFrames, allocRefused⟩

/-! ## A grant -/

theorem lowestFree_eq_some {r : Region} {f : Nat} (h : r.lowestFree = some f) :
    (r.frame f).state = 0 ∧ (∀ g, g < f → (r.frame g).state ≠ 0) ∧ f < 1024 := by
  obtain ⟨hfree, hlt, hbelow⟩ := List.find?_range_eq_some.mp h
  exact ⟨by simpa using hfree, fun g hg => by simpa using hbelow g hg, List.mem_range.mp hlt⟩

theorem grantIsLowestFree : GrantIsLowestFree := by
  intro r r' b f h
  unfold Region.grant at h
  cases hfree : r.lowestFree with
  | none =>
    rw [hfree] at h
    exact absurd h nofun
  | some g =>
    rw [hfree] at h
    obtain ⟨rfl, rfl⟩ := Prod.mk.inj (Option.some.inj h)
    obtain ⟨hstate, hbelow, hlt⟩ := lowestFree_eq_some hfree
    exact ⟨hstate, hbelow, hlt, Table.get_set_self .., rfl, fun k hk => Table.get_set_ne _ _ _ _ _ hk⟩

/-! ## FREE -/

theorem freeRetiresFrames : FreeRetiresFrames := by
  intro n s f r h hr hwait name sunk live gone hnamed
  refine (h.withRegion hr _).trans ?_
  have hcol : (s.column n f .n32 0 n.a).map (fun c => (c.1, c.2.1, c.2.2 || f.predPoison n.pred c.1)) =
      (f.active n.pred).map fun l => (l, (name l).1, sunk l) := by simp [State.column, name, sunk, Function.comp_def]
  have hbad : ((live.map fun l => (name l).1).eraseDups.find? fun x => !(decide (x < 1024) && (r.frame x).state == 1)) = none := by
    simpa using hnamed
  have hlive : (f.active n.pred).filter (fun l => !sunk l) = live := rfl
  have hgone : (f.active n.pred).filter (fun l => sunk l) = gone := rfl
  simp only [hcol, h.not_skipped, sinkNamesWait_of_not_mustWait hwait, List.filter_map, List.map_map, Function.comp_def, if_false,
    Bool.false_eq_true, hlive, hgone, hbad, List.map_id']

/-- Settles O11: the table that a grant writes, and FREE's frames, which are all in STATE 1. -/
theorem framesGrantedAndRetired : Obligations.FramesGrantedAndRetired := ⟨grantIsLowestFree, freeRetiresFrames⟩

end Sys2Proof.Claims
end

section
/-! SUPPORT. Tokens under other tags: EMIT, EMITT and ITER (R157 to R159). -/

open Sys2Proof Sys2Proof.Machine

namespace Sys2Proof.Claims

section
variable {s : State} {f : Firing} {n : Niw} {r : Region} {o : Fin 4}

theorem Runs.countIfSkipped (h : Runs s f) (t : State) : t.countIfSkipped n f = t := by
  rw [State.countIfSkipped, if_neg (by simp [h.not_skipped])]

/-- A firing that no answer of R449 bears on executes its instruction as it stands. -/
theorem Runs.unanswered (h : Runs s f) {skip patch act : Out} :
    (if f.skipped then skip else if f.patch.isSome then patch else act) = act := by
  simp [h.not_skipped, h.not_patched]

theorem proceeds_of_not_mustWait (hwait : s.sinkMustWait f = false) {ls : List Nat} {wait act : Out} :
    (if s.sinkNamesWait f ls then wait else act) = act := by
  simp [sinkNamesWait_of_not_mustWait hwait]

theorem emitMovesTheTag : EmitMovesTheTag := by
  intro n o s f r b hd h hr room hb hspace
  have hroom : s.roomFor s.cur.pos f (.o o) n.ty.isWide = true := hd ▸ room
  have hlegal : (0 : Int) ≤ b ∧ (b : Int) + f.len ≤ (r.space f.frame : Int) := ⟨Int.natCast_nonneg b, mod_cast hspace⟩
  refine (h.withRegion hr _).trans ?_
  simp only [hd, hroom, ← hb, hlegal, h.countIfSkipped, and_self, decide_true, Bool.not_true, Bool.false_and, Bool.false_eq_true, if_false,
    if_true, Int.toNat_natCast]

/-! ## Instructions that send in parts (R174) -/

theorem map_fst_filter_map_pair {α : Type} (ls : List Nat) (g : Nat → α) (p : Nat × α → Bool) :
    ((ls.map fun l => (l, g l)).filter p).map (·.1) = ls.filter fun l => p (l, g l) := by
  simp [List.filter_map, Function.comp_def]

theorem emittNamesTheTag : EmittNamesTheTag := by
  refine ⟨?sends, ?ends⟩
  case sends =>
    intro n o s f r l frame iter rest hd h hr hwait names hleft run ls hroom all u vs
    refine (h.withRegion hr _).trans (h.unanswered.trans ((proceeds_of_not_mustWait hwait).trans ?_))
    rw [hleft, hd]
    exact if_neg (by simp [hroom])
  case ends =>
    intro n s f r h hr hwait hnone all
    have hleft : ((f.active n.pred).map fun l => (l, s.named n f r l)).filter
        (fun x => decide (f.part ≤ x.1) && decide (x.2 ≠ .sunk)) = [] := by
      simp only [List.filter_eq_nil_iff, List.forall_mem_map]
      intro l hl
      rcases hnone l hl with hsunk | hpast
      · simp [hsunk]
      · simp [Nat.not_le.mpr hpast]
    refine (h.withRegion hr _).trans (h.unanswered.trans ((proceeds_of_not_mustWait hwait).trans ?_))
    rw [hleft]
    simp only [map_fst_filter_map_pair, Bool.and_true]
    rfl

/-- A run that starts within the count lies in the tag space that holds the count (R148, R159). -/
theorem iter_in_space {count space run k : Nat} (hspace : count ≤ space) :
    ¬ space < if k = 0 then count else if k * run < count then k * run + min run (count - k * run) else 0 := by
  split
  · omega
  · split <;> omega

theorem iterSendsTheSpace : IterSendsTheSpace := by
  intro n o s f r hd h hr hwait a b sunk left all
  have hvals : ((f.active n.pred).map fun l => (l, (a l).1, (b l).1, sunk l)).filter
      (fun v => decide (f.part / 2 ^ 13 ≤ v.1) && !v.2.2.2) = left.map fun l => (l, (a l).1, (b l).1, sunk l) := List.filter_map ..
  have hall : (((f.active n.pred).map fun l => (l, (a l).1, (b l).1, sunk l)).filter fun v => v.2.2.2).map (·.1) = all :=
    map_fst_filter_map_pair ..
  refine ⟨?sends, ?ends⟩
  case sends =>
    intro l rest hleft hroom hlive hspace k at' m u
    rw [hleft] at hvals
    refine (h.withRegion hr _).trans (h.unanswered.trans ((proceeds_of_not_mustWait hwait).trans ?_))
    rw [hvals, hall, hd]
    refine (if_neg (by simp [hlive])).trans ((if_neg (iter_in_space hspace)).trans ((if_neg (by simp [hroom])).trans ?_))
    by_cases hrun : at' < (a l).1
    · exact (if_pos hrun).trans (congrArg _ (if_pos hrun).symm)
    · exact (if_neg hrun).trans (congrArg _ (if_neg hrun).symm)
  case ends =>
    intro hleft
    rw [hleft] at hvals
    refine (h.withRegion hr _).trans (h.unanswered.trans ((proceeds_of_not_mustWait hwait).trans ?_))
    rw [hvals, hall]
    simp only [List.map_nil, Bool.and_true]

end

/-- Settles O12: each instruction by the lanes that it has left to send, and by the tag that it computes for the next of them. -/
theorem tokensUnderOtherTags : Obligations.TokensUnderOtherTags := ⟨emitMovesTheTag, emittNamesTheTag, iterSendsTheSpace⟩

end Sys2Proof.Claims
end

section
/-! SUPPORT. SPLIT, STEER and EOS (R160, R161, R164). -/

open Sys2Proof Sys2Proof.Machine

namespace Sys2Proof.Claims

/-! ## The pieces of a run -/

/-- The lanes of a piece, as first lane and number (R28, R160). -/
def rangeLanes (q : Nat × Nat) : List Nat := (List.range q.2).map (q.1 + ·)

/-- The tokens of the `i`th piece of a run. -/
def pieceRanges (wide : Bool) (piece len i : Nat) : List (Nat × Nat) :=
  let m := min piece (len - i * piece)
  if wide ∧ 16 < m then [(i * piece, 16), (i * piece + 16, m - 16)] else [(i * piece, m)]

theorem splitRanges_eq (wide : Bool) (piece len : Nat) :
    splitRanges wide piece len = (List.range (ceilDiv len piece)).flatMap (pieceRanges wide piece len) := rfl

/-- Two lists of lanes one behind the other are the lanes of their sum. -/
theorem rangeLanes_append (a m k : Nat) : rangeLanes (a, m) ++ rangeLanes (a + m, k) = rangeLanes (a, m + k) := by
  simp [rangeLanes, List.range_add, Nat.add_assoc]

theorem flatMap_pieceRanges (wide : Bool) (piece len i : Nat) :
    (pieceRanges wide piece len i).flatMap rangeLanes = rangeLanes (i * piece, min piece (len - i * piece)) := by
  unfold pieceRanges
  extract_lets m
  split
  next h =>
    obtain ⟨-, hlong⟩ := h
    rw [List.flatMap_cons, List.flatMap_singleton, rangeLanes_append, Nat.add_sub_cancel' (Nat.le_of_lt hlong)]
  next => exact List.flatMap_singleton ..

/-- The first `k` pieces' lanes are the run's first lanes. -/
theorem flatMap_pieces (wide : Bool) (piece len k : Nat) :
    ((List.range k).flatMap (pieceRanges wide piece len)).flatMap rangeLanes = List.range (min (k * piece) len) := by
  induction k with
  | zero => simp
  | succ k ih =>
    have hmin : min ((k + 1) * piece) len = min (k * piece) len + min piece (len - k * piece) := by rw [Nat.succ_mul]; omega
    rw [List.range_succ, List.flatMap_append, List.flatMap_append, ih, List.flatMap_singleton, flatMap_pieceRanges, hmin, List.range_add]
    rcases Nat.le_total (k * piece) len with hle | hge
    · rw [Nat.min_eq_left hle]
      rfl
    · simp [Nat.sub_eq_zero_of_le hge, rangeLanes]

theorem le_ceilDiv_mul {piece : Nat} (hpiece : 1 ≤ piece) (len : Nat) : len ≤ ceilDiv len piece * piece := by
  have hlast := Nat.lt_div_mul_add (a := len + piece - 1) hpiece
  unfold ceilDiv
  omega

theorem mul_lt_of_lt_ceilDiv {piece len i : Nat} (hpiece : 1 ≤ piece) (hi : i < ceilDiv len piece) : i * piece < len := by
  unfold ceilDiv at hi
  have hmul := Nat.mul_le_of_le_div _ _ _ (Nat.succ_le_of_lt hi)
  rw [Nat.succ_mul] at hmul
  omega

theorem mem_pieceRanges {wide : Bool} {piece len i : Nat} (hpiece : 1 ≤ piece) (hi : i * piece < len) (hshort : piece ≤ 32) {q : Nat × Nat}
    (hq : q ∈ pieceRanges wide piece len i) :
    1 ≤ q.2 ∧ q.2 ≤ (if wide then min piece 16 else piece) ∧ q.1 + q.2 ≤ len ∧
      (q.1 + q.2 < len → (q.1 + q.2) % piece = 0 ∨ q.2 = 16) := by
  unfold pieceRanges at hq
  extract_lets m at hq
  have hm : m = min piece (len - i * piece) := rfl
  have hend (h : i * piece + m < len) : (i * piece + m) % piece = 0 := by
    rw [show m = piece by omega, Nat.add_mod_right, Nat.mul_mod_left]
  clear_value m
  split at hq
  next h =>
    obtain ⟨hwide, hlong⟩ := h
    rw [if_pos hwide]
    rcases List.mem_cons.mp hq with rfl | hq
    · dsimp only
      exact ⟨by omega, by omega, by omega, fun _ => .inr rfl⟩
    · obtain rfl := List.mem_singleton.mp hq
      have hsum : i * piece + 16 + (m - 16) = i * piece + m := by omega
      dsimp only
      rw [hsum]
      exact ⟨by omega, by omega, by omega, fun h => .inl (hend h)⟩
  next h =>
    obtain rfl := List.mem_singleton.mp hq
    refine ⟨by dsimp only; omega, ?_, by dsimp only; omega, fun h => .inl (hend h)⟩
    dsimp only
    split
    next hwide => exact Nat.le_min.mpr ⟨by omega, Nat.not_lt.mp fun hlong => h ⟨hwide, hlong⟩⟩
    next => omega

theorem splitRanges_cover {wide : Bool} {piece len : Nat} (hpiece : 1 ≤ piece) :
    (splitRanges wide piece len).flatMap rangeLanes = List.range len := by
  rw [splitRanges_eq, flatMap_pieces, Nat.min_eq_right (le_ceilDiv_mul hpiece len)]

/-! ## Lanes and their masks -/

section
variable {s : State} {f : Firing} {n : Niw} {o : Fin 4}

theorem mem_active {p : Pred} {l : Nat} : l ∈ f.active p ↔ l < f.len ∧ bit (f.eff p) l = true := by
  simp [Firing.active, maskLanes]

/-- What an operand's column says of a lane: its value there, when the lane is active. -/
theorem any_column (ty : Ty) (use : Nat) (sel : Sel) (l : Nat) (p : PVal → Bool) :
    ((s.column n f ty use sel).any fun x => x.1 == l && p x.2) =
      (decide (l ∈ f.active n.pred) && p (s.readSel s.cur.pos f n ty use sel l)) := by
  rw [Bool.eq_iff_iff]
  simp only [State.column, List.any_map, List.any_eq_true, Function.comp_apply, Bool.and_eq_true, beq_iff_eq, decide_eq_true_eq]
  exact ⟨fun ⟨j, hj, hjl, hp⟩ => ⟨hjl ▸ hj, hjl ▸ hp⟩, fun ⟨hl, hp⟩ => ⟨l, hl, rfl, hp⟩⟩

theorem Runs.sendLanes (h : Runs s f) : s.sendLanes n f = (f.active n.pred).map fun l =>
    (l, { v := (opA s f n l).1, psn := (opA s f n l).2 || f.predPoison n.pred l }) := by
  simp only [State.sendLanes, h.not_skipped, h.not_patched, Bool.false_eq_true, if_false, State.column, List.map_map]
  rfl

theorem maskOf_congr {k : Nat} {p q : Nat → Bool} (h : ∀ l < k, p l = q l) : maskOf k p = maskOf k q :=
  List.foldr_rel (r := Eq) rfl fun l hl _ _ hacc => by rw [h l (List.mem_range.mp hl), hacc]

/-- The lanes that STEER sends where B is not zero (`c`), or where it is: the active lanes with that condition (R161). -/
theorem steer_mask (c : Bool) :
    (maskOf f.len fun l => bit (f.eff n.pred) l && (((s.column n f n.ty 1 n.b).any fun x => x.1 == l && nonZero n.ty x.2.1) == c)) =
      maskOf f.len fun l => bit (f.eff n.pred) l && (nonZero n.ty (s.readSel s.cur.pos f n n.ty 1 n.b l).1 == c) := by
  refine maskOf_congr fun l hl => ?_
  cases hbit : bit (f.eff n.pred) l with
  | false => rfl
  | true =>
    have hcond := any_column (s := s) (f := f) (n := n) n.ty 1 n.b l fun v => nonZero n.ty v.1
    rw [decide_eq_true (mem_active.mpr ⟨hl, hbit⟩), Bool.true_and] at hcond
    rw [hcond]

/-! ## SPLIT, STEER and EOS -/

theorem Runs.exec_split (h : Runs s f) (hd : n.d = .o o) {start m : Nat}
    (hnext : (splitRanges n.ty.isWide (if f.tmask = 0 then f.len else n.imm.toNat) f.len)[f.part]? = some (start, m))
    (hroom : s.room s.cur.pos f.ctx o 1 = true) :
    let ranges := splitRanges n.ty.isWide (if f.tmask = 0 then f.len else n.imm.toNat) f.len
    let t := s.enqueue s.cur.pos f.ctx o false false ((resultTok f n.ty.isWide (f.eff n.pred) (s.sendLanes n f)).sub start m)
    exec (.split n) s = .next (if f.part + 1 < ranges.length then t.partDone (f.part + 1) else t.goOn) := by
  intro ranges t
  refine (h.withFiring _).trans ?_
  simp only [hnext, hd, hroom, h.countIfSkipped, Bool.not_true, Bool.false_eq_true, if_false]
  exact (apply_ite Host.Outcome.next ..).symm

theorem Runs.exec_eos (h : Runs s f) (hd : n.d = .o o) (hroom : s.room s.cur.pos f.ctx o 1 = true) :
    exec (.eos n) s = .next ((s.enqueue s.cur.pos f.ctx o false false
      (markerTok f.frame ((f.iter + f.len) % 4096) (n.imm.toNat % 2 ^ 13) (s.ctx s.cur.pos f.ctx).sf false)).goOn) := by
  refine (h.withFiring _).trans ?_
  rw [hd, h.not_skipped]
  exact if_neg (by simp [hroom])

end

/-- Settles O13: SPLIT by the next of the run's pieces, which cover the run, STEER by its two masks, EOS by its marker. -/
theorem splitSteerEos : Obligations.SplitSteerEos := by
  refine ⟨fun n o s f hd h => ?split, fun wide piece len hpiece hshort _ => ?ranges, fun n o s f hd h hroom => ?steer,
    fun n o s f hd h hroom => h.exec_eos hd hroom⟩
  case split => exact fun start m hnext hroom => h.exec_split hd hnext hroom
  case ranges =>
    refine ⟨splitRanges_cover hpiece, fun q hq => ?_⟩
    obtain ⟨i, hi, hq⟩ := List.mem_flatMap.mp (splitRanges_eq .. ▸ hq)
    exact mem_pieceRanges hpiece (mul_lt_of_lt_ceilDiv hpiece (List.mem_range.mp hi)) hshort hq
  case steer =>
    intro b a eff ls tok
    refine (h.withFiring _).trans ?_
    rw [hd]
    refine (if_neg (by simp [hroom])).trans ?_
    have hls : ((s.sendLanes n f).map fun x => (x.1, { x.2 with
        psn := x.2.psn || (s.column n f n.ty 1 n.b).any fun y => y.1 == x.1 && y.2.2 })) = ls := by
      rw [h.sendLanes, List.map_map]
      refine List.map_congr_left fun l hl => ?_
      simp only [Function.comp_apply, any_column, hl, decide_true, Bool.true_and]
      rfl
    have hyes := steer_mask (s := s) (f := f) (n := n) true
    have hno := steer_mask (s := s) (f := f) (n := n) false
    simp only [beq_true, beq_false] at hyes hno
    simp only [hls, h.countIfSkipped, hyes, hno, tok, b, beq_true, beq_false]
    rfl

end Sys2Proof.Claims
end

section
/-! SUPPORT. Party sets (R165 to R168) and DEPTH (R169). -/

open Sys2Proof Sys2Proof.Machine

namespace Sys2Proof.Machine

theorem State.oweParty_cur (s : State) (f : Firing) (rw : Nat) : (s.oweParty f rw).cur = s.cur := by
  unfold State.oweParty
  split <;> rfl

theorem State.meterHome_cur (s : State) (part : Option Nat) (events transfers : Nat) : (s.meterHome part events transfers).cur = s.cur := by
  unfold State.meterHome
  split <;> rfl

theorem State.clean_cur (s : State) (part : Option Nat) (l : Nat) : (s.clean part l).cur = s.cur := by
  unfold State.clean
  split
  · exact State.meterHome_cur ..
  · rfl

theorem State.writeThrough_cur (s : State) (part : Option Nat) (hit : TierLine → Bool) : (s.writeThrough part hit).cur = s.cur := by
  unfold State.writeThrough
  exact foldl_keep State.cur (fun s (t : TierLine) => s.clean part t.line) (fun s t => s.clean_cur part t.line) _ s

theorem State.markWrites_cur (s : State) (p : List (Coord × Nat × Nat × Nat) → Bool × Bool → Bool × Bool) :
    (s.markWrites p).cur = s.cur := rfl

theorem State.released_cur (s : State) (f : Firing) (scope : Nat) : (s.released f scope).cur = s.cur := by
  unfold State.released
  rw [State.markWrites_cur]
  split
  · exact State.writeThrough_cur ..
  · rfl

end Sys2Proof.Machine

namespace Sys2Proof.Claims

section
variable {s : State} {f : Firing} {n : Niw} {r : Region}

/-- A party instruction of a firing that names a set of its region acts on that set (R166). -/
theorem Runs.party (h : Runs s f) {act : State → Firing → Region → Nat → PartySet → Sum (Nat × Nat) State} {t : State}
    (hr : s.region f.region = some r) (hk : (s.readSel s.cur.pos f n .n32 0 n.a 0).1 < r.parties)
    (hact : act s f r (s.readSel s.cur.pos f n .n32 0 n.a 0).1 (r.pset (s.readSel s.cur.pos f n .n32 0 n.a 0).1) = .inr t) :
    s.party n act = .next t := by
  refine (h.withRegion hr _).trans ?_
  simp only [h.not_skipped, Nat.not_le.mpr hk, Bool.false_eq_true, if_false, hact]

end

/-- The scope that JOINP asks for is the set's, when the set has no member or has that scope (R166). -/
theorem joinScope_eq {p : PartySet} {scope : Nat} (h : p.members = [] ∨ scope = p.scope) :
    (if p.members.isEmpty then scope else p.scope) = scope := by
  rcases h with hnone | hsame
  · rw [hnone, List.isEmpty_nil, if_pos rfl]
  · rw [← hsame, ite_self]

theorem not_contains_eq_false {p : PartySet} {frame : Nat} (h : frame ∈ p.members) : (!p.members.contains frame) = false := by
  simpa using h

theorem any_arrived_eq_true {p : PartySet} {frame : Nat} (h : ∃ a ∈ p.arrived, a.1 = frame) :
    (p.arrived.any fun a => a.1 == frame) = true := by
  simpa using h

theorem any_arrived_eq_false {p : PartySet} {frame : Nat} (h : ∀ a ∈ p.arrived, a.1 ≠ frame) :
    (p.arrived.any fun a => a.1 == frame) = false := by
  simpa using h

theorem partyOperations : PartyOperations := by
  intro n s f r h hr
  dsimp only
  intro hk
  refine ⟨fun hscope => ?joins, fun hmember hready => ?arrives, fun hmember hnew => ?leaves, fun hmember hin => ?waits⟩
  case joins =>
    change execJoinp n s = _
    refine h.party hr hk ?_
    simp only [joinScope_eq hscope, ne_eq, not_true_eq_false, if_false]
    rfl
  case arrives =>
    change (_ → execBarr n s = _) ∧ (_ → execBarr n s = _)
    refine ⟨fun hnew => h.party hr hk ?_, fun hin => h.party hr hk ?_⟩
    · simp only [not_contains_eq_false hmember, hready, any_arrived_eq_false hnew, Bool.false_eq_true, if_false]
    · simp only [not_contains_eq_false hmember, hready, any_arrived_eq_true hin, Bool.false_eq_true, if_false, if_true, State.oweParty_cur,
        State.released_cur]
  case leaves =>
    change execLeavep n s = _
    refine h.party hr hk ?_
    simp only [not_contains_eq_false hmember, any_arrived_eq_false hnew, Bool.false_eq_true, if_false]
  case waits =>
    change execLeavep n s = _
    refine h.party hr hk ?_
    simp only [not_contains_eq_false hmember, any_arrived_eq_true hin, Bool.false_eq_true, if_false, if_true]

theorem depthPends : DepthPends := by
  intro n s f p ha h d rw hfits
  refine (h.withFiring _).trans ?_
  rw [ha]
  exact (if_neg (by simp [h.not_skipped])).trans (if_neg (Nat.not_lt.mpr hfits))

/-- Settles O14: a party instruction by its act on its set, DEPTH by its bound. -/
theorem partyAndDepth : Obligations.PartyAndDepth := ⟨partyOperations, depthPends⟩

end Sys2Proof.Claims
end

section
/-! SUPPORT. QNT: a block's scale token and its value token (R261). -/

open Sys2Proof Sys2Proof.Machine

namespace Sys2Proof.Machine

theorem State.raise_cur (s : State) (pos : Coord) (k fl : Nat) : (s.raise pos k fl).cur = s.cur := by
  unfold State.raise
  split
  · rfl
  · exact State.modCtx_cur ..

end Sys2Proof.Machine

namespace Sys2Proof.Claims

/-- Settles O8: with room for two tokens, an unskipped QNT enters both in one step, and the flags that it raises before leave the slot that goes on
the same. A zero effective mask is no case of its own: the model sends both tokens with it (log 98). -/
theorem quantisedBlock : Obligations.QuantisedBlock := by
  intro n o s f hd h hroom
  dsimp only
  refine (h.withFiring _).trans ?_
  simp only [hd, hroom, h.not_skipped, Bool.not_true, Bool.false_eq_true, if_false, State.raise_cur]
  rfl

end Sys2Proof.Claims
end

section
/-! SUPPORT. The Copy Engine's events: an instance starts, performs a piece, or appends a tile (R278, R281, R295). -/

open Sys2Proof Sys2Proof.Machine

namespace Sys2Proof.Claims

section
variable {s : State} {e : Ev} {r : Region} {j : Job}

theorem At.withEv (h : At s e) (k : Ev → Out) : s.withEv k = k e := by
  rw [State.withEv, show s.cur.arg = .ev e from h]

/-- An event that names a running instance without a record to post acts on that instance, where the engine goes (R281, R283). -/
theorem At.withJob (h : At s e) (hj : ((s.copy e.pos).jobs.find? fun j => j.id == e.i.toNat && j.running) = some j) (hdue : j.due = none)
    (hr : s.region j.region = some r) (hgoes : s.engineGoes e.pos r = true) (k : Coord → Region → Job → Out) : s.withJob k = k e.pos r j := by
  refine (h.withEv _).trans ?_
  simp [hj, hr, hgoes, hdue]

/-- The record of a multicast's failed destinations does not hold up the piece (R289). -/
theorem mcast_proceeds {fails : List (Nat × Nat)} (hroom : j.lastMcast = true → fails ≠ [] → s.canPost r.part = true) :
    (j.lastMcast && !fails.isEmpty && !s.canPost r.part) = false := by
  cases hlast : j.lastMcast with
  | false => rfl
  | true =>
    cases fails with
    | nil => rfl
    | cons x xs => simp [hroom hlast nofun]

theorem lastMcast_of_opc_ne (hopc : j.c.opc ≠ 0xb3) : j.lastMcast = false := by
  simp [Job.lastMcast, hopc]

end

/-- Settles O44: the start by the instance that the search finds; each other clause by the instance that its event names. -/
theorem copyEngineActs : Obligations.CopyEngineActs := by
  intro s e h
  refine ⟨fun r j hfirst => ?starts, fun j r hj hdue hr hgoes => ⟨fun o hA hB hroom hpiece hbad => ?piece,
    fun t x bad hB hfree htile hbad => ?column, fun t x bad hA hfifo hearlier htile hbad => ?appends, fun x hM hA hB hpiece => ?faults⟩⟩
  case starts =>
    refine (h.withEv _).trans ?_
    simp only [hfirst]
    exact (apply_ite Host.Outcome.next ..).symm
  case piece =>
    change execEvCpPiece s = _
    rw [execEvCpPiece, h.withJob hj hdue hr hgoes]
    simp only [hA, hB, if_false, mcast_proceeds hroom, hpiece, hbad, Bool.false_eq_true]
  case column =>
    change execEvCpPiece s = _
    rw [execEvCpPiece, h.withJob hj hdue hr hgoes]
    simp only [hB, hfree, htile, hbad, Nat.reduceEqDiff, ne_eq, not_true_eq_false, if_true, if_false, Bool.false_eq_true]
  case appends =>
    have hfirst : ((s.copy e.pos).jobs.any fun i => decide (i.id < j.id) && i.c.opc == 0xb6) = false := by simpa using hearlier
    change execEvAFifoAppend s = _
    rw [execEvAFifoAppend, h.withJob hj hdue hr hgoes]
    simp [hA, Nat.not_le.mpr hfifo, hfirst, htile, hbad]
  case faults =>
    change execEvCpPiece s = _
    rw [execEvCpPiece, h.withJob hj hdue hr hgoes]
    simp [hA, hB, lastMcast_of_opc_ne hM, hpiece]

end Sys2Proof.Claims
end

section
/-! SUPPORT. A statement that the model refutes by one firing: which instances stand in the Copy Engine's queue behind an instruction (R273, R299). -/

open Sys2Proof Sys2Proof.Machine Sys2Proof.Claims

namespace Sys2Proof.Refutations

/-- A card of an opcode (R76): one row of 64 bytes of G-space, copied 65,536 bytes on. -/
def rowCard (opc : Nat) : List Word :=
  [BitVec.ofNat 64 (opc * 2 ^ 56), BitVec.ofNat 64 (2 ^ 62), BitVec.ofNat 64 (2 ^ 62 + 65536), 64, 0, 0, 0, 0xFFFFFFFF00000000]

theorem rowCard_ok : cardOk 0 (rowCard 0xB0) = true ∧ cardOk 0 (rowCard 0xBB) = true := by decide +kernel

/-- FPDECL J0, ZERO, ZERO. -/
def declare : Niw := bareNiw (Ty.ofCode 0) .none .zero .zero .none

/-- Its firing. -/
def declareFiring : Firing := oneLane 0xBB0FE31F00000000

theorem declareFiring_reads : reads (declareFiring.words.getD 0 0) (.fpdecl declare) ∧ (Instr.fpdecl declare).wf = true := ⟨rfl, rfl⟩

/-- A CPY in the queue, with issue number 1. -/
def queuedCopy : Job :=
  { id := 1, op := 9, region := 1, ctx := 0, frame := 0, iter := 0, len := 1, pmask := 0, lmask := 1, opc := 0xB0, seqix := 0, lane := 0,
    card := rowCard 0xB0, src := 0, dst := 0, cnt := 64 }

/-- The Copy Engine of cluster 0. -/
def engine : Coord := clusterNode 0 4

/-- The Copy Engine executes the FPDECL. Its next numbers are 0, for the instruction, and 1, for the instance, which the queued CPY has too. -/
def declaring : State :=
  (({ executing engine declareFiring with regions := [oneRegion 1] } : State).modCtx engine 0 fun x => { x with slots := [rowCard 0xBB] }).modCopy
    engine fun y => { y with jobs := [queuedCopy] }

/-- The queue after the step. -/
def queued : Out → List Job
  | .next t => (t.copy engine).jobs
  | _ => []

/-- Refutes O20: an FPDECL that waits for nothing completes at once (R299), and the model takes it out of the queue by its issue number, so the CPY
of that number, which has a piece to perform, leaves with it; the statement keeps the CPY. R273's numbering in issue order keeps
issue numbers apart, but the statement has no such premise. -/
theorem not_copyIssues : ¬ Obligations.CopyIssues := by
  intro h
  have hruns : Runs declaring declareFiring := by unfold Runs; decide +kernel
  obtain ⟨t, js, hnext, -, -, hjobs⟩ := h declare (.fpdecl declare) declaring declareFiring (oneRegion 1) (by simp [copyInsns]) hruns rfl rfl
    (by decide +kernel) (by decide +kernel) (by decide +kernel) (fun _ => by decide +kernel) (by decide +kernel)
  have hkeeps : queuedCopy ∈ ((declaring.copy engine).jobs ++ js).filter fun j => j.c.pieces != 0 :=
    List.mem_filter.mpr ⟨List.mem_append_left _ (by decide +kernel), by decide +kernel⟩
  have hmem : queuedCopy ∈ queued (exec (.fpdecl declare) declaring) := by
    rw [hnext]
    exact (List.mem_filter.mp (hjobs ▸ hkeeps)).1
  have hempty : queued (exec (.fpdecl declare) declaring) = [] := by decide +kernel
  rw [hempty] at hmem
  exact absurd hmem List.not_mem_nil

end Sys2Proof.Refutations
end

section
/-! SUPPORT. A Matrix Node's instructions issue (R321, R324 to R332). -/

open Sys2Proof Sys2Proof.Machine

namespace Sys2Proof.Claims

section
variable {n : Niw} {s : State} {f : Firing} {r : Region} {ws : List Word} {ops : List (Ty × Sel)}

theorem MnRuns.mnOpOf_eq (h : MnRuns s f r n ws) (work : MnWork) (rw : Nat) : mnOpOf s n f work rw = mnOp s f n ws work rw := by
  simp only [Machine.mnOpOf, h.mnWords, mnOp]

theorem mnOpOf_modBuf (s : State) (n : Niw) (f : Firing) (b : Nat) (g : MnBuf → MnBuf) (work : MnWork) (rw : Nat) :
    Machine.mnOpOf (s.modBuf s.cur.pos b g) n f work rw = Machine.mnOpOf s n f work rw := by
  simp [Machine.mnOpOf, State.mnWords, State.modBuf, State.ctx, State.node]

theorem operands_sound_pair {ta tb : Ty} {a b : Sel} {l : Nat} (ha : (s.readSel s.cur.pos f n ta 0 a l).2 = false)
    (hb : (s.readSel s.cur.pos f n tb 1 b l).2 = false) : (operands s f n [(ta, a), (tb, b)] l).any (·.2) = false := by
  simp [operands, ha, hb]

/-- An instruction that names a filled configuration slot acts on its configuration and on sound operands. -/
theorem MnRuns.mnSlot (h : MnRuns s f r n ws) (hsound : (operands s f n ops f.laneA).any (·.2) = false)
    (k : Firing → Region → MnCfg → List Nat → Out) :
    s.mnSlot ops n false k = k f r (mnCfgOf ws) ((operands s f n ops f.laneA).map (·.1)) := by
  refine (h.runs.withFiring _).trans ?_
  simp only [h.mnWords, h.isEmpty_words, Bool.false_eq_true, if_false]
  exact h.runs.mnInsn h.region h.active hsound ..

/-- An instruction that a zero mask does not suppress reads its operands in lane 0 (R321). -/
theorem MnRuns.mnSlot_laneZero (h : MnRuns s f r n ws) (hsound : (operands s f n ops 0).any (·.2) = false)
    (k : Firing → Region → MnCfg → List Nat → Out) :
    s.mnSlot ops n true k = k f r (mnCfgOf ws) ((operands s f n ops 0).map (·.1)) := by
  have hvs : (ops.zipIdx.map fun q => s.readSel s.cur.pos f n q.1.1 q.2 q.1.2 0).any (·.2) = false := hsound
  refine (h.runs.withFiring _).trans ?_
  simp only [h.mnWords, h.isEmpty_words, Bool.false_eq_true, if_false, State.mnInsn, State.withRegion, h.runs.withFiring, h.region,
    h.runs.not_skipped, Bool.not_true, Bool.false_and, if_true, hvs]
  rfl

/-- A run within its configuration's rows and its frame's tag space issues when a run slot is free (R325). -/
theorem MnRuns.mnStart (h : MnRuns s f r n ws) {c : MnCfg} {port : Option PortIn} {i0 rows k : Nat} (hrow : i0 < c.nr) (hpos : 1 ≤ rows)
    (hmax : rows ≤ 4096) (hspace : bit n.opt.toNat 1 = true → c.reach rows ≤ r.space f.frame)
    (hfree : [0, 1, 2, 3].find? (fun k => !((s.matrix s.cur.pos).ops.filterMap fun o =>
      match o.work with | .run .. => some o.runSlot | _ => none).contains k) = some k) :
    s.mnStart n f c port i0 rows = .next (mnIssued s f
      { mnOp s f n ws (.run port (bit n.opt.toNat 1) (c.dit || bit (s.matrix s.cur.pos).dit f.ctx) i0 rows 0 0) c.rrw with runSlot := k } rows) := by
  have hfits : (bit n.opt.toNat 1 && decide (r.space f.frame < c.reach rows)) = false := by
    cases hout : bit n.opt.toNat 1 with
    | false => rfl
    | true => simpa using hspace hout
  simp only [State.mnStart, Nat.one_le_iff_ne_zero.mp hpos, Nat.not_le.mpr hrow, Nat.not_lt.mpr hmax, h.region, hfits, h.mnOpOf_eq,
    Bool.false_eq_true, if_false]
  split
  case h_1 hnone => exact absurd (hnone.symm.trans hfree) nofun
  case h_2 j hj =>
    obtain rfl : j = k := Option.some.inj (hj.symm.trans hfree)
    rfl

/-- Rows within the configuration's pass the limits (R327, R330). -/
theorem mnRows_of_within {c : MnCfg} {a b : Nat} (hrow : a < c.nr) (hpos : 1 ≤ b) (hmax : b ≤ c.nr) (k : Out) : s.mnRows f c a b k = k := by
  simp [State.mnRows, Nat.not_le.mpr hrow, Nat.not_lt.mpr hmax, Nat.one_le_iff_ne_zero.mp hpos]

/-- MNSAVE or MNREST of row slots that the accumulators have, at an aligned base whose lines are reached, issues (R332). -/
theorem MnRuns.mnMove (h : MnRuns s f r n ws) {write : Bool} {base : Nat} {ls : List (Nat × Bool)}
    (work : Nat → Nat → List (List (Nat × Bool)) → Nat → MnWork)
    (hbase : f.addrConst n.a = some (true, base)) (halign : base % 128 = 0) (hb : (laneA s f n .n32 0 n.b).2 = false)
    (hc : (laneA s f n .n32 1 n.c).2 = false) (hpos : 1 ≤ (laneA s f n .n32 1 n.c).1)
    (hmax : (laneA s f n .n32 0 n.b).1 + (laneA s f n .n32 1 n.c).1 ≤ 128)
    (hlines : s.mnLines r.part base (laneA s f n .n32 1 n.c).1 write = .inr ls) :
    s.mnMove n write work = .next (mnIssued s f { mnOp s f n ws (work (laneA s f n .n32 0 n.b).1 (laneA s f n .n32 1 n.c).1
      ((List.range (laneA s f n .n32 1 n.c).1).map fun j => (ls.drop (4 * j)).take 4) (n.opt.toNat / 32)) (n.opt.toNat % 8) with
      cfg0 := BitVec.ofNat 64 base, cfg1 := 0 } 0) := by
  have hvals : (operands s f n [(.n32, n.b), (.n32, n.c)] f.laneA).map (·.1) = [(laneA s f n .n32 0 n.b).1, (laneA s f n .n32 1 n.c).1] := rfl
  rw [State.mnMove, h.runs.mnInsn h.region h.active (operands_sound_pair hb hc)]
  simp only [hvals, List.getD_cons_zero, List.getD_cons_succ, hbase, halign, hlines, h.mnOpOf_eq, Nat.not_lt.mpr hmax,
    Nat.one_le_iff_ne_zero.mp hpos, ne_eq, not_true_eq_false, if_false]
  rfl

end

/-- Settles O25: each instruction acts on its configuration and its operands, and its range passes the checks. -/
theorem matrixIssues : Obligations.MatrixIssues := by
  intro n s f r ws h
  dsimp only
  refine ⟨?mnldb, fun hfree hchk => ?mnswap, fun k ha hb hrow hpos hmax hspace hslot => ?mnrun,
    fun k p i hc hi hlen ha hrow hspace hslot => ?mnrunP, fun ha hb hrow hpos hmax => ⟨?mnzero, fun he => ?mnscl, fun hspace => ?mnout⟩,
    fun base ls hbase halign hb hc hpos hmax => ⟨fun hlines => ?mnsave, fun hlines => ?mnrest⟩⟩
  case mnldb =>
    change execMnldb n s = _
    rw [execMnldb, h.mnSlot rfl, h.mnOpOf_eq]
    rfl
  case mnswap =>
    have hidle : ¬(((s.matrix s.cur.pos).holder (mnCfgOf ws).bsel).isSome = true ∨ ((s.matrix s.cur.pos).buf (mnCfgOf ws).bsel).st = 1) := by
      simp [hfree, hchk]
    change execMnswap n s = _
    rw [execMnswap, h.mnSlot rfl]
    simp only [hidle, if_false]
    by_cases hheld : ((s.matrix s.cur.pos).buf (mnCfgOf ws).bsel).st = 2
    · simp only [hheld, if_true, mnOpOf_modBuf, h.mnOpOf_eq]
      rfl
    · simp only [hheld, if_false, h.mnOpOf_eq]
      rfl
  case mnrun =>
    change execMnrun n s = _
    rw [execMnrun, h.mnSlot (operands_sound_pair ha hb)]
    exact h.mnStart hrow hpos hmax hspace hslot
  case mnrunP =>
    change execMnrunP n s = _
    rw [execMnrunP, h.mnSlot_laneZero (by simp [operands, ha])]
    simp only [hlen, hc, hi, ne_eq, not_true_eq_false, if_false]
    exact h.mnStart hrow (Nat.le_refl _) (by omega) hspace hslot
  case mnzero =>
    change execMnzero n s = _
    rw [execMnzero, h.mnSlot (operands_sound_pair ha hb)]
    simp only [h.mnOpOf_eq]
    exact mnRows_of_within hrow hpos hmax _
  case mnscl =>
    have hsound : (operands s f n [(.n32, n.a), (.n32, n.b), (.i32, n.c)] f.laneA).any (·.2) = false := by
      change ((laneA s f n .n32 0 n.a).2 || ((laneA s f n .n32 1 n.b).2 || ((laneA s f n .i32 2 n.c).2 || false))) = false
      simp [ha, hb, he]
    change execMnscl n s = _
    rw [execMnscl, h.mnSlot hsound]
    simp only [h.mnOpOf_eq]
    exact mnRows_of_within hrow hpos hmax _
  case mnout =>
    change execMnout n s = _
    rw [execMnout, h.mnSlot (operands_sound_pair ha hb)]
    simp only [h.mnOpOf_eq]
    exact (mnRows_of_within hrow hpos hmax _).trans (if_neg (Nat.not_lt.mpr hspace))
  case mnsave => exact h.mnMove (fun b c l sc => .save b c 0 l sc) hbase halign hb hc hpos hmax hlines
  case mnrest => exact h.mnMove (fun b c l sc => .rest b c 0 l sc) hbase halign hb hc hpos hmax hlines

end Sys2Proof.Claims
end

section
/-! SUPPORT. What the row-slot instructions of a Matrix Node do to a row: the accumulators' rows and poison flags, bytes written to memory, and the
events of units at home slices (R49, R327, R332, R346). -/

open Sys2Proof Sys2Proof.Machine Sys2Proof.Claims

namespace Sys2Proof.Machine

/-! ## Rows of the accumulators -/

theorem Table.get_erase_self {κ α : Type} [DecidableEq κ] (t : Table κ α) (d : α) (k : κ) : (Table.erase t k).get d k = d := by
  induction t with
  | nil => rfl
  | cons x t ih => by_cases h : x.1 = k <;> simp_all [Table.erase, Table.get]

theorem Table.get_erase_ne {κ α : Type} [DecidableEq κ] (t : Table κ α) (d : α) {k j : κ} (h : j ≠ k) :
    (Table.erase t k).get d j = Table.get t d j := by
  induction t with
  | nil => rfl
  | cons x t ih =>
    by_cases hx : x.1 = k
    · simp_all [Table.erase, Table.get, Ne.symm h]
    · simp_all [Table.erase, Table.get]

@[simp] theorem Matrix.accRow_setPsn (m : Matrix) (k r : Nat) (p : Bool) : (m.setPsn r p).accRow k = m.accRow k := rfl

theorem Matrix.accRow_setRow_ne (m : Matrix) {k r : Nat} (l : List Half) (h : k ≠ r) : (m.setRow r l).accRow k = m.accRow k := by
  unfold Matrix.setRow Matrix.accRow
  split
  · exact Table.get_erase_ne _ _ h
  · exact Table.get_set_ne _ _ _ _ _ h

theorem Matrix.accRow_setRow_nil (m : Matrix) (r : Nat) : (m.setRow r []).accRow r = List.replicate 128 0 :=
  Table.get_erase_self ..

theorem getD_of_all_zero {l : List Half} (h : l.all (· == 0) = true) (i : Nat) : l.getD i 0 = 0 := by
  rw [List.getD_eq_getElem?_getD]
  cases hi : l[i]? with
  | none => rfl
  | some v => exact beq_iff_eq.mp (List.all_eq_true.mp h v (List.mem_of_getElem? hi))

/-- A row written reads back; a row of zeros is not listed, and what is not listed reads as 0. -/
theorem Matrix.getD_accRow_setRow (m : Matrix) (r i : Nat) (l : List Half) : ((m.setRow r l).accRow r).getD i 0 = l.getD i 0 := by
  unfold Matrix.setRow Matrix.accRow
  split
  next hzero => rw [Table.get_erase_self, getD_of_all_zero hzero, getD_of_all_zero (by decide)]
  next => rw [Table.get_set_self]

theorem bit_setBits_self (n i v : Nat) : bit (setBits n i 1 v) i = (v % 2 == 1) := by
  have hpos : 0 < 2 ^ i := Nat.two_pow_pos i
  have hdiv : setBits n i 1 v / 2 ^ i = v % 2 + 2 * (n / 2 ^ (i + 1)) := by
    have hsum : setBits n i 1 v = n % 2 ^ i + 2 ^ i * (v % 2 + 2 * (n / 2 ^ (i + 1))) := by
      rw [setBits, Nat.pow_one]
      generalize n / 2 ^ (i + 1) = q
      rw [Nat.pow_succ, Nat.mul_assoc, Nat.add_assoc, ← Nat.mul_add]
    rw [hsum, Nat.add_mul_div_left _ _ hpos, Nat.div_eq_of_lt (Nat.mod_lt _ hpos), Nat.zero_add]
  rw [bit, hdiv, Nat.add_mul_mod_self_left, Nat.mod_mod]

theorem Matrix.bit_apsn_setPsn (m : Matrix) (r : Nat) (p : Bool) : bit (m.setPsn r p).apsn r = p := by
  cases p <;> exact bit_setBits_self ..

theorem getD_map_zipIdx {row : List Half} {i : Nat} (hi : i < row.length) (g : Half × Nat → Nat × Nat) :
    ((row.zipIdx.map g).map fun x => BitVec.ofNat 32 x.1).getD i 0 = BitVec.ofNat 32 (g (row.getD i 0, i)).1 := by
  simp [List.getD_eq_getElem?_getD, hi]

theorem getD_rowOf {i : Nat} (hi : i < 128) (bs : List Byte) : (rowOf bs).getD i 0 = BitVec.ofNat 32 (ofBytes ((bs.drop (4 * i)).take 4)) := by
  simp [rowOf, List.getD_eq_getElem?_getD, hi]

/-! ## Bytes written (R5) -/

theorem Memory.read_of_lt {m : List Host.Cell} {lo x : Nat} (w : Memory.wfFrom lo m = true) (h : x < lo) : Memory.read m x = Memory.blank := by
  induction m generalizing lo with
  | nil => rfl
  | cons c m ih =>
    obtain ⟨a, b⟩ := c
    simp only [Memory.wfFrom, Bool.and_eq_true, decide_eq_true_eq] at w
    obtain ⟨⟨hlo, -⟩, w⟩ := w
    rw [Memory.read, if_neg (by omega), ih w (by omega)]

theorem Memory.read_write {m : List Host.Cell} {lo : Nat} (w : Memory.wfFrom lo m = true) (a : Nat) (b : Byte) (x : Nat) :
    Memory.read (Memory.write m a b) x = if a = x then b else Memory.read m x := by
  induction m generalizing lo with
  | nil =>
    unfold Memory.write
    split <;> simp_all [Memory.read]
  | cons c m ih =>
    obtain ⟨a', b'⟩ := c
    simp only [Memory.wfFrom, Bool.and_eq_true, decide_eq_true_eq] at w
    obtain ⟨-, w⟩ := w
    rcases Nat.lt_trichotomy a a' with hlt | rfl | hgt
    · have hblank : Memory.read ((a', b') :: m) a = Memory.blank := by
        rw [Memory.read, if_neg (by omega), Memory.read_of_lt w (by omega)]
      rw [Memory.write, if_pos hlt]
      by_cases hb : b = Memory.blank
      · rw [if_pos hb]
        split
        next hx => rw [← hx, hblank, hb]
        next => rfl
      · rw [if_neg hb]
        rfl
    · rw [Memory.write, if_neg (Nat.lt_irrefl _), if_pos rfl]
      by_cases hb : b = Memory.blank
      · rw [if_pos hb, Memory.read]
        split
        next hx => rw [← hx, Memory.read_of_lt w (by omega), hb]
        next => rfl
      · rw [if_neg hb, Memory.read, Memory.read]
        split <;> rfl
    · rw [Memory.write, if_neg (by omega), if_neg (by omega), Memory.read, Memory.read, ih w]
      split
      next hx => rw [if_neg (by omega)]
      next => rfl

theorem Memory.writeCells_append (m cs ds : List Host.Cell) :
    Memory.writeCells m (cs ++ ds) = Memory.writeCells (Memory.writeCells m cs) ds := by
  induction cs generalizing m with
  | nil => rfl
  | cons c cs ih => exact ih _

theorem stored_cons (c : Host.Cell) (cs : List Host.Cell) (x : Nat) :
    stored (c :: cs) x = (stored cs x).or (if c.1 = x then some c.2 else none) := by
  have hfold (r : Option Byte) : cs.foldl (fun r c => if c.1 = x then some c.2 else r) r = (stored cs x).or r := by
    induction cs generalizing r with
    | nil => simp [stored]
    | cons d cs ih =>
      change cs.foldl _ (if d.1 = x then some d.2 else r) = (cs.foldl _ (if d.1 = x then some d.2 else none)).or r
      rw [ih, ih]
      split <;> simp
  exact hfold _

/-- Each byte that is written reads as the last one written there (R5). -/
theorem Memory.read_writeCells {m : List Host.Cell} (w : Memory.wf m = true) (cs : List Host.Cell) (x : Nat) :
    Memory.read (Memory.writeCells m cs) x = (stored cs x).getD (Memory.read m x) := by
  induction cs generalizing m with
  | nil => rfl
  | cons c cs ih =>
    rw [Memory.writeCells, ih (Memory.wf_write _ _ _ w), Memory.read_write w, stored_cons]
    cases stored cs x <;> split <;> rfl

/-! ## Events of units at home slices (R345, R346) -/

@[simp] theorem State.meterHome_ops (s : State) (p : Option Nat) (e t : Nat) : (s.meterHome p e t).ops = s.ops := by
  unfold State.meterHome
  split <;> rfl
@[simp] theorem State.install_ops (s : State) (p : Option Nat) (l : Nat) (dirty : Bool) : (s.install p l dirty).ops = s.ops := by
  simp [State.install]
@[simp] theorem State.fill_ops (s : State) (p : Option Nat) (l : Nat) : (s.fill p l).ops = s.ops := by
  simp [State.fill]
@[simp] theorem State.useLine_ops (s : State) (p : Option Nat) (l : Nat) (write hit : Bool) : (s.useLine p l write hit).ops = s.ops := by
  unfold State.useLine
  (repeat' split) <;> simp
@[simp] theorem State.clean_ops (s : State) (p : Option Nat) (l : Nat) : (s.clean p l).ops = s.ops := by
  unfold State.clean
  split <;> simp
@[simp] theorem State.tagWrite_ops (s : State) (l : Nat) (atomic : Bool) : (s.tagWrite l atomic).1.ops = s.ops := rfl
@[simp] theorem State.oweTier_ops (s : State) (l : Nat) (ws : List (Coord × Nat × Nat × Nat)) (seen rel : Bool) :
    (s.oweTier l ws seen rel).ops = s.ops := by
  unfold State.oweTier
  split <;> rfl
@[simp] theorem State.readEvent_ops (s : State) (p : Option Nat) (l : Nat) (dev : Bool) : (s.readEvent p l dev).ops = s.ops := by
  unfold State.readEvent
  split <;> simp
@[simp] theorem State.writeEvent_ops (s : State) (p : Option Nat) (l : Nat) (dev through atomic count : Bool) (bytes : List Host.Cell) :
    (s.writeEvent p l dev through atomic count bytes).1.ops = s.ops := by
  simp only [State.writeEvent, State.tagWrite_ops, State.meterHome_ops]
  (repeat' split) <;> simp

theorem State.writeEvent_mem (s : State) (p : Option Nat) (l : Nat) (dev through atomic count : Bool) (bytes : List Host.Cell) :
    (s.writeEvent p l dev through atomic count bytes).1.mem = Memory.writeCells s.mem bytes := by
  simp only [State.writeEvent, State.tagWrite_mem, State.meterHome_mem]
  (repeat' split) <;> simp

/-- With no event that waits for a fill, a line is ready as it stands. -/
theorem State.lineReady_of_noFills {s : State} (h : NoFills s) (l : Nat) : s.lineReady l = s := by
  have hnone : (s.ops.find? fun o => o.todo.any fun q => q.line == l && q.filling) = none := by
    simp only [List.find?_eq_none, List.any_eq_true, not_exists, not_and]
    intro o ho q hq
    simp [h o ho q hq]
  rw [State.lineReady]
  simp only [hnone]

/-- Steps that each write their bytes, in turn, write them all. -/
theorem foldl_writeCells {α : Type} (f : State → α → State) (cells : α → List Host.Cell)
    (hstep : ∀ s x, NoFills s → (f s x).mem = Memory.writeCells s.mem (cells x) ∧ (f s x).ops = s.ops) (l : List α) {s : State} (h : NoFills s) :
    (l.foldl f s).mem = Memory.writeCells s.mem (l.flatMap cells) := by
  induction l generalizing s with
  | nil => rfl
  | cons x l ih =>
    obtain ⟨hmem, hops⟩ := hstep s x h
    have hx : NoFills (f s x) := by
      unfold NoFills
      rw [hops]
      exact h
    rw [List.foldl_cons, ih hx, hmem, List.flatMap_cons, Memory.writeCells_append]

theorem foldl_unitRead_mem (region : Nat) (l : List (Nat × Bool)) {s : State} (h : NoFills s) :
    (l.foldl (fun s x => s.unitRead (s.partFor region) (lineOf x.1) x.2) s).mem = s.mem := by
  induction l generalizing s with
  | nil => rfl
  | cons x l ih =>
    have hx : NoFills (s.unitRead (s.partFor region) (lineOf x.1) x.2) := by
      unfold NoFills State.unitRead
      rw [State.lineReady_of_noFills h, State.readEvent_ops]
      exact h
    rw [List.foldl_cons, ih hx, State.unitRead, State.lineReady_of_noFills h, State.readEvent_mem]

/-! ## The effect of a row -/

section
variable {s : State} {c : Coord} {o : MnOp} {a b n d x sc : Nat} {e : Int} {l : List (List (Nat × Bool))}

theorem State.rowEffect_zero (h : o.work = .zero a b x) :
    s.rowEffect c o d = some (s.modMatrix c fun m => m.zeroRow (o.cfg.row (a + d)), 0, false) := by
  simp only [State.rowEffect, h]

theorem State.rowEffect_scale (h : o.work = .scale a b x e) :
    let out := ((s.matrix c).accRow (o.cfg.row (a + d))).zipIdx.map fun x =>
      if x.2 < o.cfg.nc then scaleElem (o.cfg.tya == .i8) e x.1.toNat else (x.1.toNat, 0)
    s.rowEffect c o d = some (s.modMatrix c fun m => m.setRow (o.cfg.row (a + d)) (out.map fun x => BitVec.ofNat 32 x.1),
      out.foldl (fun f x => f ||| x.2) 0, false) := by
  simp only [State.rowEffect, h]

/-- MNSAVE of a sound row writes its image, or waits for its partition's budget. -/
theorem State.rowEffect_save (h : o.work = .save b n x l sc) (hpsn : bit (s.matrix c).apsn (b + d) = false) (hs : NoFills s) :
    let bs := rowBytes ((s.matrix c).accRow (b + d))
    (s.stalled (s.mnPart o) = true → s.rowEffect c o d = none) ∧
    (s.stalled (s.mnPart o) = false → ∃ t, s.rowEffect c o d = some (t, 0, false) ∧ t.mem = Memory.writeCells s.mem
      ((l.getD d []).zipIdx.flatMap fun p => cellsAt p.1.1 ((bs.drop (128 * p.2)).take 128))) := by
  refine ⟨fun hstall => ?waits, fun hgoes => ?writes⟩
  case waits => simp [State.rowEffect, h, hpsn, hstall]
  case writes =>
    simp only [State.rowEffect, h, hpsn, hgoes, Bool.false_eq_true, if_false]
    refine ⟨_, rfl, foldl_writeCells _ _ (fun s p hs => ⟨?_, ?_⟩) _ hs⟩
    · rw [State.oweTier_mem, State.unitWrite, State.lineReady_of_noFills hs, State.writeEvent_mem]
    · rw [State.oweTier_ops, State.unitWrite, State.lineReady_of_noFills hs, State.writeEvent_ops]

theorem State.isSome_rowHurt (s : State) (ps : List (Nat × Bool)) :
    (s.rowHurt ps).isSome = ps.any fun p => s.badLines.contains (lineOf p.1) := by
  simp [State.rowHurt]

/-- MNREST of a row gives it the image's values, with its flag by the image's lines, or waits for its partition's budget. -/
theorem State.rowEffect_rest (h : o.work = .rest b n x l sc) (hs : NoFills s) :
    let ps := l.getD d []
    let psn := ps.any fun p => s.badLines.contains (lineOf p.1)
    (s.stalled (s.mnPart o) = true → s.rowEffect c o d = none) ∧
    (s.stalled (s.mnPart o) = false → s.rowFull c o d = false → ∃ u : State, u.mem = s.mem ∧ s.rowEffect c o d =
      some (u.modMatrix c fun m => (m.setRow (b + d) (rowOf (ps.flatMap fun p => Memory.reads s.mem p.1 128))).setPsn (b + d) psn, 0, psn)) := by
  refine ⟨fun hstall => ?waits, fun hgoes hroom => ?reads⟩
  case waits => simp [State.rowEffect, h, hstall]
  case reads =>
    simp only [State.rowEffect, h, hgoes, hroom, Bool.false_eq_true, if_false, State.isSome_rowHurt, foldl_unitRead_mem _ _ hs]
    refine ⟨_, ?_, rfl⟩
    split <;> simp [foldl_unitRead_mem _ _ hs]

end

end Sys2Proof.Machine

namespace Sys2Proof.Claims

/-- Settles O27: the effect of a row by its instruction, and the row that the accumulators then hold. -/
theorem matrixRows : Obligations.MatrixRows := by
  intro s c o a b d e hs
  dsimp only
  refine ⟨fun x h => ?zero, fun x h hlen => ?scale, fun x n l sc h hstall => ?waits, fun x n l sc h hpsn hgoes hwf => ?save,
    fun x n l sc h hrow hgoes hroom => ?rest⟩
  case zero =>
    refine ⟨_, State.rowEffect_zero h, ?_, ?_, rfl, fun j hj => ?_⟩
    · rw [State.matrix_modMatrix]
      exact Matrix.accRow_setRow_nil ..
    · rw [State.matrix_modMatrix]
      exact Matrix.bit_apsn_setPsn ..
    · rw [State.matrix_modMatrix, Matrix.zeroRow, Matrix.accRow_setPsn, Matrix.accRow_setRow_ne _ _ hj]
  case scale =>
    refine ⟨_, _, State.rowEffect_scale h, rfl, fun i hi => ?_, fun j hj => ?_⟩
    · rw [State.matrix_modMatrix, Matrix.getD_accRow_setRow, getD_map_zipIdx (hlen ▸ hi)]
      split <;> simp
    · rw [State.matrix_modMatrix]
      exact Matrix.accRow_setRow_ne _ _ hj
  case waits =>
    rcases h with ⟨h, hpsn⟩ | h
    · exact (State.rowEffect_save h hpsn hs).1 hstall
    · exact (State.rowEffect_rest h hs).1 hstall
  case save =>
    obtain ⟨t, heffect, hmem⟩ := (State.rowEffect_save h hpsn hs).2 hgoes
    exact ⟨t, heffect, fun x => hmem ▸ Memory.read_writeCells hwf _ x⟩
  case rest =>
    obtain ⟨u, hmem, heffect⟩ := (State.rowEffect_rest h hs).2 hgoes hroom
    refine ⟨_, heffect, hmem, ?_, fun i hi => ?_⟩
    · rw [State.matrix_modMatrix]
      exact Matrix.bit_apsn_setPsn ..
    · rw [State.matrix_modMatrix, Matrix.accRow_setPsn, Matrix.getD_accRow_setRow, getD_rowOf hi]

end Sys2Proof.Claims
end

section
/-! SUPPORT. The Matrix Node's events: a row firing is admitted and retires, a hold is checked, a buffer is released (R308, R310, R313, R314, R316,
R317, R334). -/

open Sys2Proof Sys2Proof.Machine Sys2Proof.Claims

namespace Sys2Proof.Machine

/-! ## The sum of a column for I8 (R317) -/

theorem tileElem_of_not_bit {ty : Ty} {t : List Word} {j : Nat} (h : bit (tileMap t) j = false) : tileElem ty t j = 0 := by
  unfold tileElem
  cases hzf : tileZf t with
  | true => rfl
  | false =>
    rw [tileMap, hzf] at h
    simp only [Bool.false_eq_true, if_false] at h
    simp [h]

theorem bit_and (a b j : Nat) : bit (a &&& b) j = (bit a j && bit b j) := by
  have htest (x : Nat) : bit x j = x.testBit j := by
    rw [Nat.testBit_eq_decide_div_mod_eq]
    rfl
  simp only [htest, Nat.testBit_and]

/-- A sum over the places that a test keeps is the sum over all, when the others add nothing. -/
theorem foldl_filter_add (p : Nat → Bool) (f : Nat → Int) (h : ∀ j, p j = false → f j = 0) (l : List Nat) (t : Int) :
    (l.filter p).foldl (fun t j => t + f j) t = t + (l.map f).sum := by
  induction l generalizing t with
  | nil => simp
  | cons j l ih =>
    cases hp : p j with
    | true => rw [List.filter_cons_of_pos hp, List.foldl_cons, ih, List.map_cons, List.sum_cons, Int.add_assoc]
    | false => rw [List.filter_cons_of_neg (by simp [hp]), ih, List.map_cons, List.sum_cons, h j hp, Int.zero_add]

/-- Places outside both bitmaps' meet add no product (R285, R317). -/
theorem accInt_eq (a b : List Word) (old : Nat) :
    (accInt a b old).1 = wrap (max (-2 ^ 31) (min (2 ^ 31 - 1)
      (sx old 32 + ((List.range 64).map fun j => sx (tileElem .i8 a j) 8 * sx (tileElem .i8 b j) 8).sum))) 32 := by
  have hnone (j : Nat) (h : bit (tileMap a &&& tileMap b) j = false) : sx (tileElem .i8 a j) 8 * sx (tileElem .i8 b j) 8 = 0 := by
    rw [bit_and, Bool.and_eq_false_iff] at h
    rcases h with h | h <;> simp [tileElem_of_not_bit h, sx]
  simp only [accInt, maskLanes, foldl_filter_add _ _ hnone, Int.zero_add]
  rfl

/-! ## A row firing retires (R314) -/

/-- What a row firing makes of element `i` of its accumulator row, and the flags: columns outside the configuration stay (R316, R317). -/
def Matrix.retiredElem (m : Matrix) (o : MnOp) (w : MnRow) (i old : Nat) : Nat × Nat :=
  let b := (m.buf o.cfg.bsel).col i
  if i < o.cfg.nc then
    accColumn o.cfg.tya o.cfg.tyb w.tile b (fun q => if o.cfg.scfix then o.cfg.sca else w.scales.getD q 127)
      (fun q => if o.cfg.scfix then o.cfg.scb else tileScale b q) old
  else (old, 0)

/-- The elements of the accumulator row of a row firing that retires. -/
def Matrix.retired (m : Matrix) (o : MnOp) (w : MnRow) : List Half :=
  ((m.accRow w.slot).zipIdx.map fun x => m.retiredElem o w x.2 x.1.toNat).map fun x => BitVec.ofNat 32 x.1

section
variable {m : Matrix} {o : MnOp} {w : MnRow} {i old : Nat}

theorem Matrix.retiredElem_of_le (h : o.cfg.nc ≤ i) : (m.retiredElem o w i old).1 = old := by
  rw [Matrix.retiredElem, if_neg (Nat.not_lt.mpr h)]

theorem Matrix.retiredElem_int (h : i < o.cfg.nc) (hint : o.cfg.tya = .i8) :
    (m.retiredElem o w i old).1 = (accInt w.tile ((m.buf o.cfg.bsel).col i) old).1 := by
  rw [Matrix.retiredElem, if_pos h, accColumn, if_pos hint]

theorem Matrix.retiredElem_float (h : i < o.cfg.nc) (hfloat : o.cfg.tya ≠ .i8) :
    (m.retiredElem o w i old).1 = (accFloat ((List.range (tileBlocks o.cfg.tya)).map fun q =>
      blockSum o.cfg.tya o.cfg.tyb w.tile ((m.buf o.cfg.bsel).col i) (if o.cfg.scfix then o.cfg.sca else w.scales.getD q 127)
        (if o.cfg.scfix then o.cfg.scb else tileScale ((m.buf o.cfg.bsel).col i) q) q) old).1 := by
  rw [Matrix.retiredElem, if_pos h, accColumn, if_neg hfloat]

theorem Matrix.getD_retired (h : i < (m.accRow w.slot).length) :
    (m.retired o w).getD i 0 = BitVec.ofNat 32 (m.retiredElem o w i ((m.accRow w.slot).getD i 0).toNat).1 :=
  getD_map_zipIdx h _

end

theorem State.matrix_of_kept {s t : State} (h : t.kept = s.kept) (c : Coord) : t.matrix c = s.matrix c := by
  simp only [State.kept, Prod.mk.injEq] at h
  obtain ⟨-, -, -, -, -, -, -, -, hmatrices, -⟩ := h
  rw [State.matrix, hmatrices]
  rfl

theorem State.accRow_modMn (s : State) (c : Coord) (id r : Nat) (f : MnOp → MnOp) : ((s.modMn c id f).matrix c).accRow r = (s.matrix c).accRow r := by
  rw [State.modMn, State.matrix_modMatrix]
  rfl

/-- A row firing of a run without .OUT that is not the run's last changes its accumulator row only, and no memory. -/
theorem State.retireRow_run {s : State} {c : Coord} {w : MnRow} {o : MnOp} {port : Option PortIn} {dit : Bool} {i0 n k prog : Nat}
    (hop : (s.matrix c).op w.op = some o) (hwork : o.work = .run port false dit i0 n k prog) (hmore : prog + 1 ≠ n) :
    (s.retireRow c w).mem = s.mem ∧ ∀ r, ((s.retireRow c w).matrix c).accRow r =
      ((s.matrix c).setRow w.slot ((s.matrix c).retired o w)).accRow r := by
  simp only [State.retireRow, hop, hwork, hmore, Bool.false_eq_true, if_false]
  refine ⟨by simp, fun r => ?_⟩
  rw [State.matrix_of_kept (State.progress_kept ..), State.accRow_modMn, State.matrix_of_kept (State.repay_kept ..),
    State.matrix_of_kept (State.raise_kept ..), State.matrix_modMatrix]
  cases w.psn <;> rfl

/-! ## The columns that a hold checks (R309, R310) -/

/-- The first column from `lo` on whose tile fails, with its reason. -/
def MnBuf.firstFault (b : MnBuf) (c : MnCfg) (lo : Nat) : Option (Nat × Nat) :=
  (List.range c.nc).findSome? fun i => if i < lo then none else (tileFault c.tyb (b.col i)).map fun r => (i, r)

theorem MnBuf.firstFault_eq_none {b : MnBuf} {c : MnCfg} {lo : Nat} (h : ∀ i, i < c.nc → lo ≤ i → tileFault c.tyb (b.col i) = none) :
    b.firstFault c lo = none := by
  refine List.findSome?_eq_none_iff.mpr fun i hi => ?_
  split
  next => rfl
  next hlo => rw [h i (List.mem_range.mp hi) (Nat.le_of_not_lt hlo), Option.map_none]

theorem MnBuf.firstFault_eq_some {b : MnBuf} {c : MnCfg} {lo i reason : Nat} (hlo : lo ≤ i) (hi : i < c.nc)
    (hfault : tileFault c.tyb (b.col i) = some reason) (hfirst : ∀ k, lo ≤ k → k < i → tileFault c.tyb (b.col k) = none) :
    b.firstFault c lo = some (i, reason) := by
  refine List.findSome?_eq_some_iff.mpr ⟨List.range i, i, (List.range (c.nc - (i + 1))).map (i + 1 + ·), ?_, ?_, fun k hk => ?_⟩
  · rw [List.append_cons, ← List.range_succ, ← List.range_add, Nat.add_sub_cancel' hi]
  · rw [if_neg (Nat.not_lt.mpr hlo), hfault, Option.map_some]
  · split
    next => rfl
    next hk' => rw [hfirst k (Nat.le_of_not_lt hk') (List.mem_range.mp hk), Option.map_none]

end Sys2Proof.Machine

namespace Sys2Proof.Claims

/-- Settles O45: each event by the rule that its unit follows, a row that retires by the elements that its row firing gives. -/
theorem matrixNodeActs : Obligations.MatrixNodeActs := by
  intro s e h
  dsimp only
  have hchecks {x : Nat} (h : x = 1 ∨ x = 2) : ¬(x ≠ 1 ∧ x ≠ 2) := by omega
  refine ⟨fun o out dit i0 n k prog t sc psn hfirst => ⟨fun hwork hrow hsound p hplace => ?admits, fun hwork hrow reason hfault => ?stops,
    fun p hwork hrow => ?admitsPort⟩, ?cycle, fun w ws => ?retires,
    fun w o port dit i0 n k prog hop hwork hmore hlen hslot hnc => ?adds, fun w ws col cap => rfl, ?frees,
    fun o sl fr hholder hwork hst => ⟨fun hsound => ?holds, fun i reason r hlo hi hfault hfirst hr hidle hroom => ?parks⟩⟩
  case admits =>
    change execEvRowFiringAdmit s = _
    rw [execEvRowFiringAdmit, h.withEv]
    simp only [hfirst, hwork, hrow, hsound, hplace, Option.isSome_none, Bool.false_eq_true, if_false]
  case stops =>
    change execEvRowFiringAdmit s = _
    rw [execEvRowFiringAdmit, h.withEv]
    simp only [hfirst, hwork, hrow, hfault, Option.isSome_none, Bool.false_eq_true, if_false]
  case admitsPort =>
    change execEvRowFiringAdmit s = _
    rw [execEvRowFiringAdmit, h.withEv]
    simp only [hfirst, hwork, hrow, Option.isSome_some, if_true]
  case cycle =>
    change execEvRowFiringRetire s = _
    rw [execEvRowFiringRetire, h.withEv]
  case retires =>
    rw [State.retireAll]
    simp only [List.all_eq_true, beq_iff_eq]
  case adds =>
    obtain ⟨hmem, hrows⟩ := State.retireRow_run hop hwork hmore
    have hself (i : Nat) (hi : i < 128) : (((s.retireRow e.pos w).matrix e.pos).accRow w.slot).getD i 0 =
        BitVec.ofNat 32 ((s.matrix e.pos).retiredElem o w i (((s.matrix e.pos).accRow w.slot).getD i 0).toNat).1 := by
      rw [hrows, Matrix.getD_accRow_setRow, Matrix.getD_retired (hlen ▸ hi)]
    refine ⟨fun r hr => (hrows r).trans (Matrix.accRow_setRow_ne _ _ hr), hmem, fun i hi hcol => ?_, fun hint i hi => ?_, fun hfloat i hi => ?_⟩
    · rw [hself i hi, Matrix.retiredElem_of_le hcol, BitVec.ofNat_toNat, BitVec.setWidth_eq]
    · rw [hself i (Nat.lt_of_lt_of_le hi hnc), Matrix.retiredElem_int hi hint, accInt_eq]
    · rw [hself i (Nat.lt_of_lt_of_le hi hnc), Matrix.retiredElem_float hi hfloat]
  case frees =>
    change execEvBBufferFree s = _
    rw [execEvBBufferFree, h.withEv]
  case holds =>
    have hnone := MnBuf.firstFault_eq_none hsound
    change execEvHoldComplete s = _
    rw [execEvHoldComplete, h.withEv]
    simp only [hholder, hchecks hst, if_false]
    split
    case h_1 => simp only [hwork]
    case h_2 hsome => exact absurd (hsome.symm.trans hnone) nofun
  case parks =>
    have hsome := MnBuf.firstFault_eq_some hlo hi hfault hfirst
    change execEvHoldComplete s = _
    rw [execEvHoldComplete, h.withEv]
    simp only [hholder, hchecks hst, if_false]
    split
    case h_1 hnone => exact absurd (hsome.symm.trans hnone) nofun
    case h_2 j why hj =>
      obtain ⟨rfl, rfl⟩ : i = j ∧ reason = why := Prod.mk.inj (Option.some.inj (hsome.symm.trans hj))
      simp only [hr, hroom]
      refine (if_neg fun hbusy => ?_).trans (if_neg nofun)
      obtain ⟨w, hw, hreads⟩ := List.any_eq_true.mp hbusy
      split at hreads
      next x hx => exact hidle w hw x hx (beq_iff_eq.mp hreads)
      next => exact absurd hreads nofun

end Sys2Proof.Claims
end

section
/-! SUPPORT. The Home Slice instructions issue (R358 to R360), and what an atomic computes (R361 to R363). -/

open Sys2Proof Sys2Proof.Machine

namespace Sys2Proof.Machine

/-! ## Bits of a mask -/

theorem maskOf_succ (n : Nat) (p : Nat → Bool) : maskOf (n + 1) p = maskOf n p + if p n then 2 ^ n else 0 := by
  have add (l : List Nat) (a : Nat) : l.foldr (fun i acc => if p i then acc + 2 ^ i else acc) a =
      l.foldr (fun i acc => if p i then acc + 2 ^ i else acc) 0 + a := by
    induction l with
    | nil => simp
    | cons i l ih =>
      rw [List.foldr_cons, List.foldr_cons, ih]
      split <;> omega
  simp only [maskOf, List.range_succ, List.foldr_append, List.foldr_cons, List.foldr_nil, Nat.zero_add]
  exact add _ _

theorem maskOf_lt (n : Nat) (p : Nat → Bool) : maskOf n p < 2 ^ n := by
  induction n with
  | zero => exact Nat.one_pos
  | succ n ih =>
    rw [maskOf_succ, Nat.pow_succ]
    split <;> omega

theorem bit_eq_testBit (n i : Nat) : bit n i = n.testBit i := by
  rw [Nat.testBit_eq_decide_div_mod_eq, bit]
  rfl

theorem bit_maskOf {n l : Nat} (p : Nat → Bool) (hl : l < n) : bit (maskOf n p) l = p l := by
  rw [bit_eq_testBit]
  induction n with
  | zero => omega
  | succ n ih =>
    rw [maskOf_succ]
    rcases Nat.lt_succ_iff_lt_or_eq.mp hl with hlt | rfl
    · split
      · rw [Nat.add_comm, Nat.testBit_two_pow_add_gt hlt, ih hlt]
      · exact ih hlt
    · split
      case isTrue h => rw [Nat.add_comm, Nat.testBit_two_pow_add_eq, Nat.testBit_lt_two_pow (maskOf_lt l p), h]; rfl
      case isFalse h => rw [Nat.add_zero, Nat.testBit_lt_two_pow (maskOf_lt l p), eq_false_of_ne_true h]

/-! ## The operations of the element as a firing goes on -/

theorem State.leaveBuf_ops (s : State) (c : Coord) (k port arr : Nat) (buf : Buf) : (s.leaveBuf c k port arr buf).ops = s.ops := by
  unfold State.leaveBuf
  cases buf with
  | chit | shared => dsimp only; split <;> rfl
  | _ => rfl

theorem State.endScales_ops (s : State) (region : Nat) (c : Coord) : (s.endScales region c).ops = s.ops := by
  unfold State.endScales
  exact foldl_keep State.ops (fun s (h : HeldScale) => s.tcntSub region h.tok.frame 1) (fun _ _ => rfl) _ _

theorem State.gather_ops (s : State) (c : Coord) (slot : Nat) : (s.gather c slot).ops = s.ops := by
  unfold State.gather
  split
  · rfl
  · split
    · rfl
    · rw [State.endScales_ops, foldl_keep State.ops _ fun s i => s.leaveBuf_ops ..]
      rfl

theorem State.advance_ops (s : State) (c : Coord) (slot : Nat) : (s.advance c slot).ops = s.ops := by
  unfold State.advance
  split
  · rfl
  · dsimp only
    split <;> exact s.gather_ops c slot

theorem State.issued_ops (s : State) (f : Firing) (acquire : Bool) (id : Nat) : (s.issued f acquire id).ops = s.ops := by
  unfold State.issued
  split
  · rfl
  · exact s.advance_ops ..

/-- An operation that is not performed, or owes a reply or a receipt, is not ended. -/
theorem State.mem_settle_ops {s : State} {o : Op} (ho : o ∈ s.ops) (hafter : o.after = []) (howes : o.todo ≠ [] ∨ o.reply ≠ 0 ∨ o.receipt ≠ 0) :
    o ∈ s.settle.ops := by
  refine List.mem_filter.mpr ⟨List.mem_map.mpr ⟨o, ho, ?_⟩, ?_⟩
  · cases o
    subst hafter
    rfl
  · rcases howes with htodo | hreply | hreceipt
    · simp [Op.performed, htodo]
    · simp [hreply]
    · simp [hreceipt]

/-- An operation that is issued stands among the element's operations while its firing goes on. -/
theorem State.mem_ops_of_issue (s : State) (f : Firing) (acquire : Bool) {o : Op} (hafter : o.after = [])
    (howes : o.todo ≠ [] ∨ o.reply ≠ 0 ∨ o.receipt ≠ 0) : o ∈ ((s.bumpOp.issue o).issued f acquire o.id).settle.ops := by
  refine State.mem_settle_ops ?_ hafter howes
  rw [State.issued_ops]
  exact List.mem_append_right _ List.mem_cons_self

/-! ## The write-buffer entries of some lines -/

/-- The entries of the current cluster's write buffer that hold one of the lines. -/
def State.entriesOf (s : State) (lines : List Nat) : List Nat := (s.cluster (clusterOf s.cur.pos)).wbOf lines

theorem State.reserve_entriesOf (s : State) (c : Coord) (k rw count : Nat) (lines : List Nat) :
    (s.reserve c k rw count).entriesOf lines = s.entriesOf lines := by
  have take (s : State) (c : Coord) (k port : Nat) : (s.takeChit c k port).entriesOf lines = s.entriesOf lines := by
    unfold State.takeChit
    split <;> rfl
  unfold State.reserve
  dsimp only
  split
  · rfl
  · exact foldl_keep (State.entriesOf · lines) _ (fun s i => foldl_keep (State.entriesOf · lines) _ (fun s _ => take s ..) _ s) _ s

theorem State.sinkLanes_entriesOf (s : State) (f : Firing) (g : Bool) (sunk : List (Nat × Int)) (lines : List Nat) :
    (s.sinkLanes f g sunk).entriesOf lines = s.entriesOf lines := by
  have post (s : State) (r : Region) (hold : Hold) (i : FaultInfo) : (s.postFor r hold i).entriesOf lines = s.entriesOf lines := by
    unfold State.postFor
    dsimp only
    split <;> rfl
  cases sunk with
  | nil => rfl
  | cons x rest =>
    unfold State.sinkLanes State.reportSink
    dsimp only
    split
    · rfl
    · split
      · rfl
      · exact post ..

theorem State.writeThrough_entriesOf (s : State) (part : Option Nat) (hit : TierLine → Bool) (lines : List Nat) :
    (s.writeThrough part hit).entriesOf lines = s.entriesOf lines := by
  have meter (s : State) (e t : Nat) : (s.meterHome part e t).entriesOf lines = s.entriesOf lines := by
    unfold State.meterHome
    split <;> rfl
  have clean (s : State) (t : TierLine) : (s.clean part t.line).entriesOf lines = s.entriesOf lines := by
    unfold State.clean
    split
    · exact meter ..
    · rfl
  exact foldl_keep (State.entriesOf · lines) (fun s (t : TierLine) => s.clean part t.line) clean _ s

theorem Table.get_map_values {κ α : Type} [DecidableEq κ] (t : Table κ α) (d : α) (g : α → α) (k : κ) :
    Table.get (t.map fun x => (x.1, g x.2)) (g d) k = g (t.get d k) := by
  induction t with
  | nil => rfl
  | cons x t ih =>
    rw [List.map_cons, Table.get, Table.get]
    split
    · rfl
    · exact ih

/-- A write-buffer entry with its two marks as `p` gives them (R353). -/
def WbEntry.marked (p : List (Coord × Nat × Nat × Nat) → Bool × Bool → Bool × Bool) (e : WbEntry) : WbEntry :=
  { e with seen := (p e.writers (e.seen, e.rel)).1, rel := (p e.writers (e.seen, e.rel)).2 }

theorem State.markWrites_cluster (s : State) (p : List (Coord × Nat × Nat × Nat) → Bool × Bool → Bool × Bool) (g : Nat) :
    (s.markWrites p).cluster g = { s.cluster g with wb := (s.cluster g).wb.map (WbEntry.marked p) } :=
  Table.get_map_values s.clusters {} (fun c => { c with wb := c.wb.map (WbEntry.marked p) }) g

/-- The marks of a write-buffer entry say nothing of its line. -/
theorem State.markWrites_entriesOf (s : State) (p : List (Coord × Nat × Nat × Nat) → Bool × Bool → Bool × Bool) (lines : List Nat) :
    (s.markWrites p).entriesOf lines = s.entriesOf lines := by
  simp only [State.entriesOf, State.markWrites_cluster, Cluster.wbOf, List.filter_map, List.map_map]
  rfl

theorem State.released_entriesOf (s : State) (f : Firing) (scope : Nat) (lines : List Nat) :
    (s.released f scope).entriesOf lines = s.entriesOf lines := by
  unfold State.released
  rw [State.markWrites_entriesOf]
  split
  · exact State.writeThrough_entriesOf ..
  · rfl

/-! ## The checks of accesses -/

/-- The state in which an element has taken translations into its firing and its cache (R218). -/
def State.holding (s : State) (used : List Xlat) (m : Me → Me) : State :=
  (s.modSlot s.cur.pos s.cur.slot fun f => { f with xl := used }).modMe s.cur.pos m

section
variable (s : State) (used : List Xlat) (m : Me → Me)

theorem State.holding_ctx (c : Coord) (k : Nat) : (s.holding used m).ctx c k = s.ctx c k := by
  unfold State.ctx
  change ((s.modSlot s.cur.pos s.cur.slot _).node c).ctx k = _
  by_cases hc : c = s.cur.pos
  · rw [hc, State.modSlot, State.node_modNode]
    rfl
  · rw [State.node_modSlot_ne s s.cur.pos c _ _ hc]

theorem State.holding_canReserve (c : Coord) (k rw count : Nat) : (s.holding used m).canReserve c k rw count = s.canReserve c k rw count := by
  simp only [State.canReserve, State.holding_ctx]

theorem State.holding_sinkMustWait (f : Firing) : (s.holding used m).sinkMustWait f = s.sinkMustWait f := rfl

theorem State.holding_entriesOf (lines : List Nat) : (s.holding used m).entriesOf lines = s.entriesOf lines := rfl

/-- Address order and barriers are held against the operations under way, not against the firing's translations. -/
theorem State.holding_heldBack (f : Firing) (c : Coord) (scope : Nat) (lines : List Nat) :
    (s.holding used m).heldBack f c 4 scope lines = s.heldBack f c 4 scope lines := by
  simp only [State.heldBack, if_true]
  rfl

theorem State.holding_releaseReady {f : Firing} {scope : Nat} (h : s.releaseReady f scope = none) :
    (s.holding used m).releaseReady f scope = none := by
  unfold State.releaseReady at h ⊢
  dsimp only at h
  split at h
  case isTrue hclear => exact if_pos hclear
  case isFalse => exact absurd h nofun

end

/-- Where every address has a translation, an instruction goes on with them (R218). -/
theorem State.withXlat_of_hits {s : State} {f : Firing} {stream : Option Nat} {part : Nat} {vas : List Nat}
    (h : ∀ v ∈ vas, (s.xlatOf f stream part v).isSome) :
    ∃ used m, ∀ k, s.withXlat f stream part vas k = k (s.holding used m) fun v => (s.xlatOf f stream part v).getD (Xlat.failed part v 3) := by
  have hmiss : (vas.filter fun v => (s.xlatOf f stream part v).isNone) = [] :=
    List.filter_eq_nil_iff.mpr fun v hv => by simp [Option.isSome_iff_ne_none.mp (h v hv)]
  simp only [State.withXlat, hmiss, List.isEmpty_nil, Bool.not_true, Bool.false_eq_true, if_false]
  exact ⟨_, _, fun _ => rfl⟩

end Sys2Proof.Machine

namespace Sys2Proof.Claims

section
variable {s : State} {f : Firing} {r : Region}

theorem Sound.accessFault {rd wr : Bool} {size align : Nat} {a : Int} (h : Sound s f r true rd wr 4 size align a) (t : State) (hdev : t.dev = s.dev) :
    t.accessFault r true rd wr size align (xlat s f r 4) a = none := by
  obtain ⟨halign, -, hxlat⟩ := h
  have hfault : ∀ v ∈ vasOf a size, (xlat s f r 4 v).fault t.dev rd wr v = none := fun v hv => by
    obtain ⟨x, hx, hnone⟩ := hxlat rfl v hv
    rw [xlat, hx, hdev]
    exact hnone
  simp only [State.accessFault, Bool.not_true, Bool.false_and, Bool.false_eq_true, if_false, halign, ne_eq, not_true_eq_false, if_true]
  exact List.findSome?_eq_none_iff.mpr hfault

/-- Accesses to G-space that fault nowhere pass the checks of their instruction, with the translations that the element holds (R218, R224). -/
theorem checked_of_sound {rd wr : Bool} {size align : Nat} {lanes : List (Nat × Int)} (hr : s.region f.region = some r)
    (hstall : s.stalled r.part = false) (hsound : ∀ x ∈ lanes, Sound s f r true rd wr 4 size align x.2) :
    ∃ used m, ∀ k, s.checked f true rd wr size align none none lanes k = k (s.holding used m) r (xlat s f r 4) := by
  have hhits : ∀ v ∈ (lanes.filter fun l => true && wrap l.2 48 % align == 0).flatMap fun l => vasOf l.2 size,
      (s.xlatOf f none r.part v).isSome := fun v hv => by
    obtain ⟨l, hl, hv⟩ := List.mem_flatMap.mp hv
    obtain ⟨-, -, hxlat⟩ := hsound l (List.mem_filter.mp hl).1
    obtain ⟨x, hx, -⟩ := hxlat rfl v hv
    exact Option.isSome_of_eq_some hx
  obtain ⟨used, m, hgoes⟩ := State.withXlat_of_hits hhits
  have hpass : (lanes.findSome? fun l => ((s.holding used m).accessFault r true rd wr size align (xlat s f r 4) l.2).map fun e => (l, e)) = none :=
    List.findSome?_eq_none_iff.mpr fun l hl => by rw [(hsound l hl).accessFault (s.holding used m) rfl]; rfl
  have hx : (fun v => (s.xlatOf f none r.part v).getD (Xlat.failed r.part v 3)) = xlat s f r 4 := rfl
  refine ⟨used, m, fun k => ?_⟩
  simp only [State.checked, withRegion_of_region hr, State.stallsNew, hstall, Bool.and_false, Bool.false_and, Bool.false_eq_true, if_false]
  rw [hgoes, hx, hpass]

end

/-! ## What the Home Slice instructions issue -/

/-- The plan touches what the row says: its lanes with their operands, and its suppressed lanes, which the reply has poisoned. -/
structure HomeRow.Plans (row : HomeRow) (f : Firing) (p : HPlan) : Prop where
  lanes : p.lanes = row.lanes
  args : p.args = row.args
  sunk : p.sunk.map (·.1) = row.sunk
  poison : ∀ l, l < f.len → (bit p.psn l = true ↔ l ∈ row.sunk)

/-- The row's instruction is a Home Slice instruction whose plan touches what the row says. -/
def HomeRow.Executes (row : HomeRow) (s : State) (f : Firing) (n : Niw) (base : Nat) : Prop :=
  ∃ plan, exec row.i s = s.home n row.kind plan ∧ row.Plans f (plan s f base)

section
variable {s : State} {f : Firing} {n : Niw} {base : Nat}

theorem bit_maskOf_map_fst {α : Type} {k l : Nat} (hl : l < k) (ls : List (Nat × α)) :
    bit (maskOf k fun i => ls.any fun c => c.1 == i) l = true ↔ l ∈ ls.map (·.1) := by
  rw [bit_maskOf _ hl]
  simp

/-- The row of an atomic that acts lane by lane (R361 to R363). -/
def laneRow (s : State) (f : Firing) (n : Niw) (base : Nat) (i : Instr) (opc : Nat) (cas : Bool) : HomeRow :=
  let b (l : Nat) : PVal := s.readSel s.cur.pos f n .i32 1 n.b l
  let v (l : Nat) : PVal := s.readSel s.cur.pos f n n.ty 2 n.c l
  let x (l : Nat) : PVal := s.readPort f n.ty 3 (Sel.portIx n.c + 1) l
  let ok := (f.active n.pred).filter fun l => !((b l).2 || (v l).2 || (cas && (x l).2))
  { i := i, kind := .atomic opc, lanes := ok.map fun l => (l, eaOf n base (tyBytes n.ty) (b l).1),
    args := ok.map fun l => (l, (v l).1, if cas then (x l).1 else 0),
    sunk := (f.active n.pred).filter fun l => (b l).2 || (v l).2 || (cas && (x l).2) }

/-- The row of an instruction that acts on the element of the lowest active lane, with the values of the lanes `cs`; `all`: the whole
instruction is suppressed (R360, R364, R366). -/
def oneRow (s : State) (f : Firing) (n : Niw) (base : Nat) (i : Instr) (opc : Nat) (cs : List Nat) (all : Bool) : HomeRow :=
  let a := (f.active n.pred).headD 0
  let v (l : Nat) : PVal := s.readSel s.cur.pos f n n.ty 2 n.c l
  if all then { i := i, kind := .atomic opc, lanes := [], sunk := f.active n.pred }
  else { i := i, kind := .atomic opc, lanes := [(a, eaOf n base (tyBytes n.ty) (s.readSel s.cur.pos f n .i32 1 n.b a).1)],
         args := (cs.filter fun l => !(v l).2).map fun l => (l, (v l).1, 0), sunk := cs.filter fun l => (v l).2 }

/-- The row of HSEQ (R367). -/
def seqRow (s : State) (f : Firing) (n : Niw) (base : Nat) : HomeRow :=
  let b (l : Nat) : PVal := s.readSel s.cur.pos f n .i32 1 n.b l
  { i := .hseq n, kind := .hseq, lanes := ((f.active n.pred).filter fun l => !(b l).2).map fun l => (l, eaOf n base 4 (b l).1),
    sunk := (f.active n.pred).filter fun l => (b l).2 }

theorem laneRow_plans (i : Instr) (opc : Nat) (cas : Bool) : (laneRow s f n base i opc cas).Plans f (State.lanePlan n cas s f base) := by
  have hsunk : (State.lanePlan n cas s f base).sunk.map (·.1) = (laneRow s f n base i opc cas).sunk := by
    cases cas <;> simp [State.lanePlan, laneRow, List.filter_map, Function.comp_def]
  refine ⟨?_, ?_, hsunk, fun l hl => hsunk ▸ ?_⟩
  · cases cas <;> simp [State.lanePlan, laneRow, List.filter_map, Function.comp_def]
  · cases cas <;> simp [State.lanePlan, laneRow, List.filter_map, Function.comp_def]
  · refine (bit_maskOf_map_fst hl _).trans ?_
    simp [State.lanePlan]

/-- An instruction on lane a's element is suppressed for a's index, and for a's value when it reads no other lane's (R360). -/
theorem oneRow_plans (i : Instr) (opc : Nat) (each : Bool) {cs : List Nat} {all : Bool}
    (hcs : cs = if each then f.active n.pred else [(f.active n.pred).headD 0])
    (hall : all = ((s.readSel s.cur.pos f n .i32 1 n.b ((f.active n.pred).headD 0)).2 ||
      (!each && cs.any fun l => (s.readSel s.cur.pos f n n.ty 2 n.c l).2))) :
    (oneRow s f n base i opc cs all).Plans f (State.onePlan n each s f base) := by
  simp only [oneRow, State.onePlan, ← hcs, List.any_map, Function.comp_def, ← hall]
  cases all with
  | true => exact ⟨rfl, rfl, by simp [Function.comp_def], fun l hl => by simp [mem_active, hl]⟩
  | false =>
    refine ⟨rfl, by simp [List.filter_map, Function.comp_def], by simp [List.filter_map, Function.comp_def], fun l hl => ?_⟩
    simp [bit_maskOf _ hl, List.filter_map, Function.comp_def]

theorem oneRow_executes {i : Instr} {opc : Nat} (each : Bool) {cs : List Nat} {all : Bool}
    (hexec : exec i s = s.home n (.atomic opc) (State.onePlan n each))
    (hplans : (oneRow s f n base i opc cs all).Plans f (State.onePlan n each s f base)) : (oneRow s f n base i opc cs all).Executes s f n base := by
  cases all <;> exact ⟨_, hexec, hplans⟩

theorem seqRow_executes : (seqRow s f n base).Executes s f n base := by
  refine ⟨_, (rfl : execHseq n s = _), ?lanes, rfl, ?sunk, fun l hl => (bit_maskOf_map_fst hl _).trans ?poison⟩
  case lanes => simp only [seqRow, State.column, List.map_map, List.filter_map, Function.comp_def]
  case sunk => simp only [seqRow, State.column, List.map_map, List.filter_map, Function.comp_def, List.map_id']
  case poison => simp only [seqRow, State.column, List.map_map, List.filter_map, Function.comp_def, List.map_id']

theorem executes_of_mem_homeRows : ∀ row ∈ homeRows s f n base, row.Executes s f n base := by
  have lane {i : Instr} {opc : Nat} (cas : Bool) (hexec : exec i s = s.home n (.atomic opc) (State.lanePlan n cas)) :
      (laneRow s f n base i opc cas).Executes s f n base := ⟨_, hexec, laneRow_plans i opc cas⟩
  simp only [homeRows, List.forall_mem_cons, List.not_mem_nil, false_imp_iff, implies_true, and_true]
  refine ⟨lane false rfl, lane false rfl, lane false rfl, lane false rfl, lane false rfl, lane false rfl, lane false rfl, lane false rfl,
    lane false rfl, lane false rfl, lane true rfl, ?hinc, ?hred, seqRow_executes⟩
  case hinc => exact oneRow_executes false rfl (oneRow_plans _ _ false rfl (by simp))
  case hred => exact oneRow_executes true rfl (oneRow_plans _ _ true rfl (by simp))

end

/-! ## A Home Slice instruction issues -/

/-- What a Home Slice instruction takes before its requests are formed: its release is performed, its reply's credits are taken, its suppressed
lanes are counted (R359, R360). -/
def homeTaken (s : State) (f : Firing) (n : Niw) (p : HPlan) : State :=
  let s := if bit (Niw.ord n) 1 then s.released f (Niw.scope n) else s
  let s := if Dst.replyIx n.d = 0 then s else s.reserve s.cur.pos f.ctx (Dst.replyIx n.d - 1) (tokensOf n.ty.isWide f.len)
  s.sinkLanes f true p.sunk

/-- The state in which a Home Slice instruction issues its operation: the write-buffer entries of its lines drain, its access groups count. -/
def homeReady (s : State) (f : Firing) (n : Niw) (p : HPlan) (lines : List Nat) : State :=
  let s := homeTaken s f n p
  (s.drain (clusterOf s.cur.pos) (s.entriesOf lines) (Niw.scope n == 3)).countGroups true
    ((accessGroups (tyBytes n.ty == 8) p.lanes).map (rangesOf 0 (tyBytes n.ty)))

/-- The operation that a Home Slice instruction issues in the state `u`, behind the write-buffer entries `old`. -/
def homeOp (u : State) (f : Firing) (n : Niw) (kind : OpKind) (p : HPlan) (reqs : List LineReq) (old : List Nat) : Op :=
  { opOf u f kind n.ty with
    mask := f.eff n.pred, poison := p.psn, scope := Niw.scope n, reply := Dst.replyIx n.d, receipt := Niw.rwx n, niw := some n,
    acq := bit (Niw.ord n) 0, todo := reqs, waits := old, args := p.args, rpoison := !p.sunk.isEmpty }

section
variable {s : State} {f : Firing} {n : Niw} {r : Region} {base : Nat} {kind : OpKind} {plan : State → Firing → Nat → HPlan}

theorem homeTaken_entriesOf (p : HPlan) (lines : List Nat) : (homeTaken s f n p).entriesOf lines = s.entriesOf lines := by
  have hreleased : (if bit (Niw.ord n) 1 then s.released f (Niw.scope n) else s).entriesOf lines = s.entriesOf lines := by
    split
    · exact State.released_entriesOf ..
    · rfl
  unfold homeTaken
  dsimp only
  rw [State.sinkLanes_entriesOf]
  split
  · exact hreleased
  · exact (State.reserve_entriesOf ..).trans hreleased

theorem homeReady_mem (p : HPlan) (lines : List Nat) : (homeReady s f n p lines).mem = s.mem := by
  simp only [homeReady, homeTaken, State.countGroups_mem, State.drain_mem, State.sinkLanes_mem]
  split <;> split <;> simp

/-- A Home Slice instruction whose accesses are sound, with credits for its reply and nothing that holds it back, issues its operation (R359). -/
theorem Runs.home_issues (h : Runs s f) (hopid : f.opid = 0) (hact : f.eff n.pred ≠ 0) (hr : s.region f.region = some r)
    (hstall : s.stalled r.part = false) (hbase : f.addrConst n.a = some (true, base))
    (hsound : ∀ x ∈ (plan s f base).lanes, Sound s f r true true (kind != .hseq) 4 (tyBytes n.ty) (tyBytes n.ty) x.2)
    (hsink : (plan s f base).sunk ≠ [] → s.sinkMustWait f = false) {reqs : List LineReq}
    (hreqs : atomReqs (xlat s f r 4) ((plan s f base).lanes.map fun l => (l.1, wrap l.2 48)) = reqs)
    (hcredits : Dst.replyIx n.d ≠ 0 → s.canReserve s.cur.pos f.ctx (Dst.replyIx n.d - 1) (tokensOf n.ty.isWide f.len) = true)
    (hfree : s.heldBack f s.cur.pos 4 (Niw.scope n) (reqs.map (·.line)).eraseDups = false)
    (hrelease : bit (Niw.ord n) 1 = true → s.releaseReady f (Niw.scope n) = none) :
    ∃ u : State, u.mem = s.mem ∧
      let o := homeOp u f n kind (plan s f base) reqs (s.entriesOf (reqs.map (·.line)).eraseDups)
      s.home n kind plan = .next ((u.bumpOp.issue o).issued f (bit (Niw.ord n) 0) o.id).settle := by
  obtain ⟨used, m, hchecked⟩ := checked_of_sound hr hstall hsound
  have hnowait : ((s.holding used m).sinkMustWait f && !(plan s f base).sunk.isEmpty) = false := by
    cases hsunk : (plan s f base).sunk with
    | nil => simp
    | cons x rest => rw [State.holding_sinkMustWait, hsink (hsunk ▸ List.cons_ne_nil x rest), Bool.false_and]
  have hproceeds : ((Dst.replyIx n.d != 0 && !(s.holding used m).canReserve s.cur.pos f.ctx (Dst.replyIx n.d - 1) (tokensOf n.ty.isWide f.len)) ||
      (s.holding used m).heldBack f s.cur.pos 4 (Niw.scope n) (reqs.map (·.line)).eraseDups) = false := by
    rw [State.holding_canReserve, State.holding_heldBack, hfree, Bool.or_false]
    by_cases hrep : Dst.replyIx n.d = 0
    · rw [hrep]; rfl
    · rw [hcredits hrep, Bool.not_true, Bool.and_false]
  have hready : (if bit (Niw.ord n) 1 then (s.holding used m).releaseReady f (Niw.scope n) else none) = none := by
    split
    case isTrue hord => exact State.holding_releaseReady _ _ _ (hrelease hord)
    case isFalse => rfl
  refine ⟨homeReady (s.holding used m) f n (plan s f base) (reqs.map (·.line)).eraseDups, homeReady_mem _ _, ?_⟩
  have hold : (homeTaken (s.holding used m) f n (plan s f base)).entriesOf (reqs.map (·.line)).eraseDups =
      s.entriesOf (reqs.map (·.line)).eraseDups := (homeTaken_entriesOf ..).trans (State.holding_entriesOf ..)
  refine (h.withFiring _).trans ?_
  simp only [State.afterHold, hopid, if_true, h.not_skipped, h.not_patched, hact, hbase, Bool.false_eq_true, if_false]
  refine (congrArg (fun write => s.checked f true true write _ _ none none _ _) (?write : _ = (kind != .hseq))).trans ((hchecked _).trans ?_)
  case write => cases kind <;> rfl
  have hpos : (s.holding used m).cur = s.cur := rfl
  simp only [hreqs, hnowait, hpos, hproceeds, hready, Bool.false_eq_true, if_false]
  rw [← hold]
  rfl

end

theorem atomReqs_ne_nil {x : Nat → Xlat} {lanes : List (Nat × Nat)} (h : lanes ≠ []) : atomReqs x lanes ≠ [] := by
  cases lanes with
  | nil => exact absurd rfl h
  | cons l ls => simp [atomReqs, List.eraseDups_cons]

theorem homeIssues : HomeIssues := by
  intro n s f r base row hrow h hopid hact hr hstall hbase hsound hsink rep sc reqs hcredits hfree hrelease howes
  obtain ⟨plan, hexec, hlanes, hargs, hsunk, hpoison⟩ := executes_of_mem_homeRows row hrow
  have hempty : (plan s f base).sunk.isEmpty = row.sunk.isEmpty := by rw [← hsunk, List.isEmpty_map]
  have hrep : Dst.replyIx n.d = rep := rfl
  have hsunkne : (plan s f base).sunk ≠ [] → row.sunk ≠ [] := fun hne => by rwa [← hsunk, ne_eq, List.map_eq_nil_iff]
  obtain ⟨u, hmem, hhome⟩ := h.home_issues hopid hact hr hstall hbase (hlanes ▸ hsound) (fun hne => hsink (hsunkne hne))
    (congrArg (fun ls : List (Nat × Int) => atomReqs (xlat s f r 4) (ls.map fun l => (l.1, wrap l.2 48))) hlanes)
    (hrep ▸ hcredits) hfree hrelease
  refine ⟨_, _, hexec.trans hhome, by simpa using hmem, State.mem_ops_of_issue _ _ _ rfl ?owes, rfl, rfl, rfl, rfl, hargs, rfl, hrep, rfl, rfl, rfl,
    rfl, rfl, rfl, congrArg not hempty, hpoison⟩
  case owes =>
    rw [← hrep] at howes
    exact howes.imp_left fun hne => atomReqs_ne_nil (by simpa using hne)

/-! ## What an atomic computes -/

theorem wrap_of_lt {m w : Nat} (h : m < 2 ^ w) : wrap m w = m := by
  rw [wrap, Int.emod_eq_of_lt (Int.natCast_nonneg m) (by exact_mod_cast h), Int.toNat_natCast]

theorem wrap_sub_pow (x : Int) (w : Nat) : wrap (x - 2 ^ w) w = wrap x w := by
  rw [wrap, wrap, Int.sub_emod_right]

/-- The integer that a pattern stands for, signed or not, wraps to the pattern (R8, R12). -/
theorem wrap_asInt (ty : Ty) {m : Nat} (h : m < 2 ^ ty.width) : wrap (asInt ty m) ty.width = m := by
  have hpos : ty.width ≠ 0 := by cases ty <;> decide
  simp only [asInt, sx, Nat.mod_eq_of_lt h, hpos, if_false]
  split
  · split
    · exact wrap_of_lt h
    · rw [wrap_sub_pow, wrap_of_lt h]
  · exact wrap_of_lt h

theorem atomicResults : AtomicResults := by
  intro r m v c
  refine ⟨rfl, rfl, fun hm hv _ => ⟨?min, ?max⟩, rfl, rfl, rfl, rfl, rfl, rfl, rfl⟩
  case min =>
    change (wrap (min (asInt r.ty m) (asInt r.ty v)) r.ty.width, 0) = _
    rw [Int.min_def]
    split
    · rw [wrap_asInt r.ty hm]
    · rw [wrap_asInt r.ty hv]
  case max =>
    change (wrap (max (asInt r.ty m) (asInt r.ty v)) r.ty.width, 0) = _
    rw [Int.max_def]
    split
    · rw [wrap_asInt r.ty hv]
    · rw [wrap_asInt r.ty hm]

/-- Settles O19: each row's instruction plans the row's lanes, and a plan without an obstacle is issued; an atomic's result by its opcode. -/
theorem homeSliceOperations : Obligations.HomeSliceOperations := ⟨homeIssues, atomicResults⟩

end Sys2Proof.Claims
end
